-- ==== Sys2Proof/Word.lean ====
section
/-!
DEFINITION. The word types of the J77 and its register indices (06 R129).
-/
namespace Sys2Proof

/-- A g register, a system register, a counter (R129). -/
abbrev Word := BitVec 64
/-- One lane of a v register, one element of a tile register (R129). -/
abbrev Lane := BitVec 32
/-- A byte of memory. -/
abbrev Byte := BitVec 8

/-- g0-g63. -/
abbrev GReg := Fin 64
/-- p0-p15. -/
abbrev PReg := Fin 16
/-- a0-a15. -/
abbrev AReg := Fin 16
/-- v0-v31. -/
abbrev VReg := Fin 32
/-- vm0-vm7. -/
abbrev VMReg := Fin 8
/-- t0-t31. -/
abbrev TReg := Fin 32
/-- m0-m7. -/
abbrev MReg := Fin 8
/-- lc0-lc3. -/
abbrev LReg := Fin 4

end Sys2Proof
end

