-- ==== Sys2Proof/Config.lean ====
section
/-!
DEFINITION. What the spec leaves to the implementation: values no rule states.  Each is opaque, so that
nothing can be proved of it.
-/
namespace Sys2Proof.Config

/-- The entropy source's n-th draw (05 R115 without DET): log 7. -/
opaque entropy : Nat → Word

/-- The attestation signature over a message's bytes, as a number (20 R319): log 8. -/
opaque signature : List Nat → Nat
/-- SHA-256 of the controller firmware and of the microprogram library (20 R319): log 8. -/
opaque firmwareDigest : Nat
/-- SHA-256 of the microprogram library: log 8. -/
opaque libraryDigest : Nat
/-- The 16-byte device identity (20 R319, R320): log 8. -/
opaque identity : Nat
/-- The 32-byte public key and its certificate's bytes (20 R319, R320): log 8. -/
opaque publicKey : Nat
/-- The certificate: log 8. -/
opaque certificate : List Nat
/-- The MAC addresses of ports 0-7 (20 R320): log 8. -/
opaque macAddress : Nat → Nat

/-- What the library routines whose microword order the spec does not give leave in their scratch tiles
(08 R198): log 12. -/
opaque scratch : Nat → Nat → Lane

/-- What training makes of the offset of a die's cycle counter over die 0's, by the draw (01 R16): log 7. -/
opaque dieOffset : Nat → Nat → Nat

/-- Bytes of a save slot whose layout 15 R273 does not give, by the draw: log 50. -/
opaque slotByte : Nat → Nat → Byte

/-- TVAL of LINK_TIMEOUT for a Skomon link, which 04 R98 does not give: log 15. -/
opaque linkDetail : Nat → Word

end Sys2Proof.Config
end

