-- ==== Sys2Proof/Syntax.lean ====
section
/-!
DEFINITION. The instructions of the J77: one constructor for each row of spec/opcode_table.json.

* The 157 slot instructions carry the operand fields of their encoding (06 R127, R133-R137).  The S, G
  and N bits belong to the slot and stand in `Slot`, not in the instruction.
* The three micro-operations of the matrix array are words of the microprogram store (08 R195).
* The 111 rows without an encoding are events: completions of the hardware's own units, the side
  effects of system-register accesses, and what the dispatcher, the host, the Eweral controller, a peer
  or the clock does to the machine.  Their arguments say which core, unit or message they concern.
-/
namespace Sys2Proof

/-- The instructions and events of the opcode table. -/
inductive Instr where
  /-- `ADD` (R330). Adds two g registers modulo 2^64 into gd. -/
  | add (d : GReg) (a : GReg) (b : GReg)
  /-- `SUB` (R330). Subtracts gb from ga modulo 2^64 into gd. -/
  | sub (d : GReg) (a : GReg) (b : GReg)
  /-- `AND` (R330). Bitwise AND of two g registers into gd. -/
  | and (d : GReg) (a : GReg) (b : GReg)
  /-- `OR` (R330). Bitwise OR of two g registers into gd. -/
  | or (d : GReg) (a : GReg) (b : GReg)
  /-- `XOR` (R381). Bitwise XOR of two g registers into gd. -/
  | xor (d : GReg) (a : GReg) (b : GReg)
  /-- `SHL` (R381). Shifts ga left by the unreduced count in gb. -/
  | shl (d : GReg) (a : GReg) (b : GReg)
  /-- `SHR` (R381). Shifts ga right with zero fill by the count in gb. -/
  | shr (d : GReg) (a : GReg) (b : GReg)
  /-- `SAR` (R381). Shifts ga right with sign fill by the count in gb. -/
  | sar (d : GReg) (a : GReg) (b : GReg)
  /-- `MUL` (R362). Writes the low 64 bits of the product of two g registers. -/
  | mul (d : GReg) (a : GReg) (b : GReg)
  /-- `MULH_S` (R362). Writes the high 64 bits of the signed 128-bit product. -/
  | mulhS (d : GReg) (a : GReg) (b : GReg)
  /-- `MULH_U` (R362). Writes the high 64 bits of the unsigned 128-bit product. -/
  | mulhU (d : GReg) (a : GReg) (b : GReg)
  /-- `DIVU` (R349). Unsigned 64-bit division; a zero divisor gives all ones. -/
  | divu (d : GReg) (a : GReg) (b : GReg)
  /-- `REMU` (R374). Unsigned 64-bit remainder; a zero divisor returns the dividend. -/
  | remu (d : GReg) (a : GReg) (b : GReg)
  /-- `CLKDIV` (R307). Requests new domain clock divisors for the core after holding issue for affected operations. -/
  | clkdiv (a : GReg)
  /-- `SLMARK` (R386). Marks the begin or end of a strandline path; an end writes the path to the ring. -/
  | slmark (a : GReg)
  /-- `FILLQ` (R272). Reissues or supplies a held retry-ring access and marks it DONE. -/
  | fillq (a : GReg) (b : GReg)
  /-- `CMP_EQ` (R345). Sets pd when two g registers are equal. -/
  | cmpEq (p : PReg) (a : GReg) (b : GReg)
  /-- `CMP_NE` (R345). Sets pd when two g registers differ. -/
  | cmpNe (p : PReg) (a : GReg) (b : GReg)
  /-- `CMP_LT` (R345). Sets pd on a signed less-than comparison. -/
  | cmpLt (p : PReg) (a : GReg) (b : GReg)
  /-- `CMP_LTU` (R345). Sets pd on an unsigned less-than comparison. -/
  | cmpLtu (p : PReg) (a : GReg) (b : GReg)
  /-- `ADDI` (R331). Adds a sign-extended 8-bit constant to ga. -/
  | addi (d : GReg) (a : GReg) (i : BitVec 8)
  /-- `SHI_L` (R384). Shifts ga left by a constant. -/
  | shiL (d : GReg) (a : GReg) (i : BitVec 6)
  /-- `SHI_R` (R384). Shifts ga right with zero fill by a constant. -/
  | shiR (d : GReg) (a : GReg) (i : BitVec 6)
  /-- `SHI_A` (R384). Shifts ga right with sign fill by a constant. -/
  | shiA (d : GReg) (a : GReg) (i : BitVec 6)
  /-- `SHI_ROL` (R384). Rotates ga left by a constant. -/
  | shiRol (d : GReg) (a : GReg) (i : BitVec 6)
  /-- `CMPI_EQ` (R346). Sets pd when ga equals a sign-extended constant. -/
  | cmpiEq (p : PReg) (a : GReg) (i : BitVec 6)
  /-- `CMPI_NE` (R346). Sets pd when ga differs from a sign-extended constant. -/
  | cmpiNe (p : PReg) (a : GReg) (i : BitVec 6)
  /-- `CMPI_LT` (R346). Sets pd on a signed comparison with a constant. -/
  | cmpiLt (p : PReg) (a : GReg) (i : BitVec 6)
  /-- `CMPI_LTU` (R346). Sets pd on an unsigned comparison with a sign-extended constant. -/
  | cmpiLtu (p : PReg) (a : GReg) (i : BitVec 6)
  /-- `LIS` (R353). Loads a sign-extended 14-bit constant into gd. -/
  | lis (d : GReg) (i : BitVec 14)
  /-- `SHIN` (R385). Shifts gd left by 14 and inserts a 14-bit constant. -/
  | shin (d : GReg) (i : BitVec 14)
  /-- `BR` (R339). Transfers control to a bundle at a signed word offset. -/
  | br (i : BitVec 20)
  /-- `CALL` (R342). Transfers control and writes the return address to gd. -/
  | call (d : GReg) (i : BitVec 12)
  /-- `RET` (R375). Transfers control to the bundle address held in ga. -/
  | ret (a : GReg)
  /-- `JMPR` (R352). Transfers control to an absolute bundle address in ga. -/
  | jmpr (a : GReg)
  /-- `LOOPS` (R354). Starts a hardware loop with count ga over the following bundles. -/
  | loops (k : LReg) (a : GReg) (i : BitVec 8)
  /-- `MFS` (R356). Reads a system register into gd, clearing RC fields. -/
  | mfs (d : GReg) (r : BitVec 12)
  /-- `MTS` (R361). Writes ga to a system register under its access rules; serves registers without behaviour of their own. -/
  | mts (a : GReg) (r : BitVec 12)
  /-- `SWAPS` (R395). Exchanges a g register with a system register atomically. -/
  | swaps (d : GReg) (r : BitVec 12)
  /-- `PLOG_AND` (R365). pd gets pa AND pb. -/
  | plogAnd (d : PReg) (a : PReg) (b : PReg)
  /-- `PLOG_OR` (R365). pd gets pa OR pb. -/
  | plogOr (d : PReg) (a : PReg) (b : PReg)
  /-- `PLOG_XOR` (R365). pd gets pa XOR pb. -/
  | plogXor (d : PReg) (a : PReg) (b : PReg)
  /-- `PLOG_ANDN` (R365). pd gets pa AND NOT pb. -/
  | plogAndn (d : PReg) (a : PReg) (b : PReg)
  /-- `WAIT` (R142). Holds issue until the outstanding-operation counters fall to the given bounds, or raises DEAD_WAIT. -/
  | wait (l : BitVec 4) (w : BitVec 4) (c : BitVec 4) (t : BitVec 4)
  /-- `BAR` (R222). Arrives at a barrier and waits for its generation to release. -/
  | bar (a : GReg) (b : GReg)
  /-- `BAR_ARR` (R222). Drains releases and records an arrival at a barrier generation. -/
  | barArr (d : GReg) (a : GReg) (b : GReg)
  /-- `BAR_WAIT` (R222). Waits for the task's last arrival at a barrier to release, then acquires. -/
  | barWait (a : GReg)
  /-- `DRAIN_REL` (R206). Holds later remote stores and commands until earlier stores and copies have performed at the scope. -/
  | drainRel (c : BitVec 2)
  /-- `DRAIN_ACQ` (R206). Holds later remote accesses until earlier loads, atomics, RECVs and QPOPs have returned. -/
  | drainAcq (c : BitVec 2)
  /-- `DRAIN_FULL` (R206). Holds later remote accesses until every earlier remote access has performed at the scope. -/
  | drainFull (c : BitVec 2)
  /-- `CLZ` (R344). Counts leading zero bits of ga. -/
  | clz (d : GReg) (a : GReg)
  /-- `TRAP` (R402). Raises SOFTWARE with TVAL from ga after the bundle commits. -/
  | trap (a : GReg)
  /-- `TRET` (R256). Returns from a handler: resumes, terminates, or hands the position back. -/
  | tret
  /-- `BRKP` (R340). Raises BREAKPOINT after its bundle commits. -/
  | brkp
  /-- `TEND` (R396). Ends the task after holding for its tile operations and releases to perform. -/
  | tend
  /-- `SPAWN` (R391). Posts a launch record from the scratchpad to the die's spawn queue. -/
  | spawn (a : GReg) (b : GReg)
  /-- `TRIG` (R403). Marks the task as having reached its trigger, with release. -/
  | trig
  /-- `RDCYC` (R368). Reads the cluster cycle counter into gd. -/
  | rdcyc (d : GReg)
  /-- `BSTEP` (R341). Snapshots the record cache and starts a boundary for the batch group. -/
  | bstep (d : GReg) (a : GReg)
  /-- `RQRD` (R376). Reads a record word or batch-map header word from the record cache. -/
  | rqrd (d : GReg) (a : GReg) (w : BitVec 6)
  /-- `RQWR` (R378). Writes a sampling word of a seated request's record if the RQID matches. -/
  | rqwr (d : GReg) (a : GReg) (w : BitVec 6)
  /-- `RQRET` (R377). Marks a seated request for retirement, cancellation or resume. -/
  | rqret (d : GReg) (a : GReg) (k : BitVec 6)
  /-- `TLD_4` (R398). Pushes a 4-byte tensor load into the LAQ. -/
  | tld4 (a : AReg) (t : BitVec 6) (m : VMReg)
  /-- `TLD_64` (R398). Pushes a 64-byte tensor load into the LAQ. -/
  | tld64 (a : AReg) (t : BitVec 6) (m : VMReg)
  /-- `TLD_256` (R398). Pushes a 256-byte tensor load into the LAQ. -/
  | tld256 (a : AReg) (t : BitVec 6) (m : VMReg)
  /-- `TLD_G` (R398). Pushes a gather of up to 64 elements at offsets from vi. -/
  | tldG (a : AReg) (v : VReg) (m : VMReg)
  /-- `TST_4` (R404). Pushes a 4-byte tensor store. -/
  | tst4 (a : AReg) (t : BitVec 6) (v : VReg)
  /-- `TST_64` (R404). Pushes a 64-byte tensor store. -/
  | tst64 (a : AReg) (t : BitVec 6) (v : VReg)
  /-- `TST_256` (R404). Pushes a 256-byte tensor store. -/
  | tst256 (a : AReg) (t : BitVec 6) (v : VReg)
  /-- `TST_S` (R404). Pushes a scatter store at offsets from vi. -/
  | tstS (a : AReg) (i : BitVec 5) (v : VReg)
  /-- `TOUCH_R` (R264). Translates and checks a region for reading and opens a pinned window, or faults. -/
  | touchR (a : AReg) (r : BitVec 6) (b : BitVec 6)
  /-- `TOUCH_W` (R264). Translates and checks a region for writing and opens a pinned window, or faults. -/
  | touchW (a : AReg) (r : BitVec 6) (b : BitVec 6)
  /-- `TOUCH_RW` (R264). Translates and checks a region for reading and writing and opens a pinned window. -/
  | touchRw (a : AReg) (r : BitVec 6) (b : BitVec 6)
  /-- `TOUCH_REL` (R401). Ends every window containing the register's origin element. -/
  | touchRel (a : AReg)
  /-- `ASET` (R334). Sets the TID or one coordinate of an address register. -/
  | aset (a : AReg) (r : GReg) (k : BitVec 3)
  /-- `AINC` (R332). Steps a coordinate of an address register with carry. -/
  | ainc (a : AReg) (r : GReg) (j : BitVec 2)
  /-- `AMOV_TO` (R333). Copies one address register into another. -/
  | amovTo (d : AReg) (a : AReg)
  /-- `AMOV_FROM` (R333). Copies one field of an address register into gd. -/
  | amovFrom (d : GReg) (a : AReg) (k : BitVec 3)
  /-- `ATOM_ADD` (R335). Indivisible add to a 4-byte element, returning the old value. -/
  | atomAdd (a : AReg) (t : BitVec 6) (v : VReg)
  /-- `ATOM_MIN` (R335). Indivisible minimum on a 4-byte element. -/
  | atomMin (a : AReg) (t : BitVec 6) (v : VReg)
  /-- `ATOM_MAX` (R335). Indivisible maximum on a 4-byte element. -/
  | atomMax (a : AReg) (t : BitVec 6) (v : VReg)
  /-- `ATOM_CAS` (R335). Indivisible compare-and-swap on a 4-byte element. -/
  | atomCas (a : AReg) (t : BitVec 6) (v : VReg)
  /-- `TLDT` (R400). Loads 64 rows into a tile at scheduled matrix-domain cycles. -/
  | tldt (a : AReg) (k : TReg) (c : BitVec 6)
  /-- `TSTT` (R405). Stores the 64 rows of a tile at scheduled cycles. -/
  | tstt (a : AReg) (k : TReg) (c : BitVec 6)
  /-- `VADD` (R407). Elementwise addition. -/
  | vadd (d : VReg) (a : VReg) (b : VReg) (m : VMReg)
  /-- `VSUB` (R407). Elementwise subtraction. -/
  | vsub (d : VReg) (a : VReg) (b : VReg) (m : VMReg)
  /-- `VMUL` (R407). Elementwise multiplication. -/
  | vmul (d : VReg) (a : VReg) (b : VReg) (m : VMReg)
  /-- `VFMA` (R407). Elementwise fused multiply-add into vd. -/
  | vfma (d : VReg) (a : VReg) (b : VReg) (m : VMReg)
  /-- `VMAX` (R414). Elementwise maximumNumber. -/
  | vmax (d : VReg) (a : VReg) (b : VReg) (m : VMReg)
  /-- `VMIN` (R414). Elementwise minimumNumber. -/
  | vmin (d : VReg) (a : VReg) (b : VReg) (m : VMReg)
  /-- `VSEL` (R422). Selects lanes from va or vb by mask. -/
  | vsel (d : VReg) (a : VReg) (b : VReg) (m : VMReg)
  /-- `VMOV` (R416). Copies unmasked lanes of va into vd. -/
  | vmov (d : VReg) (a : VReg) (m : VMReg)
  /-- `VCMP_EQ` (R409). Compares elements for equality into a mask register. -/
  | vcmpEq (d : VMReg) (a : VReg) (b : VReg) (m : VMReg)
  /-- `VCMP_NE` (R409). Compares elements for inequality into a mask register. -/
  | vcmpNe (d : VMReg) (a : VReg) (b : VReg) (m : VMReg)
  /-- `VCMP_LT` (R409). Compares elements less-than into a mask register. -/
  | vcmpLt (d : VMReg) (a : VReg) (b : VReg) (m : VMReg)
  /-- `VCMP_LE` (R409). Compares elements less-or-equal into a mask register. -/
  | vcmpLe (d : VMReg) (a : VReg) (b : VReg) (m : VMReg)
  /-- `VSFN` (R423). Applies a correctly rounded special function to FP32 elements. -/
  | vsfn (d : VReg) (a : VReg) (f : BitVec 5) (m : VMReg)
  /-- `VRED_ADD` (R419). Pairwise sum of the elements of va. -/
  | vredAdd (d : VReg) (a : VReg) (m : VMReg)
  /-- `VRED_MAX` (R419). Pairwise maximum of the elements of va. -/
  | vredMax (d : VReg) (a : VReg) (m : VMReg)
  /-- `VRED_MIN` (R419). Pairwise minimum of the elements of va. -/
  | vredMin (d : VReg) (a : VReg) (m : VMReg)
  /-- `VRED_ARGMAX` (R419). Maximum of va with the lowest index among equals. -/
  | vredArgmax (d : VReg) (a : VReg) (m : VMReg)
  /-- `VPERM` (R417). Permutes lanes of va by indices in vb. -/
  | vperm (d : VReg) (a : VReg) (b : VReg) (m : VMReg)
  /-- `VBCAST` (R408). Broadcasts one lane of va to every unmasked lane. -/
  | vbcast (d : VReg) (a : VReg) (b : VReg) (m : VMReg)
  /-- `VCVT_RNE` (R410). Converts elements to a target tag rounding to nearest even. -/
  | vcvtRne (d : VReg) (a : VReg) (t : BitVec 4) (m : VMReg)
  /-- `VCVT_SR` (R114). Converts elements with stochastic rounding from the RBQ. -/
  | vcvtSr (d : VReg) (a : VReg) (t : BitVec 4) (m : VMReg)
  /-- `VCVT_RTZ` (R410). Converts elements rounding toward zero. -/
  | vcvtRtz (d : VReg) (a : VReg) (t : BitVec 4) (m : VMReg)
  /-- `VCVT_MODE` (R410). Converts elements rounding by FMODE.RM. -/
  | vcvtMode (d : VReg) (a : VReg) (t : BitVec 4) (m : VMReg)
  /-- `VPOP` (R418). Pops the oldest LDQ entry into vd, freezing until it arrives. -/
  | vpop (d : VReg) (m : VMReg)
  /-- `VLOG_AND` (R413). Bitwise AND of vector lanes. -/
  | vlogAnd (d : VReg) (a : VReg) (b : VReg) (m : VMReg)
  /-- `VLOG_OR` (R413). Bitwise OR of vector lanes. -/
  | vlogOr (d : VReg) (a : VReg) (b : VReg) (m : VMReg)
  /-- `VLOG_XOR` (R413). Bitwise XOR of vector lanes. -/
  | vlogXor (d : VReg) (a : VReg) (b : VReg) (m : VMReg)
  /-- `VLOG_ANDN` (R413). Bitwise AND-NOT of vector lanes. -/
  | vlogAndn (d : VReg) (a : VReg) (b : VReg) (m : VMReg)
  /-- `VSHF_L` (R424). Shifts each lane left by counts in vb. -/
  | vshfL (d : VReg) (a : VReg) (b : VReg) (m : VMReg)
  /-- `VSHF_R` (R424). Shifts each lane right with zero fill. -/
  | vshfR (d : VReg) (a : VReg) (b : VReg) (m : VMReg)
  /-- `VSHF_A` (R424). Shifts each lane right with sign fill. -/
  | vshfA (d : VReg) (a : VReg) (b : VReg) (m : VMReg)
  /-- `VSHF_ROL` (R424). Rotates each lane left. -/
  | vshfRol (d : VReg) (a : VReg) (b : VReg) (m : VMReg)
  /-- `VSPLIT` (R425). Slices a 64-long FP64 block into integer slices and a descriptor. -/
  | vsplit (d : VReg) (a : VReg) (b : VReg) (m : VMReg)
  /-- `VJOIN` (R412). Combines FP64 slice-product sums into FP64 results. -/
  | vjoin (d : VReg) (a : VReg) (b : VReg) (m : VMReg)
  /-- `VMLOG_AND` (R415). ANDs two mask registers. -/
  | vmlogAnd (d : VMReg) (a : VMReg) (b : VMReg)
  /-- `VMLOG_OR` (R415). ORs two mask registers. -/
  | vmlogOr (d : VMReg) (a : VMReg) (b : VMReg)
  /-- `VMLOG_XOR` (R415). XORs two mask registers. -/
  | vmlogXor (d : VMReg) (a : VMReg) (b : VMReg)
  /-- `VMLOG_NOT` (R415). Inverts a mask register. -/
  | vmlogNot (d : VMReg) (a : VMReg)
  /-- `VRETAG_SET` (R420). Copies lanes and sets vd's tag. -/
  | vretagSet (d : VReg) (a : VReg) (t : BitVec 4) (m : VMReg)
  /-- `VRETAG_READ` (R420). Writes va's tag into lane 0 of vd. -/
  | vretagRead (d : VReg) (a : VReg) (m : VMReg)
  /-- `VRETAG_CLR` (R420). Copies lanes and clears vd's tag to 0. -/
  | vretagClr (d : VReg) (a : VReg) (m : VMReg)
  /-- `VSCL` (R421). Scales FP32 elements by powers of two. -/
  | vscl (d : VReg) (a : VReg) (b : VReg) (m : VMReg)
  /-- `MCALL` (R355). Runs a microprogram routine on the matrix array. -/
  | mcall (r : BitVec 12) (b : BitVec 6)
  /-- `MSETP` (R360). Writes a matrix parameter register from ga. -/
  | msetp (k : MReg) (a : GReg)
  /-- `MSETH` (R359). Packs an address register into an operand handle. -/
  | mseth (k : MReg) (a : AReg)
  /-- `MUWR` (R363). Writes a microword or builds or invalidates a routine-table entry. -/
  | muwr (a : GReg) (b : GReg)
  /-- `MPREF` (R358). Begins the fetcher copy of a handle's origin tile. -/
  | mpref (k : MReg)
  /-- `RELAX` (R370). Iterates the equilibrium update until every live row settles or the limit stops it. -/
  | relax (z : TReg) (u : TReg) (w : MReg) (v : BitVec 1) (f : BitVec 3)
  /-- `RELAXB` (R373). Solves the adjoint system of a relaxed layer. -/
  | relaxb (z : TReg) (t : TReg) (w : MReg)
  /-- `MMA` (R357). Multiplies a tile by a handle operand, accumulating into td. -/
  | mma (d : TReg) (a : TReg) (b : MReg) (e : BitVec 5)
  /-- `MMA_Z` (R357). Multiplies a tile by a handle operand into td from zero. -/
  | mmaZ (d : TReg) (a : TReg) (b : MReg) (e : BitVec 5)
  /-- `MMA_T` (R357). Multiplies a transposed tile, accumulating into td. -/
  | mmaT (d : TReg) (a : TReg) (b : MReg) (e : BitVec 5)
  /-- `MMA_ZT` (R357). Multiplies a transposed tile into td from zero. -/
  | mmaZt (d : TReg) (a : TReg) (b : MReg) (e : BitVec 5)
  /-- `COPY` (R347). Queues a byte transfer between tensors on a copy channel. -/
  | copy (d : AReg) (a : AReg) (l : GReg) (e : BitVec 4) (c : BitVec 2)
  /-- `COPYADD` (R348). Adds 64 FP32 rows from storage into a tile at scheduled cycles. -/
  | copyadd (d : TReg) (a : AReg) (c : BitVec 6) (h : BitVec 2)
  /-- `BCAST` (R337). Drives 256 scratchpad bytes onto the cluster broadcast bus. -/
  | bcast (a : AReg)
  /-- `BLATCH` (R337). Latches bytes broadcast four bus cycles earlier into the scratchpad. -/
  | blatch (a : AReg)
  /-- `XTEST` (R427). Tests whether a copy transfer has completed, acquiring it if so. -/
  | xtest (p : PReg) (a : GReg) (c : BitVec 2)
  /-- `SEND` (R383). Sends n lines to a peer J77. -/
  | send (a : GReg) (b : GReg)
  /-- `RECV` (R369). Waits for n lines from a peer and writes them to the destination. -/
  | recv (a : GReg) (b : GReg)
  /-- `QPUSH` (R367). Appends vb to a queue with release. -/
  | qpush (a : GReg) (b : BitVec 6)
  /-- `QPOP` (R366). Requests one entry from a queue into the LDQ. -/
  | qpop (a : GReg)
  /-- `BDRED` (R247). Sends a pairwise buffer reduction command to a stack engine. -/
  | bdred (a : GReg) (b : GReg)
  /-- `BDIDX` (R248). Sends an indexed reduction command to a stack engine. -/
  | bdidx (a : GReg) (b : GReg)
  /-- `BDTOPK` (R249). Sends a top-k gate selection command to a stack engine. -/
  | bdtopk (a : GReg) (b : GReg)
  /-- `SMERGE` (R388). Offers 64 logits to a candidate register file row. -/
  | smerge (k : BitVec 4) (a : GReg) (v : VReg)
  /-- `SRESET` (R393). Empties a CRF row and binds or unbinds it. -/
  | sreset (k : BitVec 4) (a : GReg)
  /-- `SSOFT` (R394). Folds 64 logits into a row's online softmax pair. -/
  | ssoft (k : BitVec 4) (v : VReg)
  /-- `SDRAW` (R382). Draws one token from a CRF row for its bound request. -/
  | sdraw (d : GReg) (a : GReg) (k : BitVec 4)
  /-- `SACCEPT` (R380). Commits the target's samples along the draft tree to the record. -/
  | saccept (d : GReg) (a : GReg) (v : VReg)
  /-- `SMATCH` (R387). Advances the stop-string automata over up to seven bytes. -/
  | smatch (d : GReg) (a : GReg) (b : GReg)
  /-- `SPEN` (R392). Applies the record's penalties to 64 logits in place. -/
  | spen (d : VReg) (a : GReg) (b : GReg)
  /-- `NOP` (R364). Fills a slot and does nothing. -/
  | nop
  /-- `UEND` (R196). Ends a microprogram routine; the array idles out the occupancy. -/
  | uend
  /-- `UMMA` (R195). Microprogram MMA micro-op on relative tiles. -/
  | umma (d a b : TReg) (h m : BitVec 2) (f : BitVec 4) (k : BitVec 5)
  /-- `UEW` (R195). Microprogram elementwise micro-op on relative tiles. -/
  | uew (d a b : TReg) (h m : BitVec 2) (f : BitVec 4) (k : BitVec 5)
  /-- `FMODE_WRITE` (R111). An MTS to FMODE changes arithmetic modes for later bundles and starts recomputing SIG. -/
  | fmodeWrite (core : BitVec 8) (x : BitVec 64)
  /-- `SIG_READY` (R111). The SIG digest becomes ready, releasing any MFS of SIG frozen on it. -/
  | sigReady (core : BitVec 8) (bank : BitVec 1)
  /-- `WSCTL_WRITE` (R89). An MTS to WSCTL requests a change of weight-store access mode and holds the next bundle. -/
  | wsctlWrite (core : BitVec 8) (x : BitVec 64)
  /-- `WEN_CHANGE` (R89). The WEN change takes effect once earlier weight-store copies and fetches complete; waiting accesses are checked anew. -/
  | wenChange (die : BitVec 2)
  /-- `RQBASE_WRITE` (R51). An MTS to RQBASE sets the request region and enables the batch former package-wide. -/
  | rqbaseWrite (x : BitVec 64)
  /-- `PTBASE_WRITE` (R322). An MTS to PTBASE sets the port table and clears the cached entries. -/
  | ptbaseWrite (x : BitVec 64)
  /-- `SCINV_ALL` (R82). An MTS to SCINV with ALL set invalidates every cached descriptor and span entry. -/
  | scinvAll (core : BitVec 8)
  /-- `SCINV_TID` (R82). An MTS to SCINV invalidates the cached descriptor and entries of one tensor id. -/
  | scinvTid (core : BitVec 8) (tid : BitVec 32)
  /-- `SCINV_COMPLETE` (R82). The invalidation completes and the bundle after the MTS issues. -/
  | scinvComplete (core : BitVec 8)
  /-- `TIDEMARK_READ` (R211). Reading TIDEMARKn acquires the bytes of every completed transfer below MARK. -/
  | tidemarkRead (core : BitVec 8) (chan : BitVec 2)
  /-- `WPTR_READ` (R211). Reading WPTRn acquires the reported bytes of the transfer in progress. -/
  | wptrRead (core : BitVec 8) (chan : BitVec 2)
  /-- `SLCTL_READ` (R240). Reading SLCTL with BUSY 0 acquires the entries of the core's last walk. -/
  | slctlRead (core : BitVec 8)
  /-- `SSTAT_READ` (R284). Reading SSTAT returns and clears its read-to-clear flags. -/
  | sstatRead (core : BitVec 8)
  /-- `CLKD_READ` (R308). Reading CLKD returns the divisors and clears FL. -/
  | clkdRead (core : BitVec 8)
  /-- `FUNCTION_LEVEL_RESET` (R318). Terminates a function's groups, ends its waiting launches with RESET, and clears its queues' EN. -/
  | functionLevelReset (fn : BitVec 5)
  /-- `PAGE_REQUEST_RESPONSE` (R314). The host's answer to a page request lets the handler retranslate or makes the retranslation fail. -/
  | pageRequestResponse (fn : BitVec 5) (pasid : BitVec 21) (iova : BitVec 52) (code : BitVec 2) (page : BitVec 52)
  /-- `DOORBELL_TAIL` (R317). A write of TAIL to a doorbell makes new launch records available to the dispatcher. -/
  | doorbellTail (fn : BitVec 5) (q : BitVec 12) (x : BitVec 32)
  /-- `DOORBELL_CHEAD` (R317). A write of CHEAD records completion entries consumed by the host. -/
  | doorbellChead (fn : BitVec 5) (q : BitVec 12) (x : BitVec 32)
  /-- `QUEUE_CONFIG_WRITE` (R316). A physical-function write to a queue configuration field while EN is 0. -/
  | queueConfigWrite (q : BitVec 12) (off : BitVec 6) (x : BitVec 64)
  /-- `QUEUE_ENABLE` (R316). Setting EN starts the reading of a queue's records if its fields are valid. -/
  | queueEnable (q : BitVec 12) (x : BitVec 8)
  /-- `QUEUE_DISABLE` (R316). Clearing EN stops the reading of a queue's records. -/
  | queueDisable (q : BitVec 12)
  /-- `QUEUE_ERROR_CLEAR` (R316). A write of ones to ERR clears the queue's error bits. -/
  | queueErrorClear (q : BitVec 12) (x : BitVec 32)
  /-- `LAUNCH_ACCEPT` (R24). The dispatcher reads a launch record and its template and checks it before accepting it. -/
  | launchAccept (q : BitVec 12)
  /-- `SPAWN_RELEASE` (R391). A spawned record becomes ready once the spawner's earlier stores have performed, and is checked. -/
  | spawnRelease (die : BitVec 2)
  /-- `STARVATION_BOUND` (R33). A launch ready but unplaced for SBOUND rises one priority level. -/
  | starvationBound (launch : BitVec 64)
  /-- `CHECKPOINT_SAVE_COMPLETE` (R274). The save slot is written and PREEMPT is raised in the supervisor bank. -/
  | checkpointSaveComplete (core : BitVec 8)
  /-- `GROUP_RESUME` (R278). A checkpointed group is placed again, eagerly restored, and resumes at its resume bundle. -/
  | groupResume (core : BitVec 8)
  /-- `REGISTER_MISS` (R278). An absent part of a restored context is fetched after a register-miss micro-trap. -/
  | registerMiss (core : BitVec 8) (part : BitVec 16)
  /-- `BACKGROUND_FILL` (R278). Hardware fetches absent context parts in ascending order at patrol priority. -/
  | backgroundFill (core : BitVec 8)
  /-- `TASK_END` (R396). After TEND's hold, the task counts as ended and discards in-flight results. -/
  | taskEnd (core : BitVec 8) (dead : Bool)
  /-- `WATCHDOG_EXPIRY` (R43). A freeze reaching 2^20 reference cycles raises WATCHDOG at the held bundle. -/
  | watchdogExpiry (core : BitVec 8)
  /-- `RECV_TIMEOUT` (R326). A RECV waiting 2^20 cycles raises QUEUE_TIMEOUT or completes with routed rows contained. -/
  | recvTimeout (core : BitVec 8)
  /-- `QPOP_REPLY_TIMEOUT` (R226). A pop reply waiting 2^20 cycles raises WATCHDOG at its VPOP. -/
  | qpopReplyTimeout (core : BitVec 8) (bank : BitVec 1) (seq : BitVec 48)
  /-- `RELAX_ABSENT_CORE` (R178). A spanning group core without a matching RELAX within 2^20 cycles abandons the RELAX with WATCHDOG. -/
  | relaxAbsentCore (core : BitVec 8)
  /-- `TOUCH_WINDOW_EXPIRY` (R264). A TOUCH window ends after 4,096 issue cycles and its pinned entries are dropped. -/
  | touchWindowExpiry (core : BitVec 8)
  /-- `DESCRIPTOR_READ` (R77). A tensor descriptor read returns, is checked and cached, and the freeze ends. -/
  | descriptorRead (core : BitVec 8) (tid : BitVec 32)
  /-- `SPAN_ENTRY_FETCH` (R269). A span entry fetched behind an untranslated push returns; a non-resident one sends the access to the retry ring. -/
  | spanEntryFetch (core : BitVec 8) (bank : BitVec 1) (seq : BitVec 48)
  /-- `LOAD_REPLY` (R141). A load or pop reply enters the LDQ in push order. -/
  | loadReply (core : BitVec 8) (bank : BitVec 1) (seq : BitVec 48) (err : Bool)
  /-- `STORE_PERFORM` (R202). A remote store performs at its destination and becomes visible to all. -/
  | storePerform (core : BitVec 8) (bank : BitVec 1) (seq : BitVec 48)
  /-- `COPY_SECTOR_WRITE` (R93). A copy channel writes one 256-byte sector; the last completes the transfer. -/
  | copySectorWrite (core : BitVec 8) (chan : BitVec 2) (err : Bool)
  /-- `OPERAND_FETCH` (R186). Operand rows arrive from the fetcher or decompressor, ending a fetch-lag freeze. -/
  | operandFetch (core : BitVec 8) (id : BitVec 64) (err : Bool)
  /-- `MMA_COMPLETE` (R186). The MMA's destination tile is written at issue plus beats plus 6. -/
  | mmaComplete (core : BitVec 8) (seq : BitVec 48)
  /-- `RELAX_ITERATION` (R159). One relaxation iteration ends, updating rows, registers and slack status. -/
  | relaxIteration (core : BitVec 8)
  /-- `RELAX_COMPLETE` (R166). The relaxation commits state, derivatives and row table and frees the array. -/
  | relaxComplete (core : BitVec 8)
  /-- `COPYADD_ROW` (R87). A COPYADD row is added into its tile at its scheduled cycle: the operation's number, and
  whether an uncorrectable error met the row's data (04 R100). -/
  | copyaddRow (core : BitVec 8) (read : BitVec 48 × Bool)
  /-- `TLDT_ROW` (R400). A TLDT row is written into its tile at its scheduled cycle; `read` as for COPYADD_ROW. -/
  | tldtRow (core : BitVec 8) (read : BitVec 48 × Bool)
  /-- `TSTT_ROW` (R405). A TSTT row is read and pushed as stores at its scheduled cycle. -/
  | tsttRow (core : BitVec 8) (seq : BitVec 48)
  /-- `RECV_COMPLETE` (R325). A RECV finishes writing its lines and the copies counter falls. -/
  | recvComplete (core : BitVec 8) (id : BitVec 64)
  /-- `QUEUE_PUSH_PERFORM` (R226). A released push is written at the queue port and PUSHED increments. -/
  | queuePushPerform (core : BitVec 8) (bank : BitVec 1) (seq : BitVec 48)
  /-- `QUEUE_POP_SERVE` (R366). The queue port returns an entry to a waiting pop and POPPED increments. -/
  | queuePopServe (core : BitVec 8) (bank : BitVec 1) (seq : BitVec 48)
  /-- `BARRIER_RELEASE` (R222). A barrier release reaches a waiting core and its freeze ends. -/
  | barrierRelease (core : BitVec 8) (launch : BitVec 64) (bar : BitVec 4) (gen : BitVec 64)
  /-- `WAIT_RELEASE` (R142). The counters reach a WAIT's bounds and issue resumes. -/
  | waitRelease (core : BitVec 8)
  /-- `DRAIN_RELEASE` (R208). A DRAIN's condition holds and the next bundle issues. -/
  | drainRelease (core : BitVec 8)
  /-- `CLKDIV_APPLY` (R307). After its hold, CLKDIV sets the requested divisors and recomputes the stretch. -/
  | clkdivApply (core : BitVec 8) (x : BitVec 16)
  /-- `ENGINE_COMMAND_START` (R245). A stack engine takes the next command from its queue. -/
  | engineCommandStart (stack : BitVec 4)
  /-- `ENGINE_COMMAND_COMPLETE` (R246). A stack engine finishes a command and writes its completion line with release;
  with `err`, `bad` lists the HBM addresses of bytes it found uncorrectable (R246). -/
  | engineCommandComplete (stack : BitVec 4) (err : Bool) (bad : List (BitVec 40))
  /-- `BOUNDARY_PUBLISH` (R60). The boundary applies retirements, growth and admission and publishes STEP + 1. -/
  | boundaryPublish (grp : BitVec 4)
  /-- `STRANDLINE_WALK_COMPLETE` (R240). The walk's ring writes are done and SLCTL.BUSY clears. -/
  | strandlineWalkComplete (core : BitVec 8) (bank : BitVec 1)
  /-- `GOVERNOR_CYCLE` (R45). A core's window sum exceeds its limit and the cycle becomes a governor cycle. -/
  | governorCycle (core : BitVec 8)
  /-- `REFRESH_WINDOW_START` (R90). A weight-store refresh window starts; reads issued inside wait. -/
  | refreshWindowStart (die : BitVec 2)
  /-- `REFRESH_WINDOW_END` (R90). A refresh window ends after 2,500 cycles and waiting reads proceed. -/
  | refreshWindowEnd (die : BitVec 2)
  /-- `PATROL_SCRUB` (R302). Patrol scrub reads and corrects HBM4 rows and eDRAM words. -/
  | patrolScrub (res : BitVec 3) (unit : BitVec 8) (addr : BitVec 64) (err : BitVec 2)
  /-- `BAND_RISE` (R303). The warmest sensor exceeds the band's bound; TBAND, TFLOOR, stretch and refresh follow. -/
  | bandRise (z0 z1 z2 z3 : BitVec 16)
  /-- `BAND_FALL` (R301). After 10 s below the lower bound less 2 K, the band falls one level. -/
  | bandFall (z0 z1 z2 z3 : BitVec 16)
  /-- `STACK_TIMING_SWITCH` (R304). A closed stack's queued accesses have performed; it loads the new timing set and reopens. -/
  | stackTimingSwitch (unit : BitVec 4)
  /-- `VALVE_CONTROL_PERIOD` (R309). Every 100 ms the controller sets zone valves and writes CLIM.ELIM as needed. -/
  | valveControlPeriod (z0 z1 z2 z3 : BitVec 16) (v0 v1 v2 v3 : BitVec 8) (l0 l1 l2 l3 : BitVec 12)
  /-- `ELIM_RESTORE` (R309). After 1 s at or below 80 K, ELIM returns to 0xFFF. -/
  | elimRestore (die : BitVec 2)
  /-- `SELF_TEST_COMPLETE` (R310). The self-test's patterns finish; the resource returns or is retired. -/
  | selfTestComplete (res : BitVec 3) (unit : BitVec 8) (addr : BitVec 64) (owner : BitVec 9) (ok spare : Bool)
  /-- `TRAINING_COMPLETE` (R298). Training passes to OPERATE and releases the dies, or fails to HOLD. -/
  | trainingComplete (ok : Bool)
  /-- `WARMRUN_TRAINING_COMPLETE` (R300). Warm-mode training at neap timings ends; the dies are released in band B4 or WARMRUN fails. -/
  | warmrunTrainingComplete (ok : Bool)
  /-- `PEER_DATA_FRAME` (R323). A received data frame is placed in the receive queue if in sequence, else negatively acknowledged. -/
  | peerDataFrame (peer : BitVec 5) (port : BitVec 3) (ok : Bool) (seq : BitVec 32) (stime path : BitVec 64) (n : BitVec 6) (data : BitVec 65536)
  /-- `PEER_ACKNOWLEDGE` (R323). A received acknowledge frees acknowledged lines and updates credit. -/
  | peerAcknowledge (peer : BitVec 5) (seq credit : BitVec 32)
  /-- `PEER_NEGATIVE_ACKNOWLEDGE` (R323). A received negative acknowledge resends from the oldest unacknowledged line. -/
  | peerNegativeAcknowledge (peer : BitVec 5) (seq : BitVec 32)
  /-- `RESEND_TIMEOUT` (R323). RTO passes without progress and the sender resends. -/
  | resendTimeout (peer : BitVec 5)
  /-- `ACKNOWLEDGE_TIMER` (R323). After 8 data frames or 2 µs the receiver sends a cumulative acknowledge with credit. -/
  | acknowledgeTimer (peer : BitVec 5)
  /-- `SKOMON_FLIT_RECEIVE` (R98). A Skomon flit is received; one with a link ECC error is requested again. -/
  | skomonFlitReceive (src dst : BitVec 2) (bad : Bool)
  /-- `RESULT_LANDING` (R139). An exposed-latency result lands in its register and commits, merging its flags or raising an enabled exception or breakwater containment. -/
  | resultLanding (core : BitVec 8)
  /-- `MCALL_COMPLETE` (R193). An MCALL's destination tiles complete at issue + beats + 6, the scoreboard releases and the tile-operation counter falls. -/
  | mcallComplete (core : BitVec 8) (seq : BitVec 48)
  /-- `RACE_CHECK_ANSWER` (R232). The home die's stamp store answers a deterministic-mode race check, ending the freeze with RACE or letting the access proceed. -/
  | raceCheckAnswer (core : BitVec 8) (mode : BitVec 2) (die : BitVec 2) (block : BitVec 32)
  /-- `PARAMETER_BLOCK_READ` (R244). The remote read of a stack-engine parameter block returns and the core checks and sends the command. -/
  | parameterBlockRead (core : BitVec 8) (tid : BitVec 32) (c : BitVec 24)
  /-- `DRAFT_TREE_READ` (R290). The remote read of a draft tree for SPEN or SACCEPT returns and the freeze ends. -/
  | draftTreeRead (core : BitVec 8) (addr : BitVec 64)
  /-- `RBQ_WORD_ADDED` (R115). The RBQ generator adds one random word per control-domain cycle until the queue is full again. -/
  | rbqWordAdded (core : BitVec 8)
  /-- `HBM4_REFRESH` (R302). In bands B1 to B4 an HBM4 refresh command occupies a pseudo-channel at the band's interval. -/
  | hbm4Refresh (stack : BitVec 4) (chan : BitVec 6)
  /-- `PTP_MESSAGE` (R321). A PTP message from the time transmitter on the time-setting port updates the 1588 servo and its map to die 0's reference count. -/
  | ptpMessage (port : BitVec 3) (ns : BitVec 64) (num den : BitVec 32)
  /-- `ATS_INVALIDATION` (R313). The host sends an ATS invalidation request, taken into the 64-entry invalidation queue. -/
  | atsInvalidation (fn : BitVec 5) (pasid : BitVec 21) (iova : BitVec 52)
  /-- `MODULE_RESET` (R17). Module reset brings up the warm card, trains PCI Express and holds the dies in reset. -/
  | moduleReset
  /-- `GROUP_PLACEMENT` (R28). The dispatcher places a ready group at a free or designated position and loads its bank. -/
  | groupPlacement
  /-- `TIMING_SWITCH_COMPLETE` (R303). The package timing switch completes and TFLOOR may fall. -/
  | timingSwitchComplete
  /-- `PURGE_COMPLETE` (R298). Dew point below 200 K after 10 min moves PURGE to DESCENT. -/
  | purgeComplete
  /-- `DESCENT_COMPLETE` (R298). Every zone at or below 80 K moves DESCENT to SOAK. -/
  | descentComplete
  /-- `SOAK_COMPLETE` (R298). 10 min in SOAK moves to TRAIN. -/
  | soakComplete
  /-- `ASCENT_COMPLETE` (R298). Every zone at or above 285 K moves ASCENT to WARM. -/
  | ascentComplete
  /-- `SENSORS_DISAGREE` (R298). Two sensors of one zone differing by over 3 K enter HOLD. -/
  | sensorsDisagree
  /-- `VALVE_NOT_FOLLOWING` (R298). A valve not following its command within 5 s enters HOLD. -/
  | valveNotFollowing
  /-- `LOSS_OF_VACUUM` (R298). Loss of vacuum enters HOLD. -/
  | lossOfVacuum
  /-- `RATE_OF_CHANGE` (R298). A temperature rate beyond 5 K/min held for 60 s enters HOLD. -/
  | rateOfChange
  /-- `WARMSTOP_TIMEOUT` (R300). 1 s after WARMSTOP, remaining groups are terminated and the dies return to reset. -/
  | warmstopTimeout
  /-- `COOL` (R298). MCTP command starting the cool-down from WARM into PURGE. -/
  | cool
  /-- `WARMUP` (R298). MCTP command entering ASCENT. -/
  | warmup
  /-- `RESUME` (R298). MCTP command leaving HOLD for OPERATE or RETREAT. -/
  | resume
  /-- `FREEZE` (R312). MCTP or IEEE 1149.1 command stopping every package clock at one edge. -/
  | freeze
  /-- `THAW` (R312). Command restarting every package clock at one edge. -/
  | thaw
  /-- `WARMRUN` (R300). MCTP command starting warm mode training and release. -/
  | warmrun
  /-- `WARMSTOP` (R300). MCTP command ending warm mode. -/
  | warmstop
  /-- `STATUS` (R320). MCTP command returning CRYOST, TBAND, TFLOOR, MACs and identity. -/
  | status
  /-- `LOG` (R320). MCTP command returning error log entries. -/
  | log
  /-- `ATTEST` (R319). MCTP command returning a signature over nonce, firmware digests, identity and CRYOST. -/
  | attest
  /-- `PUBKEY` (R320). MCTP command returning the attestation public key and certificate. -/
  | pubkey
  /-- `CHAIN_READ_OUT` (R312). While frozen, die state is read through the IEEE 1149.1 chain. -/
  | chainReadOut
  /-- `PTP_HOLDOVER` (R321). With no time transmitter heard for 10 s, the servo holds its last rate. -/
  | ptpHoldover
  /-- `UNKNOWN_COMMAND` (R320). An MCTP request with an unknown COMMAND is answered with completion code 2 and changes nothing. -/
  | unknownCommand
  deriving DecidableEq, Repr

/-- One decoded slot of a bundle (R127): S, the guard predicate G, its inversion N, the instruction. -/
structure Slot where
  last : Bool
  guard : PReg
  neg : Bool
  instr : Instr
  deriving DecidableEq, Repr

end Sys2Proof
end

