-- ==== Sys2Proof/WellFormed.lean ====
section
/-!
DEFINITION. The operand limits a slot instruction must meet beyond its encoding's reserved bits.  A slot
whose instruction breaks one raises ILLEGAL_INSN at decode (06 R131), as a reserved field does.
-/
namespace Sys2Proof

/-- A format tag a conversion or a retag may name as its target (05 R101, 25 R410, R420). -/
def targetTag (t : BitVec 4) : Bool := 1 ≤ t.toNat && t.toNat ≤ 11

/-- The operand limits of R333, R334 (k of 5 to 7), R335 (CAS wants an even vs), R377 (k of 3 to 63),
R410 and R114 (conversion targets), R412 (vb above 26), R420, R423 (codes 8 to 31), R425 (vd above 29),
R152 and R180 (even mw, f of 7), R184 (even mb), R358 (even mk) and R226 (vb above 31). -/
def Instr.wellFormed : Instr → Bool
  | .aset _ _ k => k.toNat ≤ 4
  | .amovFrom _ _ k => k.toNat ≤ 4
  | .atomCas _ _ v => v.val % 2 == 0
  | .rqret _ _ k => k.toNat ≤ 2
  | .vcvtRne _ _ t _ => targetTag t
  | .vcvtRtz _ _ t _ => targetTag t
  | .vcvtMode _ _ t _ => targetTag t
  | .vcvtSr _ _ t _ => 2 ≤ t.toNat && t.toNat ≤ 5
  | .vjoin _ _ b _ => b.val ≤ 26
  | .vretagSet _ _ t _ => targetTag t
  | .vsfn _ _ f _ => f.toNat ≤ 7
  | .vsplit d _ _ _ => d.val ≤ 29
  | .relax _ _ w _ f => w.val % 2 == 0 && f.toNat != 7
  | .relaxb _ _ w => w.val % 2 == 0
  | .mma _ _ b _ => b.val % 2 == 0
  | .mmaZ _ _ b _ => b.val % 2 == 0
  | .mmaT _ _ b _ => b.val % 2 == 0
  | .mmaZt _ _ b _ => b.val % 2 == 0
  | .mpref k => k.val % 2 == 0
  | .qpush _ b => b.toNat ≤ 31
  | _ => true

/-- An instruction that meets its operand limits. -/
abbrev Instr.WellFormed (i : Instr) : Prop := i.wellFormed = true

end Sys2Proof
end

