-- ==== Sys2Proof/Decode.lean ====
section
/-!
DEFINITION. The decoder of a slot (06 R127, R128, R133-R138), written from the field layouts, and after
it the encoder written from the same layouts.  A slot with a reserved opcode, function or bit decodes to
nothing (R7, R131); operand values that a form refuses are `Instr.WellFormed`'s.
-/
namespace Sys2Proof

/-- The `n`-bit field of the word `w` whose lowest bit is bit `lo`. -/
def fld (w lo n : Nat) : Nat := w / 2 ^ lo % 2 ^ n

/-- Major opcode 0x00. -/
def decodeOp00 (w : Nat) : Option Instr :=
  match fld w 0 2 with
  | 0 => some (.add (Fin.ofNat 64 (fld w 14 6)) (Fin.ofNat 64 (fld w 8 6)) (Fin.ofNat 64 (fld w 2 6)))
  | 1 => some (.sub (Fin.ofNat 64 (fld w 14 6)) (Fin.ofNat 64 (fld w 8 6)) (Fin.ofNat 64 (fld w 2 6)))
  | 2 => some (.and (Fin.ofNat 64 (fld w 14 6)) (Fin.ofNat 64 (fld w 8 6)) (Fin.ofNat 64 (fld w 2 6)))
  | _ => some (.or (Fin.ofNat 64 (fld w 14 6)) (Fin.ofNat 64 (fld w 8 6)) (Fin.ofNat 64 (fld w 2 6)))

/-- Major opcode 0x01. -/
def decodeOp01 (w : Nat) : Option Instr :=
  match fld w 0 2 with
  | 0 => some (.xor (Fin.ofNat 64 (fld w 14 6)) (Fin.ofNat 64 (fld w 8 6)) (Fin.ofNat 64 (fld w 2 6)))
  | 1 => some (.shl (Fin.ofNat 64 (fld w 14 6)) (Fin.ofNat 64 (fld w 8 6)) (Fin.ofNat 64 (fld w 2 6)))
  | 2 => some (.shr (Fin.ofNat 64 (fld w 14 6)) (Fin.ofNat 64 (fld w 8 6)) (Fin.ofNat 64 (fld w 2 6)))
  | _ => some (.sar (Fin.ofNat 64 (fld w 14 6)) (Fin.ofNat 64 (fld w 8 6)) (Fin.ofNat 64 (fld w 2 6)))

/-- Major opcode 0x02. -/
def decodeOp02 (w : Nat) : Option Instr :=
  match fld w 0 2 with
  | 0 => some (.mul (Fin.ofNat 64 (fld w 14 6)) (Fin.ofNat 64 (fld w 8 6)) (Fin.ofNat 64 (fld w 2 6)))
  | 1 => some (.mulhS (Fin.ofNat 64 (fld w 14 6)) (Fin.ofNat 64 (fld w 8 6)) (Fin.ofNat 64 (fld w 2 6)))
  | 2 => some (.mulhU (Fin.ofNat 64 (fld w 14 6)) (Fin.ofNat 64 (fld w 8 6)) (Fin.ofNat 64 (fld w 2 6)))
  | _ => some (.divu (Fin.ofNat 64 (fld w 14 6)) (Fin.ofNat 64 (fld w 8 6)) (Fin.ofNat 64 (fld w 2 6)))

/-- Major opcode 0x03. -/
def decodeOp03 (w : Nat) : Option Instr :=
  match fld w 0 2 with
  | 0 => some (.remu (Fin.ofNat 64 (fld w 14 6)) (Fin.ofNat 64 (fld w 8 6)) (Fin.ofNat 64 (fld w 2 6)))
  | 1 => if fld w 2 6 == 0 && fld w 14 6 == 0 then some (.clkdiv (Fin.ofNat 64 (fld w 8 6))) else none
  | 2 => if fld w 2 6 == 0 && fld w 14 6 == 0 then some (.slmark (Fin.ofNat 64 (fld w 8 6))) else none
  | _ => if fld w 14 6 == 0 then some (.fillq (Fin.ofNat 64 (fld w 8 6)) (Fin.ofNat 64 (fld w 2 6))) else none

/-- Major opcode 0x04. -/
def decodeOp04 (w : Nat) : Option Instr :=
  match fld w 0 2 with
  | 0 => if fld w 18 2 == 0 then some (.cmpEq (Fin.ofNat 16 (fld w 14 4)) (Fin.ofNat 64 (fld w 8 6)) (Fin.ofNat 64 (fld w 2 6))) else none
  | 1 => if fld w 18 2 == 0 then some (.cmpNe (Fin.ofNat 16 (fld w 14 4)) (Fin.ofNat 64 (fld w 8 6)) (Fin.ofNat 64 (fld w 2 6))) else none
  | 2 => if fld w 18 2 == 0 then some (.cmpLt (Fin.ofNat 16 (fld w 14 4)) (Fin.ofNat 64 (fld w 8 6)) (Fin.ofNat 64 (fld w 2 6))) else none
  | _ => if fld w 18 2 == 0 then some (.cmpLtu (Fin.ofNat 16 (fld w 14 4)) (Fin.ofNat 64 (fld w 8 6)) (Fin.ofNat 64 (fld w 2 6))) else none

/-- Major opcode 0x05. -/
def decodeOp05 (w : Nat) : Option Instr :=
  some (.addi (Fin.ofNat 64 (fld w 14 6)) (Fin.ofNat 64 (fld w 8 6)) (BitVec.ofNat 8 (fld w 0 8)))

/-- Major opcode 0x06. -/
def decodeOp06 (w : Nat) : Option Instr :=
  match fld w 0 2 with
  | 0 => some (.shiL (Fin.ofNat 64 (fld w 14 6)) (Fin.ofNat 64 (fld w 8 6)) (BitVec.ofNat 6 (fld w 2 6)))
  | 1 => some (.shiR (Fin.ofNat 64 (fld w 14 6)) (Fin.ofNat 64 (fld w 8 6)) (BitVec.ofNat 6 (fld w 2 6)))
  | 2 => some (.shiA (Fin.ofNat 64 (fld w 14 6)) (Fin.ofNat 64 (fld w 8 6)) (BitVec.ofNat 6 (fld w 2 6)))
  | _ => some (.shiRol (Fin.ofNat 64 (fld w 14 6)) (Fin.ofNat 64 (fld w 8 6)) (BitVec.ofNat 6 (fld w 2 6)))

/-- Major opcode 0x07. -/
def decodeOp07 (w : Nat) : Option Instr :=
  match fld w 0 2 with
  | 0 => if fld w 18 2 == 0 then some (.cmpiEq (Fin.ofNat 16 (fld w 14 4)) (Fin.ofNat 64 (fld w 8 6)) (BitVec.ofNat 6 (fld w 2 6))) else none
  | 1 => if fld w 18 2 == 0 then some (.cmpiNe (Fin.ofNat 16 (fld w 14 4)) (Fin.ofNat 64 (fld w 8 6)) (BitVec.ofNat 6 (fld w 2 6))) else none
  | 2 => if fld w 18 2 == 0 then some (.cmpiLt (Fin.ofNat 16 (fld w 14 4)) (Fin.ofNat 64 (fld w 8 6)) (BitVec.ofNat 6 (fld w 2 6))) else none
  | _ => if fld w 18 2 == 0 then some (.cmpiLtu (Fin.ofNat 16 (fld w 14 4)) (Fin.ofNat 64 (fld w 8 6)) (BitVec.ofNat 6 (fld w 2 6))) else none

/-- Major opcode 0x08. -/
def decodeOp08 (w : Nat) : Option Instr :=
  some (.lis (Fin.ofNat 64 (fld w 14 6)) (BitVec.ofNat 14 (fld w 0 14)))

/-- Major opcode 0x09. -/
def decodeOp09 (w : Nat) : Option Instr :=
  some (.shin (Fin.ofNat 64 (fld w 14 6)) (BitVec.ofNat 14 (fld w 0 14)))

/-- Major opcode 0x0A. -/
def decodeOp0A (w : Nat) : Option Instr :=
  some (.br (BitVec.ofNat 20 (fld w 0 20)))

/-- Major opcode 0x0B. -/
def decodeOp0B (w : Nat) : Option Instr :=
  match fld w 0 2 with
  | 0 => some (.call (Fin.ofNat 64 (fld w 14 6)) (BitVec.ofNat 12 (fld w 2 12)))
  | 1 => if fld w 2 6 == 0 && fld w 14 6 == 0 then some (.ret (Fin.ofNat 64 (fld w 8 6))) else none
  | 2 => if fld w 2 6 == 0 && fld w 14 6 == 0 then some (.jmpr (Fin.ofNat 64 (fld w 8 6))) else none
  | _ => none

/-- Major opcode 0x0C. -/
def decodeOp0C (w : Nat) : Option Instr :=
  if fld w 16 4 == 0 then some (.loops (Fin.ofNat 4 (fld w 14 2)) (Fin.ofNat 64 (fld w 8 6)) (BitVec.ofNat 8 (fld w 0 8))) else none

/-- Major opcode 0x0D. -/
def decodeOp0D (w : Nat) : Option Instr :=
  match fld w 0 2 with
  | 0 => some (.mfs (Fin.ofNat 64 (fld w 14 6)) (BitVec.ofNat 12 (fld w 2 12)))
  | 1 => some (.mts (Fin.ofNat 64 (fld w 14 6)) (BitVec.ofNat 12 (fld w 2 12)))
  | 2 => some (.swaps (Fin.ofNat 64 (fld w 14 6)) (BitVec.ofNat 12 (fld w 2 12)))
  | _ => none

/-- Major opcode 0x0E. -/
def decodeOp0E (w : Nat) : Option Instr :=
  match fld w 0 2 with
  | 0 => if fld w 6 2 == 0 && fld w 12 2 == 0 && fld w 18 2 == 0 then some (.plogAnd (Fin.ofNat 16 (fld w 14 4)) (Fin.ofNat 16 (fld w 8 4)) (Fin.ofNat 16 (fld w 2 4))) else none
  | 1 => if fld w 6 2 == 0 && fld w 12 2 == 0 && fld w 18 2 == 0 then some (.plogOr (Fin.ofNat 16 (fld w 14 4)) (Fin.ofNat 16 (fld w 8 4)) (Fin.ofNat 16 (fld w 2 4))) else none
  | 2 => if fld w 6 2 == 0 && fld w 12 2 == 0 && fld w 18 2 == 0 then some (.plogXor (Fin.ofNat 16 (fld w 14 4)) (Fin.ofNat 16 (fld w 8 4)) (Fin.ofNat 16 (fld w 2 4))) else none
  | _ => if fld w 6 2 == 0 && fld w 12 2 == 0 && fld w 18 2 == 0 then some (.plogAndn (Fin.ofNat 16 (fld w 14 4)) (Fin.ofNat 16 (fld w 8 4)) (Fin.ofNat 16 (fld w 2 4))) else none

/-- Major opcode 0x0F. -/
def decodeOp0F (w : Nat) : Option Instr :=
  match fld w 0 2 with
  | 0 => if fld w 2 2 == 0 then some (.wait (BitVec.ofNat 4 (fld w 16 4)) (BitVec.ofNat 4 (fld w 12 4)) (BitVec.ofNat 4 (fld w 8 4)) (BitVec.ofNat 4 (fld w 4 4))) else none
  | _ => none

/-- Major opcode 0x10. -/
def decodeOp10 (w : Nat) : Option Instr :=
  match fld w 0 2 with
  | 0 => if fld w 14 6 == 0 then some (.bar (Fin.ofNat 64 (fld w 8 6)) (Fin.ofNat 64 (fld w 2 6))) else none
  | 1 => some (.barArr (Fin.ofNat 64 (fld w 14 6)) (Fin.ofNat 64 (fld w 8 6)) (Fin.ofNat 64 (fld w 2 6)))
  | 2 => if fld w 2 6 == 0 && fld w 14 6 == 0 then some (.barWait (Fin.ofNat 64 (fld w 8 6))) else none
  | _ => if fld w 4 16 == 1 then some (.drainRel (BitVec.ofNat 2 (fld w 2 2))) else if fld w 4 16 == 2 then some (.drainAcq (BitVec.ofNat 2 (fld w 2 2))) else if fld w 4 16 == 3 then some (.drainFull (BitVec.ofNat 2 (fld w 2 2))) else none

/-- Major opcode 0x11. -/
def decodeOp11 (w : Nat) : Option Instr :=
  match fld w 0 2 with
  | 0 => if fld w 2 6 == 0 then some (.clz (Fin.ofNat 64 (fld w 14 6)) (Fin.ofNat 64 (fld w 8 6))) else none
  | 1 => if fld w 2 6 == 0 && fld w 14 6 == 0 then some (.trap (Fin.ofNat 64 (fld w 8 6))) else none
  | 2 => if fld w 2 18 == 0 then some (.tret) else none
  | _ => if fld w 2 18 == 0 then some (.brkp) else none

/-- Major opcode 0x12. -/
def decodeOp12 (w : Nat) : Option Instr :=
  match fld w 0 2 with
  | 0 => if fld w 2 18 == 0 then some (.tend) else none
  | 1 => if fld w 14 6 == 0 then some (.spawn (Fin.ofNat 64 (fld w 8 6)) (Fin.ofNat 64 (fld w 2 6))) else none
  | 2 => if fld w 2 18 == 0 then some (.trig) else none
  | _ => if fld w 2 12 == 0 then some (.rdcyc (Fin.ofNat 64 (fld w 14 6))) else none

/-- Major opcode 0x13. -/
def decodeOp13 (w : Nat) : Option Instr :=
  match fld w 0 2 with
  | 0 => if fld w 2 6 == 0 then some (.bstep (Fin.ofNat 64 (fld w 14 6)) (Fin.ofNat 64 (fld w 8 6))) else none
  | 1 => some (.rqrd (Fin.ofNat 64 (fld w 14 6)) (Fin.ofNat 64 (fld w 8 6)) (BitVec.ofNat 6 (fld w 2 6)))
  | 2 => some (.rqwr (Fin.ofNat 64 (fld w 14 6)) (Fin.ofNat 64 (fld w 8 6)) (BitVec.ofNat 6 (fld w 2 6)))
  | _ => some (.rqret (Fin.ofNat 64 (fld w 14 6)) (Fin.ofNat 64 (fld w 8 6)) (BitVec.ofNat 6 (fld w 2 6)))

/-- Major opcode 0x14. -/
def decodeOp14 (w : Nat) : Option Instr :=
  match fld w 0 2 with
  | 0 => if fld w 2 3 == 0 && fld w 14 2 == 0 then some (.tld4 (Fin.ofNat 16 (fld w 16 4)) (BitVec.ofNat 6 (fld w 8 6)) (Fin.ofNat 8 (fld w 5 3))) else none
  | 1 => if fld w 2 3 == 0 && fld w 14 2 == 0 then some (.tld64 (Fin.ofNat 16 (fld w 16 4)) (BitVec.ofNat 6 (fld w 8 6)) (Fin.ofNat 8 (fld w 5 3))) else none
  | 2 => if fld w 2 3 == 0 && fld w 14 2 == 0 then some (.tld256 (Fin.ofNat 16 (fld w 16 4)) (BitVec.ofNat 6 (fld w 8 6)) (Fin.ofNat 8 (fld w 5 3))) else none
  | _ => if fld w 2 3 == 0 && fld w 13 3 == 0 then some (.tldG (Fin.ofNat 16 (fld w 16 4)) (Fin.ofNat 32 (fld w 8 5)) (Fin.ofNat 8 (fld w 5 3))) else none

/-- Major opcode 0x15. -/
def decodeOp15 (w : Nat) : Option Instr :=
  match fld w 0 2 with
  | 0 => if fld w 2 1 == 0 && fld w 14 2 == 0 then some (.tst4 (Fin.ofNat 16 (fld w 16 4)) (BitVec.ofNat 6 (fld w 8 6)) (Fin.ofNat 32 (fld w 3 5))) else none
  | 1 => if fld w 2 1 == 0 && fld w 14 2 == 0 then some (.tst64 (Fin.ofNat 16 (fld w 16 4)) (BitVec.ofNat 6 (fld w 8 6)) (Fin.ofNat 32 (fld w 3 5))) else none
  | 2 => if fld w 2 1 == 0 && fld w 14 2 == 0 then some (.tst256 (Fin.ofNat 16 (fld w 16 4)) (BitVec.ofNat 6 (fld w 8 6)) (Fin.ofNat 32 (fld w 3 5))) else none
  | _ => if fld w 2 1 == 0 && fld w 13 3 == 0 then some (.tstS (Fin.ofNat 16 (fld w 16 4)) (BitVec.ofNat 5 (fld w 8 5)) (Fin.ofNat 32 (fld w 3 5))) else none

/-- Major opcode 0x16. -/
def decodeOp16 (w : Nat) : Option Instr :=
  match fld w 0 2 with
  | 0 => if fld w 14 2 == 0 then some (.touchR (Fin.ofNat 16 (fld w 16 4)) (BitVec.ofNat 6 (fld w 8 6)) (BitVec.ofNat 6 (fld w 2 6))) else none
  | 1 => if fld w 14 2 == 0 then some (.touchW (Fin.ofNat 16 (fld w 16 4)) (BitVec.ofNat 6 (fld w 8 6)) (BitVec.ofNat 6 (fld w 2 6))) else none
  | 2 => if fld w 14 2 == 0 then some (.touchRw (Fin.ofNat 16 (fld w 16 4)) (BitVec.ofNat 6 (fld w 8 6)) (BitVec.ofNat 6 (fld w 2 6))) else none
  | _ => if fld w 2 14 == 0 then some (.touchRel (Fin.ofNat 16 (fld w 16 4))) else none

/-- Major opcode 0x17. -/
def decodeOp17 (w : Nat) : Option Instr :=
  match fld w 0 2 with
  | 0 => if fld w 5 3 == 0 && fld w 14 2 == 0 then some (.aset (Fin.ofNat 16 (fld w 16 4)) (Fin.ofNat 64 (fld w 8 6)) (BitVec.ofNat 3 (fld w 2 3))) else none
  | 1 => if fld w 4 4 == 0 && fld w 14 2 == 0 then some (.ainc (Fin.ofNat 16 (fld w 16 4)) (Fin.ofNat 64 (fld w 8 6)) (BitVec.ofNat 2 (fld w 2 2))) else none
  | 2 => if fld w 2 6 == 0 && fld w 12 4 == 0 then some (.amovTo (Fin.ofNat 16 (fld w 16 4)) (Fin.ofNat 16 (fld w 8 4))) else none
  | _ => if fld w 5 3 == 0 && fld w 12 2 == 0 then some (.amovFrom (Fin.ofNat 64 (fld w 14 6)) (Fin.ofNat 16 (fld w 8 4)) (BitVec.ofNat 3 (fld w 2 3))) else none

/-- Major opcode 0x18. -/
def decodeOp18 (w : Nat) : Option Instr :=
  match fld w 0 2 with
  | 0 => if fld w 2 1 == 0 && fld w 14 2 == 0 then some (.atomAdd (Fin.ofNat 16 (fld w 16 4)) (BitVec.ofNat 6 (fld w 8 6)) (Fin.ofNat 32 (fld w 3 5))) else none
  | 1 => if fld w 2 1 == 0 && fld w 14 2 == 0 then some (.atomMin (Fin.ofNat 16 (fld w 16 4)) (BitVec.ofNat 6 (fld w 8 6)) (Fin.ofNat 32 (fld w 3 5))) else none
  | 2 => if fld w 2 1 == 0 && fld w 14 2 == 0 then some (.atomMax (Fin.ofNat 16 (fld w 16 4)) (BitVec.ofNat 6 (fld w 8 6)) (Fin.ofNat 32 (fld w 3 5))) else none
  | _ => if fld w 2 1 == 0 && fld w 14 2 == 0 then some (.atomCas (Fin.ofNat 16 (fld w 16 4)) (BitVec.ofNat 6 (fld w 8 6)) (Fin.ofNat 32 (fld w 3 5))) else none

/-- Major opcode 0x19. -/
def decodeOp19 (w : Nat) : Option Instr :=
  match fld w 0 2 with
  | 0 => if fld w 8 2 == 0 && fld w 15 1 == 0 then some (.tldt (Fin.ofNat 16 (fld w 16 4)) (Fin.ofNat 32 (fld w 10 5)) (BitVec.ofNat 6 (fld w 2 6))) else none
  | _ => none

/-- Major opcode 0x1A. -/
def decodeOp1A (w : Nat) : Option Instr :=
  match fld w 0 2 with
  | 0 => if fld w 8 2 == 0 && fld w 15 1 == 0 then some (.tstt (Fin.ofNat 16 (fld w 16 4)) (Fin.ofNat 32 (fld w 10 5)) (BitVec.ofNat 6 (fld w 2 6))) else none
  | _ => none

/-- Major opcode 0x1C. -/
def decodeOp1C (w : Nat) : Option Instr :=
  match fld w 0 2 with
  | 0 => some (.vadd (Fin.ofNat 32 (fld w 15 5)) (Fin.ofNat 32 (fld w 10 5)) (Fin.ofNat 32 (fld w 5 5)) (Fin.ofNat 8 (fld w 2 3)))
  | 1 => some (.vsub (Fin.ofNat 32 (fld w 15 5)) (Fin.ofNat 32 (fld w 10 5)) (Fin.ofNat 32 (fld w 5 5)) (Fin.ofNat 8 (fld w 2 3)))
  | 2 => some (.vmul (Fin.ofNat 32 (fld w 15 5)) (Fin.ofNat 32 (fld w 10 5)) (Fin.ofNat 32 (fld w 5 5)) (Fin.ofNat 8 (fld w 2 3)))
  | _ => some (.vfma (Fin.ofNat 32 (fld w 15 5)) (Fin.ofNat 32 (fld w 10 5)) (Fin.ofNat 32 (fld w 5 5)) (Fin.ofNat 8 (fld w 2 3)))

/-- Major opcode 0x1D. -/
def decodeOp1D (w : Nat) : Option Instr :=
  match fld w 0 2 with
  | 0 => some (.vmax (Fin.ofNat 32 (fld w 15 5)) (Fin.ofNat 32 (fld w 10 5)) (Fin.ofNat 32 (fld w 5 5)) (Fin.ofNat 8 (fld w 2 3)))
  | 1 => some (.vmin (Fin.ofNat 32 (fld w 15 5)) (Fin.ofNat 32 (fld w 10 5)) (Fin.ofNat 32 (fld w 5 5)) (Fin.ofNat 8 (fld w 2 3)))
  | 2 => some (.vsel (Fin.ofNat 32 (fld w 15 5)) (Fin.ofNat 32 (fld w 10 5)) (Fin.ofNat 32 (fld w 5 5)) (Fin.ofNat 8 (fld w 2 3)))
  | _ => if fld w 5 5 == 0 then some (.vmov (Fin.ofNat 32 (fld w 15 5)) (Fin.ofNat 32 (fld w 10 5)) (Fin.ofNat 8 (fld w 2 3))) else none

/-- Major opcode 0x1E. -/
def decodeOp1E (w : Nat) : Option Instr :=
  match fld w 0 2 with
  | 0 => if fld w 18 2 == 0 then some (.vcmpEq (Fin.ofNat 8 (fld w 15 3)) (Fin.ofNat 32 (fld w 10 5)) (Fin.ofNat 32 (fld w 5 5)) (Fin.ofNat 8 (fld w 2 3))) else none
  | 1 => if fld w 18 2 == 0 then some (.vcmpNe (Fin.ofNat 8 (fld w 15 3)) (Fin.ofNat 32 (fld w 10 5)) (Fin.ofNat 32 (fld w 5 5)) (Fin.ofNat 8 (fld w 2 3))) else none
  | 2 => if fld w 18 2 == 0 then some (.vcmpLt (Fin.ofNat 8 (fld w 15 3)) (Fin.ofNat 32 (fld w 10 5)) (Fin.ofNat 32 (fld w 5 5)) (Fin.ofNat 8 (fld w 2 3))) else none
  | _ => if fld w 18 2 == 0 then some (.vcmpLe (Fin.ofNat 8 (fld w 15 3)) (Fin.ofNat 32 (fld w 10 5)) (Fin.ofNat 32 (fld w 5 5)) (Fin.ofNat 8 (fld w 2 3))) else none

/-- Major opcode 0x1F. -/
def decodeOp1F (w : Nat) : Option Instr :=
  match fld w 0 2 with
  | 0 => some (.vsfn (Fin.ofNat 32 (fld w 15 5)) (Fin.ofNat 32 (fld w 10 5)) (BitVec.ofNat 5 (fld w 5 5)) (Fin.ofNat 8 (fld w 2 3)))
  | _ => none

/-- Major opcode 0x20. -/
def decodeOp20 (w : Nat) : Option Instr :=
  match fld w 0 2 with
  | 0 => if fld w 5 5 == 0 then some (.vredAdd (Fin.ofNat 32 (fld w 15 5)) (Fin.ofNat 32 (fld w 10 5)) (Fin.ofNat 8 (fld w 2 3))) else none
  | 1 => if fld w 5 5 == 0 then some (.vredMax (Fin.ofNat 32 (fld w 15 5)) (Fin.ofNat 32 (fld w 10 5)) (Fin.ofNat 8 (fld w 2 3))) else none
  | 2 => if fld w 5 5 == 0 then some (.vredMin (Fin.ofNat 32 (fld w 15 5)) (Fin.ofNat 32 (fld w 10 5)) (Fin.ofNat 8 (fld w 2 3))) else none
  | _ => if fld w 5 5 == 0 then some (.vredArgmax (Fin.ofNat 32 (fld w 15 5)) (Fin.ofNat 32 (fld w 10 5)) (Fin.ofNat 8 (fld w 2 3))) else none

/-- Major opcode 0x21. -/
def decodeOp21 (w : Nat) : Option Instr :=
  match fld w 0 2 with
  | 0 => some (.vperm (Fin.ofNat 32 (fld w 15 5)) (Fin.ofNat 32 (fld w 10 5)) (Fin.ofNat 32 (fld w 5 5)) (Fin.ofNat 8 (fld w 2 3)))
  | _ => none

/-- Major opcode 0x22. -/
def decodeOp22 (w : Nat) : Option Instr :=
  match fld w 0 2 with
  | 0 => some (.vbcast (Fin.ofNat 32 (fld w 15 5)) (Fin.ofNat 32 (fld w 10 5)) (Fin.ofNat 32 (fld w 5 5)) (Fin.ofNat 8 (fld w 2 3)))
  | _ => none

/-- Major opcode 0x23. -/
def decodeOp23 (w : Nat) : Option Instr :=
  match fld w 0 2 with
  | 0 => if fld w 9 1 == 0 then some (.vcvtRne (Fin.ofNat 32 (fld w 15 5)) (Fin.ofNat 32 (fld w 10 5)) (BitVec.ofNat 4 (fld w 5 4)) (Fin.ofNat 8 (fld w 2 3))) else none
  | 1 => if fld w 9 1 == 0 then some (.vcvtSr (Fin.ofNat 32 (fld w 15 5)) (Fin.ofNat 32 (fld w 10 5)) (BitVec.ofNat 4 (fld w 5 4)) (Fin.ofNat 8 (fld w 2 3))) else none
  | 2 => if fld w 9 1 == 0 then some (.vcvtRtz (Fin.ofNat 32 (fld w 15 5)) (Fin.ofNat 32 (fld w 10 5)) (BitVec.ofNat 4 (fld w 5 4)) (Fin.ofNat 8 (fld w 2 3))) else none
  | _ => if fld w 9 1 == 0 then some (.vcvtMode (Fin.ofNat 32 (fld w 15 5)) (Fin.ofNat 32 (fld w 10 5)) (BitVec.ofNat 4 (fld w 5 4)) (Fin.ofNat 8 (fld w 2 3))) else none

/-- Major opcode 0x24. -/
def decodeOp24 (w : Nat) : Option Instr :=
  match fld w 0 2 with
  | 0 => if fld w 5 10 == 0 then some (.vpop (Fin.ofNat 32 (fld w 15 5)) (Fin.ofNat 8 (fld w 2 3))) else none
  | _ => none

/-- Major opcode 0x25. -/
def decodeOp25 (w : Nat) : Option Instr :=
  match fld w 0 2 with
  | 0 => some (.vlogAnd (Fin.ofNat 32 (fld w 15 5)) (Fin.ofNat 32 (fld w 10 5)) (Fin.ofNat 32 (fld w 5 5)) (Fin.ofNat 8 (fld w 2 3)))
  | 1 => some (.vlogOr (Fin.ofNat 32 (fld w 15 5)) (Fin.ofNat 32 (fld w 10 5)) (Fin.ofNat 32 (fld w 5 5)) (Fin.ofNat 8 (fld w 2 3)))
  | 2 => some (.vlogXor (Fin.ofNat 32 (fld w 15 5)) (Fin.ofNat 32 (fld w 10 5)) (Fin.ofNat 32 (fld w 5 5)) (Fin.ofNat 8 (fld w 2 3)))
  | _ => some (.vlogAndn (Fin.ofNat 32 (fld w 15 5)) (Fin.ofNat 32 (fld w 10 5)) (Fin.ofNat 32 (fld w 5 5)) (Fin.ofNat 8 (fld w 2 3)))

/-- Major opcode 0x26. -/
def decodeOp26 (w : Nat) : Option Instr :=
  match fld w 0 2 with
  | 0 => some (.vshfL (Fin.ofNat 32 (fld w 15 5)) (Fin.ofNat 32 (fld w 10 5)) (Fin.ofNat 32 (fld w 5 5)) (Fin.ofNat 8 (fld w 2 3)))
  | 1 => some (.vshfR (Fin.ofNat 32 (fld w 15 5)) (Fin.ofNat 32 (fld w 10 5)) (Fin.ofNat 32 (fld w 5 5)) (Fin.ofNat 8 (fld w 2 3)))
  | 2 => some (.vshfA (Fin.ofNat 32 (fld w 15 5)) (Fin.ofNat 32 (fld w 10 5)) (Fin.ofNat 32 (fld w 5 5)) (Fin.ofNat 8 (fld w 2 3)))
  | _ => some (.vshfRol (Fin.ofNat 32 (fld w 15 5)) (Fin.ofNat 32 (fld w 10 5)) (Fin.ofNat 32 (fld w 5 5)) (Fin.ofNat 8 (fld w 2 3)))

/-- Major opcode 0x27. -/
def decodeOp27 (w : Nat) : Option Instr :=
  match fld w 0 2 with
  | 0 => some (.vsplit (Fin.ofNat 32 (fld w 15 5)) (Fin.ofNat 32 (fld w 10 5)) (Fin.ofNat 32 (fld w 5 5)) (Fin.ofNat 8 (fld w 2 3)))
  | _ => none

/-- Major opcode 0x28. -/
def decodeOp28 (w : Nat) : Option Instr :=
  match fld w 0 2 with
  | 0 => some (.vjoin (Fin.ofNat 32 (fld w 15 5)) (Fin.ofNat 32 (fld w 10 5)) (Fin.ofNat 32 (fld w 5 5)) (Fin.ofNat 8 (fld w 2 3)))
  | _ => none

/-- Major opcode 0x29. -/
def decodeOp29 (w : Nat) : Option Instr :=
  match fld w 0 2 with
  | 0 => if fld w 2 3 == 0 && fld w 8 2 == 0 && fld w 13 2 == 0 && fld w 18 2 == 0 then some (.vmlogAnd (Fin.ofNat 8 (fld w 15 3)) (Fin.ofNat 8 (fld w 10 3)) (Fin.ofNat 8 (fld w 5 3))) else none
  | 1 => if fld w 2 3 == 0 && fld w 8 2 == 0 && fld w 13 2 == 0 && fld w 18 2 == 0 then some (.vmlogOr (Fin.ofNat 8 (fld w 15 3)) (Fin.ofNat 8 (fld w 10 3)) (Fin.ofNat 8 (fld w 5 3))) else none
  | 2 => if fld w 2 3 == 0 && fld w 8 2 == 0 && fld w 13 2 == 0 && fld w 18 2 == 0 then some (.vmlogXor (Fin.ofNat 8 (fld w 15 3)) (Fin.ofNat 8 (fld w 10 3)) (Fin.ofNat 8 (fld w 5 3))) else none
  | _ => if fld w 2 8 == 0 && fld w 13 2 == 0 && fld w 18 2 == 0 then some (.vmlogNot (Fin.ofNat 8 (fld w 15 3)) (Fin.ofNat 8 (fld w 10 3))) else none

/-- Major opcode 0x2A. -/
def decodeOp2A (w : Nat) : Option Instr :=
  match fld w 0 2 with
  | 0 => if fld w 9 1 == 0 then some (.vretagSet (Fin.ofNat 32 (fld w 15 5)) (Fin.ofNat 32 (fld w 10 5)) (BitVec.ofNat 4 (fld w 5 4)) (Fin.ofNat 8 (fld w 2 3))) else none
  | 1 => if fld w 5 5 == 0 then some (.vretagRead (Fin.ofNat 32 (fld w 15 5)) (Fin.ofNat 32 (fld w 10 5)) (Fin.ofNat 8 (fld w 2 3))) else none
  | 2 => if fld w 5 5 == 0 then some (.vretagClr (Fin.ofNat 32 (fld w 15 5)) (Fin.ofNat 32 (fld w 10 5)) (Fin.ofNat 8 (fld w 2 3))) else none
  | _ => none

/-- Major opcode 0x2B. -/
def decodeOp2B (w : Nat) : Option Instr :=
  match fld w 0 2 with
  | 0 => some (.vscl (Fin.ofNat 32 (fld w 15 5)) (Fin.ofNat 32 (fld w 10 5)) (Fin.ofNat 32 (fld w 5 5)) (Fin.ofNat 8 (fld w 2 3)))
  | _ => none

/-- Major opcode 0x2C. -/
def decodeOp2C (w : Nat) : Option Instr :=
  match fld w 0 2 with
  | 0 => some (.mcall (BitVec.ofNat 12 (fld w 8 12)) (BitVec.ofNat 6 (fld w 2 6)))
  | _ => none

/-- Major opcode 0x2D. -/
def decodeOp2D (w : Nat) : Option Instr :=
  match fld w 0 2 with
  | 0 => if fld w 2 6 == 0 && fld w 17 3 == 0 then some (.msetp (Fin.ofNat 8 (fld w 14 3)) (Fin.ofNat 64 (fld w 8 6))) else none
  | 1 => if fld w 2 6 == 0 && fld w 12 2 == 0 && fld w 17 3 == 0 then some (.mseth (Fin.ofNat 8 (fld w 14 3)) (Fin.ofNat 16 (fld w 8 4))) else none
  | 2 => if fld w 14 6 == 0 then some (.muwr (Fin.ofNat 64 (fld w 8 6)) (Fin.ofNat 64 (fld w 2 6))) else none
  | _ => if fld w 2 12 == 0 && fld w 17 3 == 0 then some (.mpref (Fin.ofNat 8 (fld w 14 3))) else none

/-- Major opcode 0x2E. -/
def decodeOp2E (w : Nat) : Option Instr :=
  match fld w 0 2 with
  | 0 => if fld w 6 1 == 0 then some (.relax (Fin.ofNat 32 (fld w 15 5)) (Fin.ofNat 32 (fld w 10 5)) (Fin.ofNat 8 (fld w 7 3)) (BitVec.ofNat 1 (fld w 5 1)) (BitVec.ofNat 3 (fld w 2 3))) else none
  | 1 => if fld w 2 5 == 0 then some (.relaxb (Fin.ofNat 32 (fld w 15 5)) (Fin.ofNat 32 (fld w 10 5)) (Fin.ofNat 8 (fld w 7 3))) else none
  | _ => none

/-- Major opcode 0x2F. -/
def decodeOp2F (w : Nat) : Option Instr :=
  match fld w 0 2 with
  | 0 => some (.mma (Fin.ofNat 32 (fld w 15 5)) (Fin.ofNat 32 (fld w 10 5)) (Fin.ofNat 8 (fld w 7 3)) (BitVec.ofNat 5 (fld w 2 5)))
  | 1 => some (.mmaZ (Fin.ofNat 32 (fld w 15 5)) (Fin.ofNat 32 (fld w 10 5)) (Fin.ofNat 8 (fld w 7 3)) (BitVec.ofNat 5 (fld w 2 5)))
  | 2 => some (.mmaT (Fin.ofNat 32 (fld w 15 5)) (Fin.ofNat 32 (fld w 10 5)) (Fin.ofNat 8 (fld w 7 3)) (BitVec.ofNat 5 (fld w 2 5)))
  | _ => some (.mmaZt (Fin.ofNat 32 (fld w 15 5)) (Fin.ofNat 32 (fld w 10 5)) (Fin.ofNat 8 (fld w 7 3)) (BitVec.ofNat 5 (fld w 2 5)))

/-- Major opcode 0x30. -/
def decodeOp30 (w : Nat) : Option Instr :=
  some (.copy (Fin.ofNat 16 (fld w 16 4)) (Fin.ofNat 16 (fld w 12 4)) (Fin.ofNat 64 (fld w 6 6)) (BitVec.ofNat 4 (fld w 2 4)) (BitVec.ofNat 2 (fld w 0 2)))

/-- Major opcode 0x31. -/
def decodeOp31 (w : Nat) : Option Instr :=
  if fld w 8 3 == 0 then some (.copyadd (Fin.ofNat 32 (fld w 15 5)) (Fin.ofNat 16 (fld w 11 4)) (BitVec.ofNat 6 (fld w 2 6)) (BitVec.ofNat 2 (fld w 0 2))) else none

/-- Major opcode 0x32. -/
def decodeOp32 (w : Nat) : Option Instr :=
  match fld w 0 2 with
  | 0 => if fld w 2 14 == 0 then some (.bcast (Fin.ofNat 16 (fld w 16 4))) else none
  | 1 => if fld w 2 14 == 0 then some (.blatch (Fin.ofNat 16 (fld w 16 4))) else none
  | 2 => if fld w 4 4 == 0 && fld w 18 2 == 0 then some (.xtest (Fin.ofNat 16 (fld w 14 4)) (Fin.ofNat 64 (fld w 8 6)) (BitVec.ofNat 2 (fld w 2 2))) else none
  | _ => none

/-- Major opcode 0x33. -/
def decodeOp33 (w : Nat) : Option Instr :=
  match fld w 0 2 with
  | 0 => if fld w 14 6 == 0 then some (.send (Fin.ofNat 64 (fld w 8 6)) (Fin.ofNat 64 (fld w 2 6))) else none
  | 1 => if fld w 14 6 == 0 then some (.recv (Fin.ofNat 64 (fld w 8 6)) (Fin.ofNat 64 (fld w 2 6))) else none
  | 2 => if fld w 14 6 == 0 then some (.qpush (Fin.ofNat 64 (fld w 8 6)) (BitVec.ofNat 6 (fld w 2 6))) else none
  | _ => if fld w 2 6 == 0 && fld w 14 6 == 0 then some (.qpop (Fin.ofNat 64 (fld w 8 6))) else none

/-- Major opcode 0x34. -/
def decodeOp34 (w : Nat) : Option Instr :=
  match fld w 0 2 with
  | 0 => if fld w 14 6 == 0 then some (.bdred (Fin.ofNat 64 (fld w 8 6)) (Fin.ofNat 64 (fld w 2 6))) else none
  | 1 => if fld w 14 6 == 0 then some (.bdidx (Fin.ofNat 64 (fld w 8 6)) (Fin.ofNat 64 (fld w 2 6))) else none
  | 2 => if fld w 14 6 == 0 then some (.bdtopk (Fin.ofNat 64 (fld w 8 6)) (Fin.ofNat 64 (fld w 2 6))) else none
  | _ => none

/-- Major opcode 0x38. -/
def decodeOp38 (w : Nat) : Option Instr :=
  match fld w 0 2 with
  | 0 => if fld w 7 1 == 0 && fld w 18 2 == 0 then some (.smerge (BitVec.ofNat 4 (fld w 14 4)) (Fin.ofNat 64 (fld w 8 6)) (Fin.ofNat 32 (fld w 2 5))) else none
  | 1 => if fld w 2 6 == 0 && fld w 18 2 == 0 then some (.sreset (BitVec.ofNat 4 (fld w 14 4)) (Fin.ofNat 64 (fld w 8 6))) else none
  | 2 => if fld w 7 7 == 0 && fld w 18 2 == 0 then some (.ssoft (BitVec.ofNat 4 (fld w 14 4)) (Fin.ofNat 32 (fld w 2 5))) else none
  | _ => if fld w 6 2 == 0 then some (.sdraw (Fin.ofNat 64 (fld w 14 6)) (Fin.ofNat 64 (fld w 8 6)) (BitVec.ofNat 4 (fld w 2 4))) else none

/-- Major opcode 0x39. -/
def decodeOp39 (w : Nat) : Option Instr :=
  match fld w 0 2 with
  | 0 => if fld w 7 1 == 0 then some (.saccept (Fin.ofNat 64 (fld w 14 6)) (Fin.ofNat 64 (fld w 8 6)) (Fin.ofNat 32 (fld w 2 5))) else none
  | 1 => some (.smatch (Fin.ofNat 64 (fld w 14 6)) (Fin.ofNat 64 (fld w 8 6)) (Fin.ofNat 64 (fld w 2 6)))
  | 2 => if fld w 19 1 == 0 then some (.spen (Fin.ofNat 32 (fld w 14 5)) (Fin.ofNat 64 (fld w 8 6)) (Fin.ofNat 64 (fld w 2 6))) else none
  | _ => none

/-- Major opcode 0x3C. -/
def decodeOp3C (w : Nat) : Option Instr :=
  match fld w 0 2 with
  | 0 => if fld w 2 18 == 0 then some (.nop) else none
  | _ => none

/-- The opcode map of R138: the instruction of a slot word, or none where the opcode, the function or a
reserved bit makes the slot one that R131 refuses.  S, G and N are not read here. -/
def decodeBits (w : Nat) : Option Instr :=
  match fld w 20 6 with
  | 0 => decodeOp00 w
  | 1 => decodeOp01 w
  | 2 => decodeOp02 w
  | 3 => decodeOp03 w
  | 4 => decodeOp04 w
  | 5 => decodeOp05 w
  | 6 => decodeOp06 w
  | 7 => decodeOp07 w
  | 8 => decodeOp08 w
  | 9 => decodeOp09 w
  | 10 => decodeOp0A w
  | 11 => decodeOp0B w
  | 12 => decodeOp0C w
  | 13 => decodeOp0D w
  | 14 => decodeOp0E w
  | 15 => decodeOp0F w
  | 16 => decodeOp10 w
  | 17 => decodeOp11 w
  | 18 => decodeOp12 w
  | 19 => decodeOp13 w
  | 20 => decodeOp14 w
  | 21 => decodeOp15 w
  | 22 => decodeOp16 w
  | 23 => decodeOp17 w
  | 24 => decodeOp18 w
  | 25 => decodeOp19 w
  | 26 => decodeOp1A w
  | 28 => decodeOp1C w
  | 29 => decodeOp1D w
  | 30 => decodeOp1E w
  | 31 => decodeOp1F w
  | 32 => decodeOp20 w
  | 33 => decodeOp21 w
  | 34 => decodeOp22 w
  | 35 => decodeOp23 w
  | 36 => decodeOp24 w
  | 37 => decodeOp25 w
  | 38 => decodeOp26 w
  | 39 => decodeOp27 w
  | 40 => decodeOp28 w
  | 41 => decodeOp29 w
  | 42 => decodeOp2A w
  | 43 => decodeOp2B w
  | 44 => decodeOp2C w
  | 45 => decodeOp2D w
  | 46 => decodeOp2E w
  | 47 => decodeOp2F w
  | 48 => decodeOp30 w
  | 49 => decodeOp31 w
  | 50 => decodeOp32 w
  | 51 => decodeOp33 w
  | 52 => decodeOp34 w
  | 56 => decodeOp38 w
  | 57 => decodeOp39 w
  | 60 => decodeOp3C w
  | _ => none

/-- One slot of a bundle (R127): S in bit 31, G in [30:27], N in bit 26. -/
def decodeSlot (w : Nat) : Option Slot :=
  (decodeBits w).map fun i =>
    { last := fld w 31 1 == 1, guard := Fin.ofNat 16 (fld w 27 4), neg := fld w 26 1 == 1, instr := i }

/-- A microword of the microprogram store (08 R195): its kind stands in [31:28].  Kind 0 is UEND, whose
other bits are zero; kinds other than 0, 1 and 2 are reserved. -/
def decodeMicroword (w : Nat) : Option Instr :=
  match fld w 28 4 with
  | 0 => if w == 0 then some .uend else none
  | 1 => some (.umma (Fin.ofNat 32 (fld w 23 5)) (Fin.ofNat 32 (fld w 18 5)) (Fin.ofNat 32 (fld w 13 5))
      (BitVec.ofNat 2 (fld w 11 2)) (BitVec.ofNat 2 (fld w 9 2)) (BitVec.ofNat 4 (fld w 5 4)) (BitVec.ofNat 5 (fld w 0 5)))
  | 2 => some (.uew (Fin.ofNat 32 (fld w 23 5)) (Fin.ofNat 32 (fld w 18 5)) (Fin.ofNat 32 (fld w 13 5))
      (BitVec.ofNat 2 (fld w 11 2)) (BitVec.ofNat 2 (fld w 9 2)) (BitVec.ofNat 4 (fld w 5 4)) (BitVec.ofNat 5 (fld w 0 5)))
  | _ => none

/-- The instruction the slot decoder reads from a word whose bits are numbered as the opcode table
numbers them: a slot is one 32-bit little-endian word.  The three micro-operations share their words with
slots; the slot decoder is the one a program's words meet (log 5). -/
def decodeTableWord (nbits w : Nat) : Option Instr :=
  if nbits ≤ 32 then decodeBits (w % 2 ^ 32) else none

/-- A word with operand fields put at their lowest bits. -/
def place (base : Nat) : List (Nat × Nat) → Nat
  | [] => base
  | f :: r => place (base + f.1 * 2 ^ f.2) r

/-- The word of a slot instruction with S = 0, G = 0 and N = 0 (R127); events and micro-operations have
no slot word. -/
def encode : Instr → Option Nat
  | .add d a b => some (place 0x00000000 [(d.val, 14), (a.val, 8), (b.val, 2)])
  | .sub d a b => some (place 0x00000001 [(d.val, 14), (a.val, 8), (b.val, 2)])
  | .and d a b => some (place 0x00000002 [(d.val, 14), (a.val, 8), (b.val, 2)])
  | .or d a b => some (place 0x00000003 [(d.val, 14), (a.val, 8), (b.val, 2)])
  | .xor d a b => some (place 0x00100000 [(d.val, 14), (a.val, 8), (b.val, 2)])
  | .shl d a b => some (place 0x00100001 [(d.val, 14), (a.val, 8), (b.val, 2)])
  | .shr d a b => some (place 0x00100002 [(d.val, 14), (a.val, 8), (b.val, 2)])
  | .sar d a b => some (place 0x00100003 [(d.val, 14), (a.val, 8), (b.val, 2)])
  | .mul d a b => some (place 0x00200000 [(d.val, 14), (a.val, 8), (b.val, 2)])
  | .mulhS d a b => some (place 0x00200001 [(d.val, 14), (a.val, 8), (b.val, 2)])
  | .mulhU d a b => some (place 0x00200002 [(d.val, 14), (a.val, 8), (b.val, 2)])
  | .divu d a b => some (place 0x00200003 [(d.val, 14), (a.val, 8), (b.val, 2)])
  | .remu d a b => some (place 0x00300000 [(d.val, 14), (a.val, 8), (b.val, 2)])
  | .clkdiv a => some (place 0x00300001 [(a.val, 8)])
  | .slmark a => some (place 0x00300002 [(a.val, 8)])
  | .fillq a b => some (place 0x00300003 [(a.val, 8), (b.val, 2)])
  | .cmpEq p a b => some (place 0x00400000 [(p.val, 14), (a.val, 8), (b.val, 2)])
  | .cmpNe p a b => some (place 0x00400001 [(p.val, 14), (a.val, 8), (b.val, 2)])
  | .cmpLt p a b => some (place 0x00400002 [(p.val, 14), (a.val, 8), (b.val, 2)])
  | .cmpLtu p a b => some (place 0x00400003 [(p.val, 14), (a.val, 8), (b.val, 2)])
  | .addi d a i => some (place 0x00500000 [(d.val, 14), (a.val, 8), (i.toNat, 0)])
  | .shiL d a i => some (place 0x00600000 [(d.val, 14), (a.val, 8), (i.toNat, 2)])
  | .shiR d a i => some (place 0x00600001 [(d.val, 14), (a.val, 8), (i.toNat, 2)])
  | .shiA d a i => some (place 0x00600002 [(d.val, 14), (a.val, 8), (i.toNat, 2)])
  | .shiRol d a i => some (place 0x00600003 [(d.val, 14), (a.val, 8), (i.toNat, 2)])
  | .cmpiEq p a i => some (place 0x00700000 [(p.val, 14), (a.val, 8), (i.toNat, 2)])
  | .cmpiNe p a i => some (place 0x00700001 [(p.val, 14), (a.val, 8), (i.toNat, 2)])
  | .cmpiLt p a i => some (place 0x00700002 [(p.val, 14), (a.val, 8), (i.toNat, 2)])
  | .cmpiLtu p a i => some (place 0x00700003 [(p.val, 14), (a.val, 8), (i.toNat, 2)])
  | .lis d i => some (place 0x00800000 [(d.val, 14), (i.toNat, 0)])
  | .shin d i => some (place 0x00900000 [(d.val, 14), (i.toNat, 0)])
  | .br i => some (place 0x00A00000 [(i.toNat, 0)])
  | .call d i => some (place 0x00B00000 [(d.val, 14), (i.toNat, 2)])
  | .ret a => some (place 0x00B00001 [(a.val, 8)])
  | .jmpr a => some (place 0x00B00002 [(a.val, 8)])
  | .loops k a i => some (place 0x00C00000 [(k.val, 14), (a.val, 8), (i.toNat, 0)])
  | .mfs d r => some (place 0x00D00000 [(d.val, 14), (r.toNat, 2)])
  | .mts a r => some (place 0x00D00001 [(a.val, 14), (r.toNat, 2)])
  | .swaps d r => some (place 0x00D00002 [(d.val, 14), (r.toNat, 2)])
  | .plogAnd d a b => some (place 0x00E00000 [(d.val, 14), (a.val, 8), (b.val, 2)])
  | .plogOr d a b => some (place 0x00E00001 [(d.val, 14), (a.val, 8), (b.val, 2)])
  | .plogXor d a b => some (place 0x00E00002 [(d.val, 14), (a.val, 8), (b.val, 2)])
  | .plogAndn d a b => some (place 0x00E00003 [(d.val, 14), (a.val, 8), (b.val, 2)])
  | .wait l w c t => some (place 0x00F00000 [(l.toNat, 16), (w.toNat, 12), (c.toNat, 8), (t.toNat, 4)])
  | .bar a b => some (place 0x01000000 [(a.val, 8), (b.val, 2)])
  | .barArr d a b => some (place 0x01000001 [(d.val, 14), (a.val, 8), (b.val, 2)])
  | .barWait a => some (place 0x01000002 [(a.val, 8)])
  | .drainRel c => some (place 0x01000013 [(c.toNat, 2)])
  | .drainAcq c => some (place 0x01000023 [(c.toNat, 2)])
  | .drainFull c => some (place 0x01000033 [(c.toNat, 2)])
  | .clz d a => some (place 0x01100000 [(d.val, 14), (a.val, 8)])
  | .trap a => some (place 0x01100001 [(a.val, 8)])
  | .tret => some (place 0x01100002 [])
  | .brkp => some (place 0x01100003 [])
  | .tend => some (place 0x01200000 [])
  | .spawn a b => some (place 0x01200001 [(a.val, 8), (b.val, 2)])
  | .trig => some (place 0x01200002 [])
  | .rdcyc d => some (place 0x01200003 [(d.val, 14)])
  | .bstep d a => some (place 0x01300000 [(d.val, 14), (a.val, 8)])
  | .rqrd d a w => some (place 0x01300001 [(d.val, 14), (a.val, 8), (w.toNat, 2)])
  | .rqwr d a w => some (place 0x01300002 [(d.val, 14), (a.val, 8), (w.toNat, 2)])
  | .rqret d a k => some (place 0x01300003 [(d.val, 14), (a.val, 8), (k.toNat, 2)])
  | .tld4 a t m => some (place 0x01400000 [(a.val, 16), (t.toNat, 8), (m.val, 5)])
  | .tld64 a t m => some (place 0x01400001 [(a.val, 16), (t.toNat, 8), (m.val, 5)])
  | .tld256 a t m => some (place 0x01400002 [(a.val, 16), (t.toNat, 8), (m.val, 5)])
  | .tldG a v m => some (place 0x01400003 [(a.val, 16), (v.val, 8), (m.val, 5)])
  | .tst4 a t v => some (place 0x01500000 [(a.val, 16), (t.toNat, 8), (v.val, 3)])
  | .tst64 a t v => some (place 0x01500001 [(a.val, 16), (t.toNat, 8), (v.val, 3)])
  | .tst256 a t v => some (place 0x01500002 [(a.val, 16), (t.toNat, 8), (v.val, 3)])
  | .tstS a i v => some (place 0x01500003 [(a.val, 16), (i.toNat, 8), (v.val, 3)])
  | .touchR a r b => some (place 0x01600000 [(a.val, 16), (r.toNat, 8), (b.toNat, 2)])
  | .touchW a r b => some (place 0x01600001 [(a.val, 16), (r.toNat, 8), (b.toNat, 2)])
  | .touchRw a r b => some (place 0x01600002 [(a.val, 16), (r.toNat, 8), (b.toNat, 2)])
  | .touchRel a => some (place 0x01600003 [(a.val, 16)])
  | .aset a r k => some (place 0x01700000 [(a.val, 16), (r.val, 8), (k.toNat, 2)])
  | .ainc a r j => some (place 0x01700001 [(a.val, 16), (r.val, 8), (j.toNat, 2)])
  | .amovTo d a => some (place 0x01700002 [(d.val, 16), (a.val, 8)])
  | .amovFrom d a k => some (place 0x01700003 [(d.val, 14), (a.val, 8), (k.toNat, 2)])
  | .atomAdd a t v => some (place 0x01800000 [(a.val, 16), (t.toNat, 8), (v.val, 3)])
  | .atomMin a t v => some (place 0x01800001 [(a.val, 16), (t.toNat, 8), (v.val, 3)])
  | .atomMax a t v => some (place 0x01800002 [(a.val, 16), (t.toNat, 8), (v.val, 3)])
  | .atomCas a t v => some (place 0x01800003 [(a.val, 16), (t.toNat, 8), (v.val, 3)])
  | .tldt a k c => some (place 0x01900000 [(a.val, 16), (k.val, 10), (c.toNat, 2)])
  | .tstt a k c => some (place 0x01A00000 [(a.val, 16), (k.val, 10), (c.toNat, 2)])
  | .vadd d a b m => some (place 0x01C00000 [(d.val, 15), (a.val, 10), (b.val, 5), (m.val, 2)])
  | .vsub d a b m => some (place 0x01C00001 [(d.val, 15), (a.val, 10), (b.val, 5), (m.val, 2)])
  | .vmul d a b m => some (place 0x01C00002 [(d.val, 15), (a.val, 10), (b.val, 5), (m.val, 2)])
  | .vfma d a b m => some (place 0x01C00003 [(d.val, 15), (a.val, 10), (b.val, 5), (m.val, 2)])
  | .vmax d a b m => some (place 0x01D00000 [(d.val, 15), (a.val, 10), (b.val, 5), (m.val, 2)])
  | .vmin d a b m => some (place 0x01D00001 [(d.val, 15), (a.val, 10), (b.val, 5), (m.val, 2)])
  | .vsel d a b m => some (place 0x01D00002 [(d.val, 15), (a.val, 10), (b.val, 5), (m.val, 2)])
  | .vmov d a m => some (place 0x01D00003 [(d.val, 15), (a.val, 10), (m.val, 2)])
  | .vcmpEq d a b m => some (place 0x01E00000 [(d.val, 15), (a.val, 10), (b.val, 5), (m.val, 2)])
  | .vcmpNe d a b m => some (place 0x01E00001 [(d.val, 15), (a.val, 10), (b.val, 5), (m.val, 2)])
  | .vcmpLt d a b m => some (place 0x01E00002 [(d.val, 15), (a.val, 10), (b.val, 5), (m.val, 2)])
  | .vcmpLe d a b m => some (place 0x01E00003 [(d.val, 15), (a.val, 10), (b.val, 5), (m.val, 2)])
  | .vsfn d a f m => some (place 0x01F00000 [(d.val, 15), (a.val, 10), (f.toNat, 5), (m.val, 2)])
  | .vredAdd d a m => some (place 0x02000000 [(d.val, 15), (a.val, 10), (m.val, 2)])
  | .vredMax d a m => some (place 0x02000001 [(d.val, 15), (a.val, 10), (m.val, 2)])
  | .vredMin d a m => some (place 0x02000002 [(d.val, 15), (a.val, 10), (m.val, 2)])
  | .vredArgmax d a m => some (place 0x02000003 [(d.val, 15), (a.val, 10), (m.val, 2)])
  | .vperm d a b m => some (place 0x02100000 [(d.val, 15), (a.val, 10), (b.val, 5), (m.val, 2)])
  | .vbcast d a b m => some (place 0x02200000 [(d.val, 15), (a.val, 10), (b.val, 5), (m.val, 2)])
  | .vcvtRne d a t m => some (place 0x02300000 [(d.val, 15), (a.val, 10), (t.toNat, 5), (m.val, 2)])
  | .vcvtSr d a t m => some (place 0x02300001 [(d.val, 15), (a.val, 10), (t.toNat, 5), (m.val, 2)])
  | .vcvtRtz d a t m => some (place 0x02300002 [(d.val, 15), (a.val, 10), (t.toNat, 5), (m.val, 2)])
  | .vcvtMode d a t m => some (place 0x02300003 [(d.val, 15), (a.val, 10), (t.toNat, 5), (m.val, 2)])
  | .vpop d m => some (place 0x02400000 [(d.val, 15), (m.val, 2)])
  | .vlogAnd d a b m => some (place 0x02500000 [(d.val, 15), (a.val, 10), (b.val, 5), (m.val, 2)])
  | .vlogOr d a b m => some (place 0x02500001 [(d.val, 15), (a.val, 10), (b.val, 5), (m.val, 2)])
  | .vlogXor d a b m => some (place 0x02500002 [(d.val, 15), (a.val, 10), (b.val, 5), (m.val, 2)])
  | .vlogAndn d a b m => some (place 0x02500003 [(d.val, 15), (a.val, 10), (b.val, 5), (m.val, 2)])
  | .vshfL d a b m => some (place 0x02600000 [(d.val, 15), (a.val, 10), (b.val, 5), (m.val, 2)])
  | .vshfR d a b m => some (place 0x02600001 [(d.val, 15), (a.val, 10), (b.val, 5), (m.val, 2)])
  | .vshfA d a b m => some (place 0x02600002 [(d.val, 15), (a.val, 10), (b.val, 5), (m.val, 2)])
  | .vshfRol d a b m => some (place 0x02600003 [(d.val, 15), (a.val, 10), (b.val, 5), (m.val, 2)])
  | .vsplit d a b m => some (place 0x02700000 [(d.val, 15), (a.val, 10), (b.val, 5), (m.val, 2)])
  | .vjoin d a b m => some (place 0x02800000 [(d.val, 15), (a.val, 10), (b.val, 5), (m.val, 2)])
  | .vmlogAnd d a b => some (place 0x02900000 [(d.val, 15), (a.val, 10), (b.val, 5)])
  | .vmlogOr d a b => some (place 0x02900001 [(d.val, 15), (a.val, 10), (b.val, 5)])
  | .vmlogXor d a b => some (place 0x02900002 [(d.val, 15), (a.val, 10), (b.val, 5)])
  | .vmlogNot d a => some (place 0x02900003 [(d.val, 15), (a.val, 10)])
  | .vretagSet d a t m => some (place 0x02A00000 [(d.val, 15), (a.val, 10), (t.toNat, 5), (m.val, 2)])
  | .vretagRead d a m => some (place 0x02A00001 [(d.val, 15), (a.val, 10), (m.val, 2)])
  | .vretagClr d a m => some (place 0x02A00002 [(d.val, 15), (a.val, 10), (m.val, 2)])
  | .vscl d a b m => some (place 0x02B00000 [(d.val, 15), (a.val, 10), (b.val, 5), (m.val, 2)])
  | .mcall r b => some (place 0x02C00000 [(r.toNat, 8), (b.toNat, 2)])
  | .msetp k a => some (place 0x02D00000 [(k.val, 14), (a.val, 8)])
  | .mseth k a => some (place 0x02D00001 [(k.val, 14), (a.val, 8)])
  | .muwr a b => some (place 0x02D00002 [(a.val, 8), (b.val, 2)])
  | .mpref k => some (place 0x02D00003 [(k.val, 14)])
  | .relax z u w v f => some (place 0x02E00000 [(z.val, 15), (u.val, 10), (w.val, 7), (v.toNat, 5), (f.toNat, 2)])
  | .relaxb z t w => some (place 0x02E00001 [(z.val, 15), (t.val, 10), (w.val, 7)])
  | .mma d a b e => some (place 0x02F00000 [(d.val, 15), (a.val, 10), (b.val, 7), (e.toNat, 2)])
  | .mmaZ d a b e => some (place 0x02F00001 [(d.val, 15), (a.val, 10), (b.val, 7), (e.toNat, 2)])
  | .mmaT d a b e => some (place 0x02F00002 [(d.val, 15), (a.val, 10), (b.val, 7), (e.toNat, 2)])
  | .mmaZt d a b e => some (place 0x02F00003 [(d.val, 15), (a.val, 10), (b.val, 7), (e.toNat, 2)])
  | .copy d a l e c => some (place 0x03000000 [(d.val, 16), (a.val, 12), (l.val, 6), (e.toNat, 2), (c.toNat, 0)])
  | .copyadd d a c h => some (place 0x03100000 [(d.val, 15), (a.val, 11), (c.toNat, 2), (h.toNat, 0)])
  | .bcast a => some (place 0x03200000 [(a.val, 16)])
  | .blatch a => some (place 0x03200001 [(a.val, 16)])
  | .xtest p a c => some (place 0x03200002 [(p.val, 14), (a.val, 8), (c.toNat, 2)])
  | .send a b => some (place 0x03300000 [(a.val, 8), (b.val, 2)])
  | .recv a b => some (place 0x03300001 [(a.val, 8), (b.val, 2)])
  | .qpush a b => some (place 0x03300002 [(a.val, 8), (b.toNat, 2)])
  | .qpop a => some (place 0x03300003 [(a.val, 8)])
  | .bdred a b => some (place 0x03400000 [(a.val, 8), (b.val, 2)])
  | .bdidx a b => some (place 0x03400001 [(a.val, 8), (b.val, 2)])
  | .bdtopk a b => some (place 0x03400002 [(a.val, 8), (b.val, 2)])
  | .smerge k a v => some (place 0x03800000 [(k.toNat, 14), (a.val, 8), (v.val, 2)])
  | .sreset k a => some (place 0x03800001 [(k.toNat, 14), (a.val, 8)])
  | .ssoft k v => some (place 0x03800002 [(k.toNat, 14), (v.val, 2)])
  | .sdraw d a k => some (place 0x03800003 [(d.val, 14), (a.val, 8), (k.toNat, 2)])
  | .saccept d a v => some (place 0x03900000 [(d.val, 14), (a.val, 8), (v.val, 2)])
  | .smatch d a b => some (place 0x03900001 [(d.val, 14), (a.val, 8), (b.val, 2)])
  | .spen d a b => some (place 0x03900002 [(d.val, 14), (a.val, 8), (b.val, 2)])
  | .nop => some (place 0x03C00000 [])
  | .uend => none
  | .umma _ _ _ _ _ _ _ => none
  | .uew _ _ _ _ _ _ _ => none
  | .fmodeWrite _ _ => none
  | .sigReady _ _ => none
  | .wsctlWrite _ _ => none
  | .wenChange _ => none
  | .rqbaseWrite _ => none
  | .ptbaseWrite _ => none
  | .scinvAll _ => none
  | .scinvTid _ _ => none
  | .scinvComplete _ => none
  | .tidemarkRead _ _ => none
  | .wptrRead _ _ => none
  | .slctlRead _ => none
  | .sstatRead _ => none
  | .clkdRead _ => none
  | .functionLevelReset _ => none
  | .pageRequestResponse _ _ _ _ _ => none
  | .doorbellTail _ _ _ => none
  | .doorbellChead _ _ _ => none
  | .queueConfigWrite _ _ _ => none
  | .queueEnable _ _ => none
  | .queueDisable _ => none
  | .queueErrorClear _ _ => none
  | .launchAccept _ => none
  | .spawnRelease _ => none
  | .starvationBound _ => none
  | .checkpointSaveComplete _ => none
  | .groupResume _ => none
  | .registerMiss _ _ => none
  | .backgroundFill _ => none
  | .taskEnd _ _ => none
  | .watchdogExpiry _ => none
  | .recvTimeout _ => none
  | .qpopReplyTimeout _ _ _ => none
  | .relaxAbsentCore _ => none
  | .touchWindowExpiry _ => none
  | .descriptorRead _ _ => none
  | .spanEntryFetch _ _ _ => none
  | .loadReply _ _ _ _ => none
  | .storePerform _ _ _ => none
  | .copySectorWrite _ _ _ => none
  | .operandFetch _ _ _ => none
  | .mmaComplete _ _ => none
  | .relaxIteration _ => none
  | .relaxComplete _ => none
  | .copyaddRow _ _ => none
  | .tldtRow _ _ => none
  | .tsttRow _ _ => none
  | .recvComplete _ _ => none
  | .queuePushPerform _ _ _ => none
  | .queuePopServe _ _ _ => none
  | .barrierRelease _ _ _ _ => none
  | .waitRelease _ => none
  | .drainRelease _ => none
  | .clkdivApply _ _ => none
  | .engineCommandStart _ => none
  | .engineCommandComplete _ _ _ => none
  | .boundaryPublish _ => none
  | .strandlineWalkComplete _ _ => none
  | .governorCycle _ => none
  | .refreshWindowStart _ => none
  | .refreshWindowEnd _ => none
  | .patrolScrub _ _ _ _ => none
  | .bandRise _ _ _ _ => none
  | .bandFall _ _ _ _ => none
  | .stackTimingSwitch _ => none
  | .valveControlPeriod _ _ _ _ _ _ _ _ _ _ _ _ => none
  | .elimRestore _ => none
  | .selfTestComplete _ _ _ _ _ _ => none
  | .trainingComplete _ => none
  | .warmrunTrainingComplete _ => none
  | .peerDataFrame _ _ _ _ _ _ _ _ => none
  | .peerAcknowledge _ _ _ => none
  | .peerNegativeAcknowledge _ _ => none
  | .resendTimeout _ => none
  | .acknowledgeTimer _ => none
  | .skomonFlitReceive _ _ _ => none
  | .resultLanding _ => none
  | .mcallComplete _ _ => none
  | .raceCheckAnswer _ _ _ _ => none
  | .parameterBlockRead _ _ _ => none
  | .draftTreeRead _ _ => none
  | .rbqWordAdded _ => none
  | .hbm4Refresh _ _ => none
  | .ptpMessage _ _ _ _ => none
  | .atsInvalidation _ _ _ => none
  | .moduleReset => none
  | .groupPlacement => none
  | .timingSwitchComplete => none
  | .purgeComplete => none
  | .descentComplete => none
  | .soakComplete => none
  | .ascentComplete => none
  | .sensorsDisagree => none
  | .valveNotFollowing => none
  | .lossOfVacuum => none
  | .rateOfChange => none
  | .warmstopTimeout => none
  | .cool => none
  | .warmup => none
  | .resume => none
  | .freeze => none
  | .thaw => none
  | .warmrun => none
  | .warmstop => none
  | .status => none
  | .log => none
  | .attest => none
  | .pubkey => none
  | .chainReadOut => none
  | .ptpHoldover => none
  | .unknownCommand => none

/-- The word of a slot (R127). -/
def encodeSlot (s : Slot) : Option Nat :=
  (encode s.instr).map fun w =>
    w + s.guard.val * 2 ^ 27 + (if s.neg then 2 ^ 26 else 0) + (if s.last then 2 ^ 31 else 0)

/-- The microword of a micro-operation (08 R195). -/
def encodeMicroword : Instr → Option Nat
  | .uend => some 0
  | .umma d a b h m f k => some (place 0x10000000
      [(d.val, 23), (a.val, 18), (b.val, 13), (h.toNat, 11), (m.toNat, 9), (f.toNat, 5), (k.toNat, 0)])
  | .uew d a b h m f k => some (place 0x20000000
      [(d.val, 23), (a.val, 18), (b.val, 13), (h.toNat, 11), (m.toNat, 9), (f.toNat, 5), (k.toNat, 0)])
  | _ => none

end Sys2Proof
end

