-- ==== Sys2Proof/Machine/Maps.lean ====
section
/-!
DEFINITION. Sparse tables and memories: lists of (key, value) pairs in one canonical form, keys strictly
rising and no entry equal to what an unlisted key reads as, so that equal tables are equal lists.
-/
namespace Sys2Proof.Machine

/-- A table keyed by a number. -/
abbrev SMap (α : Type) := List (Nat × α)

/-- The value at key `k`; `d` is what an unlisted key reads as. -/
def SMap.get {α : Type} (d : α) (m : SMap α) (k : Nat) : α :=
  match m with
  | [] => d
  | c :: r => if c.1 = k then c.2 else SMap.get d r k

/-- The table without key `k`. -/
def SMap.erase {α : Type} (m : SMap α) (k : Nat) : SMap α :=
  match m with
  | [] => []
  | c :: r => if c.1 = k then SMap.erase r k else c :: SMap.erase r k

/-- The table with the pair put before the first greater key. -/
def SMap.insert {α : Type} (m : SMap α) (k : Nat) (v : α) : SMap α :=
  match m with
  | [] => [(k, v)]
  | c :: r => if k < c.1 then (k, v) :: c :: r else c :: SMap.insert r k v

/-- The table with `v` at key `k`, in canonical form. -/
def SMap.set {α : Type} [DecidableEq α] (d : α) (m : SMap α) (k : Nat) (v : α) : SMap α :=
  if v = d then SMap.erase m k else SMap.insert (SMap.erase m k) k v

/-- Every key of the list is above `k`. -/
def SMap.above {α : Type} (k : Nat) (m : SMap α) : Bool := m.all (fun c => decide (k < c.1))

/-- The canonical form: keys strictly rising, no entry equal to the default. -/
def SMap.wf {α : Type} [DecidableEq α] (d : α) (m : SMap α) : Bool :=
  match m with
  | [] => true
  | c :: r => decide (c.2 ≠ d) && SMap.above c.1 r && SMap.wf d r

/-- The table holding `f i` at each `i` of the rising list `ks`. -/
def SMap.tabulate {α : Type} [DecidableEq α] (d : α) (ks : List Nat) (f : Nat → α) : SMap α :=
  ks.filterMap fun k => let v := f k; if v = d then none else some (k, v)

/-- The keys from `lo` up to, not including, `hi` keep their entries moved to `k - lo + base`. -/
def SMap.slice {α : Type} (m : SMap α) (lo hi base : Nat) : SMap α :=
  m.filterMap fun c => if lo ≤ c.1 ∧ c.1 < hi then some (c.1 - lo + base, c.2) else none

/-- The table with `v` at key `k`, found in one pass from the front. -/
def SMap.put {α : Type} [DecidableEq α] (d : α) (k : Nat) (v : α) : SMap α → SMap α
  | [] => if v = d then [] else [(k, v)]
  | c :: r =>
    if k < c.1 then (if v = d then c :: r else (k, v) :: c :: r)
    else if k = c.1 then (if v = d then r else (k, v) :: r)
    else c :: SMap.put d k v r

/-- Pairs in any order as a table in canonical form; of several for one key the first. -/
def SMap.canon {α : Type} [DecidableEq α] (d : α) (l : List (Nat × α)) : SMap α :=
  l.foldr (fun c m => SMap.put d c.1 c.2 m) []

/-- The table without the keys from `lo` up to, not including, `hi`, and with those entries of `new` whose keys
lie there in their place. -/
def SMap.splice {α : Type} [DecidableEq α] (d : α) (m : SMap α) (lo hi : Nat) (new : List (Nat × α)) : SMap α :=
  m.filter (fun c => decide (c.1 < lo)) ++ SMap.canon d (new.filter fun c => decide (lo ≤ c.1) && decide (c.1 < hi)) ++
    m.filter (fun c => decide (lo ≤ c.1) && decide (hi ≤ c.1))

/-- A byte memory. -/
abbrev Memory := List Host.Cell

/-- What a byte reads as that nothing has written.  DESIGN CHOICE (log 1): the spec gives no reset
contents for any memory; the model reads zero. -/
def Memory.blank : Byte := 0

/-- One byte of a memory. -/
def Memory.byte (m : Memory) (a : Nat) : Byte := SMap.get Memory.blank m a

/-- The memory with one byte written. -/
def Memory.setByte (m : Memory) (a : Nat) (b : Byte) : Memory := SMap.set Memory.blank m a b

/-- The canonical form of a memory. -/
def Memory.wf (m : Memory) : Bool := SMap.wf Memory.blank m

/-- `n` bytes from address `a`, the lowest address least significant (00 R3). -/
def Memory.read (m : Memory) (a : Nat) : Nat → Nat
  | 0 => 0
  | n + 1 => (m.byte a).toNat + 256 * Memory.read m (a + 1) n

/-- `n` bytes of `x` written from address `a`, the least significant at the lowest address (00 R3). -/
def Memory.write (m : Memory) (a : Nat) (x : Nat) : Nat → Memory
  | 0 => m
  | n + 1 => Memory.write (m.setByte a (BitVec.ofNat 8 x)) (a + 1) (x / 256) n

/-- Bit `i` of a number. -/
def bitAt (x i : Nat) : Bool := x / 2 ^ i % 2 == 1

/-- The `n`-bit field of a number whose lowest bit is bit `lo`. -/
def field (x lo n : Nat) : Nat := x / 2 ^ lo % 2 ^ n

/-- A number with its `n`-bit field at bit `lo` replaced. -/
def setField (x lo n v : Nat) : Nat :=
  x / 2 ^ (lo + n) * 2 ^ (lo + n) + v % 2 ^ n * 2 ^ lo + x % 2 ^ lo

/-- The `n`-bit two's complement reading of a number. -/
def signed (n x : Nat) : Int :=
  let y := x % 2 ^ n
  if y < 2 ^ (n - 1) then (y : Int) else (y : Int) - 2 ^ n

/-- An integer reduced to `n` bits of two's complement. -/
def unsignedOf (n : Nat) (x : Int) : Nat := (x % ((2 ^ n : Nat) : Int)).toNat

/-- The least multiple of `b` at or above `a`, divided by `b`. -/
def ceilDiv (a b : Nat) : Nat := (a + b - 1) / b

/-- `x` put before the first element whose key is not smaller. -/
def insertBy {α : Type} (key : α → Nat) (x : α) : List α → List α
  | [] => [x]
  | y :: r => if key y < key x then y :: insertBy key x r else x :: y :: r

/-- A list sorted by a key, equal keys kept in order. -/
def sortBy {α : Type} (key : α → Nat) : List α → List α
  | [] => []
  | x :: r => insertBy key x (sortBy key r)

/-- The mixing function of 02 R28. -/
def mix (s : Word) (k : Nat) : Word :=
  let x := s + BitVec.ofNat 64 (k * 0x9E3779B97F4A7C15)
  let x := (x ^^^ (x >>> 30)) * 0xBF58476D1CE4E5B9#64
  let x := (x ^^^ (x >>> 27)) * 0x94D049BB133111EB#64
  x ^^^ (x >>> 31)

end Sys2Proof.Machine
end

