-- ==== Sys2Proof/Machine/Types.lean ====
section
/-!
DEFINITION. The pieces of state of one core and of its two context banks, as plain data.  Every field's
default value is its reset value; notes/assumptions/2.md names the ones the spec does not state.
-/
namespace Sys2Proof.Machine

/-- The lanes of a v register (keys 0-63) or the elements of a tile (keys 64 row + column). -/
abbrev Words := SMap Lane

/-- The four clock domains of a core (01 R16). -/
inductive Dom where
  | ctl | mat | vec | cpy
  deriving DecidableEq, Repr

/-- One domain's clock: domain cycles passed, reference cycles into the present one, and the length of a
domain cycle in reference cycles (divisor times stretch, 19 R306). -/
structure Clock where
  cycles : Nat := 0
  phase : Nat := 0
  per : Nat := 1
  deriving DecidableEq, Repr

/-- A hardware loop (06 R144, 22 R354): count, start and end addresses. -/
structure Loop where
  count : Nat := 0
  start : Nat := 0
  stop : Nat := 0
  deriving DecidableEq, Repr

/-- What a result writes when it lands (06 R139): a register with its new value. -/
inductive RegWrite where
  | g (r : Nat) (x : Word)
  | p (r : Nat) (b : Bool)
  | a (r : Nat) (x : BitVec 128)
  /-- A v register: the new lanes, the lanes written (mask) and the tag. -/
  | v (r : Nat) (x : Words) (mask : Word) (tag : Nat)
  | vm (r : Nat) (x : Word)
  | m (r : Nat) (x : Word)
  | lc (r : Nat) (l : Loop)
  deriving DecidableEq, Repr

/-- A map version of a batch group: STEP, the cycle of its publication, its bytes (03 R63). -/
structure MapVersion where
  grp : Nat
  step : Nat
  published : Nat
  map : Memory
  deriving DecidableEq, Repr

/-- An exposed-latency result in flight (06 R139, R140), or an entry of the replay buffer (15 R261). -/
structure Result where
  write : RegWrite
  dom : Dom
  /-- The domain cycle in which it lands; in the replay buffer, the cycles from the resume bundle. -/
  due : Nat
  /-- Address of the issuing bundle. -/
  bundle : Nat
  /-- Draining order within a bundle (15 R259): C, A0, A1, V0, V1, M, X, S. -/
  rank : Nat
  /-- Number of the issuing bundle among all bundles of the core. -/
  seq : Nat
  /-- Flags in FFLAGS order (05 R116). -/
  flags : Nat := 0
  /-- A signalling-NaN operand under FMODE.SNT = 1 (05 R121). -/
  snan : Bool := false
  /-- The trap enables in force at issue, FMODE.TE (05 R110). -/
  enables : Nat := 0
  /-- A header read that acquires a map version when it lands (03 R64). -/
  acquire : Option MapVersion := none
  deriving DecidableEq, Repr

/-- A storage space of the machine (04). -/
inductive Space where
  | hbm
  | host (fn : Nat) (pasid : Nat)
  | wstore (die : Nat)
  | spad (core : Nat)
  | acc
  | wbuf
  /-- The batch map of a group, version as acquired (03 R63). -/
  | map (grp : Nat)
  deriving DecidableEq, Repr

/-- A byte place: a space and an address in it. -/
structure Loc where
  space : Space
  addr : Nat
  deriving DecidableEq, Repr

/-- An edge of the strandline (12 R235, R239): its number in its die's edge buffer, the producer's arrival
time, the cycles waited, and the fields of its ring entry. -/
structure Edge where
  die : Nat := 0
  num : Nat := 0
  time : Nat
  len : Nat := 0
  port : Nat := 0
  event : Nat
  waiter : Nat
  pkind : Nat
  pid : Nat
  l : Nat
  deriving DecidableEq, Repr

/-- A path of the strandline (12 R234): its length `l` at reference cycle `at'`, from which it grows by one
a cycle, and its chain of adopted edges, oldest first. -/
structure Path where
  l : Nat := 0
  at' : Nat := 0
  chain : List Edge := []
  deriving DecidableEq, Repr

/-- The last completion of a class of operations (12 R235): its time, path and producer. -/
structure Completion where
  at' : Nat := 0
  path : Path := {}
  pkind : Nat := 6
  pid : Nat := 0
  deriving DecidableEq, Repr

/-- A hold that an issued instruction puts before the next bundle: WAIT's bounds (06 R142), a DRAIN's variant and
scope (10 R206, R207), a barrier's release (12 R222), the DRAIN.ACQ after it, TEND's own hold (25 R396), a CLKDIV's fields (19 R307). -/
inductive After where
  | wait (l s c t : Nat)
  | drain (v scope : Nat)
  | bar (b : Nat)
  | acq
  | tend
  | clkdiv (x : Nat)
  deriving DecidableEq, Repr

/-- A task's last arrival at a barrier (12 R222): its generation, whether the release has reached this core,
and the last arriver. -/
structure Arrived where
  barrier : Nat
  gen : Nat
  released : Bool := false
  last : Completion := {}
  deriving DecidableEq, Repr

/-- What kind of tensor an id names (04 R73). -/
inductive TensorKind where
  | table
  | batchMap (grp : Nat)
  | cache (grp : Nat)
  | spad | acc | wstore | wbuf
  deriving DecidableEq, Repr

/-- A tensor descriptor as read and checked (04 R75), or the fixed descriptor of a reserved id. -/
structure Desc where
  kind : TensorKind := .table
  ext0 : Nat := 1
  ext1 : Nat := 1
  ext2 : Nat := 1
  ext3 : Nat := 1
  base : Nat := 0
  tag : Nat := 0
  ndim : Nat := 0
  layout : Nat := 0
  rd : Bool := true
  wr : Bool := true
  at' : Bool := false
  sw : Bool := false
  loc : Nat := 0
  twl : Nat := 0
  thl : Nat := 0
  nspan : Nat := 0
  boff : Nat := 0
  aux : Nat := 0
  deriving DecidableEq, Repr

/-- A span entry as cached or pinned: the tensor, the entry's index, the storage it starts at, its raw
word (04 R81). -/
structure SpanEntry where
  tid : Nat
  idx : Nat
  start : Nat
  raw : Nat
  /-- In an answer that the host's translation failed (15 R269): the I/O virtual address. -/
  iova : Option Nat := none
  deriving DecidableEq, Repr

/-- A touch window (15 R264): when it opened, its region, the issue cycle it ends at, the pinned entries and, for host
memory, the pages' translations: (I/O virtual page, host page). -/
structure Window where
  tid : Nat
  opened : Nat := 0
  pages : List (Nat × Nat) := []
  c0 : Nat
  c1 : Nat
  c2 : Nat
  c3 : Nat
  cols : Nat
  rows : Nat
  ends : Nat
  spans : List SpanEntry
  deriving DecidableEq, Repr

/-- The kinds of accesses the decoupled queues hold (06 R141). -/
inductive AccKind where
  | load | gather | store | scatter
  | atomAdd | atomMin | atomMax | atomCas
  | qpop | qpush
  | row
  /-- A RECV line on the retry ring (20 R327). -/
  | recvLine
  deriving DecidableEq, Repr

/-- An in-range, unmasked element of an access: its index in the register, its storage offset (with the
nibble of an E2M1 element), and where it lies once translated. -/
structure Elt where
  idx : Nat
  off : Nat
  nib : Nat := 0
  loc : Option Loc := none
  /-- Of an element across a boundary of frames or host pages: its bytes before the boundary and the place of the rest. -/
  rest : Option (Nat × Loc) := none
  deriving DecidableEq, Repr

/-- An entry of the load or the store queues (06 R141). -/
structure Access where
  seq : Nat := 0
  kind : AccKind
  bundle : Nat := 0
  slot : Nat := 0
  /-- Draining rank of the slot (15 R259). -/
  rank : Nat := 1
  /-- Number of the issuing bundle, for release ordering (10). -/
  issue : Nat := 0
  areg : BitVec 128
  tid : Nat
  desc : Desc
  elems : List Elt
  /-- Elements of the reply. -/
  count : Nat := 64
  data : Words := []
  data2 : Words := []
  /-- Performed in bundle order in the core's own memories (10 R200). -/
  isLocal : Bool := false
  /-- Held on or behind the retry ring (15 R269). -/
  held : Bool := false
  reserved : Bool := false
  reply : Option Words := none
  /-- The reply has returned; that of the core's own memories is on its way for eight cycles (06 R140). -/
  ready : Bool := true
  err : Bool := false
  /-- The starter's path at issue; of a served pop, the push's (12 R234, R235), with its arrival time. -/
  path : Path := {}
  producer : Option (Nat × Nat × Path × Nat × Nat) := none
  /-- Not the last of its operation: rows of a TSTT still to come (25 R405), a line of a RECV (20 R327). -/
  more : Bool := false
  /-- A QPUSH that its queue's port holds behind a full queue (23 R367). -/
  waiting : Bool := false
  /-- A QPOP whose reply has waited 2^20 reference cycles (12 R226). -/
  late : Bool := false
  deriving DecidableEq, Repr

/-- A reply in the LDQ (06 R141). -/
structure LdqEntry where
  seq : Nat
  data : Words
  tag : Nat
  err : Bool := false
  /-- A QPOP reply or a reply from a completion-flag line (12 R235, R236): event, arrival time, path, PKIND
  and PID of the producer. -/
  producer : Option (Nat × Nat × Path × Nat × Nat) := none
  deriving DecidableEq, Repr

/-- A retry-ring entry's machine-side record (15 R269, R270); its 64 bytes stand in HBM. -/
structure RingEntry where
  idx : Nat
  seq : Nat
  store : Bool
  done : Bool := false
  deriving DecidableEq, Repr

/-- A storage range of a tensor: the descriptor and the byte offset of its first byte, none when the
named element is out of range (21 R347). -/
structure Range where
  tid : Nat
  desc : Desc
  off : Option Nat
  deriving DecidableEq, Repr

/-- Where a copy came from (04 R92). -/
inductive CopyKind where
  | program | fetcher | prefetch | copyAdd
  deriving DecidableEq, Repr

/-- A transfer queued on a copy channel (04 R93). -/
structure Transfer where
  id : Nat
  kind : CopyKind
  bank : Nat
  bundle : Nat
  issue : Nat
  src : Range
  dst : Range
  len : Nat
  written : Nat := 0
  srcA : BitVec 128 := 0
  dstA : BitVec 128 := 0
  /-- 1: stopped at a non-resident sector (15 R268); 2: at a soft error (04 R100); each awaits a TRET.  3: the
  sector is read once more after a soft error. -/
  stopped : Nat := 0
  /-- Reference cycles for which its sector has waited for an operand fetch (08 R191). -/
  waited : Nat := 0
  /-- Of an operand's E2M1 tile: the tensor of its scales (04 R76). -/
  aux : Desc := {}
  path : Path := {}
  deriving DecidableEq, Repr

/-- One copy channel (04 R92-R94). -/
structure Channel where
  next : Word := 0
  mark : Word := 0
  queue : List Transfer := []
  /-- Completed transfers: identifier, time and path (12 R235). -/
  past : List (Nat × Nat × Path) := []
  deriving DecidableEq, Repr

/-- A candidate register file row (17 R286): ranked (value, index) pairs, the running softmax pair, the
binding to a slot and RQID. -/
structure CrfRow where
  entries : List (Nat × Nat) := []
  m : Nat := 0xFF800000
  sum : Nat := 0
  bound : Option (Nat × Nat) := none
  deriving DecidableEq, Repr

/-- A trap that has become due and has not been delivered (15 R259, R260). -/
structure TrapReq where
  cause : Nat
  tval : Word := 0
  /-- Order among the traps of one bundle (06 R132). -/
  cls : Nat := 6
  rank : Nat := 0
  /-- Number of the issuing bundle: pending traps are taken in draining order (15 R259). -/
  seq : Nat := 0
  ring : Bool := false
  /-- TPC, where it is not the bundle at which the trap is taken: that of a pushed access (15 R258). -/
  tpc : Option Nat := none
  /-- Of an exception of the arithmetic: the reference cycle in which its result would commit (05 R120). -/
  fp : Option Nat := none
  /-- The fault record to write before the trap is taken: its bytes from offset 0 (15 R266). -/
  record : Option (List (Nat × Nat)) := none
  /-- The I/O virtual address whose page is requested of the host with the record (15 R266, 20 R313). -/
  request : Option Nat := none
  deriving DecidableEq, Repr

/-- The system registers of a context (06 R145); defaults are the reset columns of their maps. -/
structure SysRegs where
  fmode : Word := 0x190000
  fflags : Word := 0
  sig : Word := 0
  mxnv : Word := 0
  mxof : Word := 0
  rsd : Word := 0
  itc : Word := 0
  itl : Word := 64
  atol : Word := 0
  rtol : Word := 0x3727C5AC
  beta : Word := 0x3F800000
  ahd : Word := 0
  ahl : Word := 0
  ahc : SMap Word := []
  rxlive : Word := 0
  rxpol : Word := 0
  rxnrm : Word := 0
  slbase : Word := 0
  slctl : Word := 0
  limit : Nat := 0xFFF
  tcause : Word := 0
  tpc : Word := 0
  tval : Word := 0
  tvec : Word := 0
  frec : Word := 0
  retryh : Word := 0
  missc : Word := 0
  prew : Word := 20000
  killt : Word := 16
  ttbase : Word := 0
  wid : Word := 0
  lseed : Word := 0
  taskix : Word := 0
  bgrp : Word := 0xFF
  rqcur : Word := 0
  svoc : Word := 0xFFFFFFFF
  sctrim : Word := 0
  sstat : Word := 0
  deriving DecidableEq, Repr

/-- The random-bit queue (05 R115): words held, next word's number, and the key K. -/
structure Rbq where
  held : Nat := 8
  next : Nat := 0
  key : Word := 0
  deriving DecidableEq, Repr

/-- What a context bank holds (02 R37, 15 R257 CTXB.OTHER): nothing, a pre-loaded task, supervisor code,
or a task. -/
inductive BankUse where
  | empty | preloaded | supervisor | task
  deriving DecidableEq, Repr

/-- A part of a context a lazy restore has not fetched yet (15 R278). -/
inductive Part where
  | v (r : Nat) | tile (r : Nat) | spad (blk : Nat) | wbuf (blk : Nat) | crf | micro
  deriving DecidableEq, Repr

/-- One context bank (02 R37, 06 R129). -/
structure Bank where
  id : Nat := 0
  use : BankUse := .empty
  g : SMap Word := []
  p : SMap Bool := []
  a : SMap (BitVec 128) := []
  v : SMap Words := []
  vtag : SMap Nat := []
  vm : SMap Word := []
  t : SMap Words := []
  ttag : SMap Nat := []
  m : SMap Word := []
  lc : SMap Loop := []
  pc : Nat := 0
  /-- Empty cycles still to pass after a taken transfer (06 R144). -/
  bubbles : Nat := 0
  /-- Issue cycles since ENTRY (02 R40). -/
  issues : Nat := 0
  /-- For each predicate, one more than the issue cycle of its last write; 0 is long before (02 R48). -/
  pw : SMap Nat := []
  /-- One more than the issue cycle of the last resume; 0 when there was none (02 R48). -/
  resumed : Nat := 0
  sys : SysRegs := {}
  inflight : List Result := []
  replay : List Result := []
  laq : List Access := []
  ldq : List LdqEntry := []
  stq : List Access := []
  /-- The four outstanding-operation counters (06 R141). -/
  loads : Nat := 0
  stores : Nat := 0
  copies : Nat := 0
  tiles : Nat := 0
  pushes : Nat := 0
  windows : List Window := []
  descs : SMap Desc := []
  spans : List SpanEntry := []
  ring : List RingEntry := []
  pending : List TrapReq := []
  /-- The trap that the other bank's handler is serving: a pre-emption delivers it afresh (15 R277). -/
  handled : Option TrapReq := none
  rbq : Rbq := {}
  crf : SMap CrfRow := []
  phase : Nat := 0
  /-- The task's last arrival at each barrier (12 R222). -/
  arrived : List Arrived := []
  /-- A hold before the next bundle, and the number of the bundle that put it there. -/
  after : Option (After × Nat) := none
  absent : List Part := []
  /-- Flags and matrix counts that commit in this cycle: they merge after the cycle's bundle (05 R118). -/
  lateFlags : Nat := 0
  lateNv : Nat := 0
  lateOv : Nat := 0
  /-- A change of SIG awaits its digest (05 R111). -/
  sigBusy : Bool := false
  /-- The task has executed TRIG (25 R403); the number of its bundle until what it releases has performed. -/
  trig : Bool := false
  trigAt : Option Nat := none
  deriving DecidableEq, Repr

/-- An operand tile as fetched (08 R190, 04 R88): its format, the bits of its 64 rows of 64 elements, and for
E2M1 the scale byte and special byte (256 times it) of each row's two blocks. -/
structure TileData where
  tag : Nat
  elems : List Nat
  scales : List Nat := []
  /-- Held in a compressed form (04 R88). -/
  packed : Bool := false
  deriving DecidableEq, Repr

/-- An operand of a matrix operation: its handle and K offset, the X3 copy that brings it, and the tile once
it is there. -/
structure Operand where
  handle : Nat
  /-- Its entry in a directory, and its steps from a tensor's origin (08 R190). -/
  ko : Nat := 0
  jb : Nat := 0
  kb : Nat := 0
  id : Option Nat := none
  /-- Of one that a copy brings: its tensor and that of its scales, its format, and where in the staging area's ring it goes
  (08 R192).  The copy takes its identifier when X3 has room for it. -/
  desc : Option (Desc × Desc) := none
  tag : Nat := 0
  at' : Nat := 0
  /-- An uncorrectable error met its fetch (04 R100). -/
  failed : Bool := false
  /-- Of a tile in the core's own memories: each row's bytes, which later writes leave until it is read (08 R191); the
  matrix-domain cycle its use begins at, and the beats of that use. -/
  bytes : List (Nat × Loc × Nat) := []
  start : Nat := 0
  beats : Nat := 1
  tile : Option TileData := none
  deriving DecidableEq, Repr

/-- A matrix operation in flight (06 R140, 08): an MMA, or an MCALL with its routine's micro-ops. -/
structure MatOp where
  bank : Nat
  bundle : Nat
  seq : Nat
  /-- An MCALL, with the micro-ops still to run. -/
  routine : Bool := false
  todo : List Instr := []
  base : Nat := 0
  /-- A library routine whose scratch tiles the spec leaves open (log 12). -/
  library : Nat := 0
  ms : List Nat := []
  fmode : Word := 0
  /-- Rows that take part. -/
  mask : List Bool := []
  /-- For ragged rows: the slots that took part at its issue (03 R65, 22 R357). -/
  live : List Bool := []
  rcont : Bool := false
  /-- The tiles it will write, with the matrix-domain cycle of each write. -/
  dests : List (Nat × Nat)
  /-- Tiles whose writes wait until it completes (08 R193). -/
  reads : List Nat := []
  due : Nat
  /-- Tiles as the operation sees them before it writes: read at its issue. -/
  snap : List (Nat × Words × Nat) := []
  /-- New contents and tag of each tile written. -/
  results : List (Nat × Words × Nat) := []
  nv : Nat := 0
  ov : Nat := 0
  flags : Nat := 0
  snan : Bool := false
  /-- An abandoned routine's or operand's trap (08 R187, R196, 04 R100). -/
  error : Option TrapReq := none
  /-- Operands still to come (08 R186). -/
  fetching : Bool := false
  operands : List Operand := []
  path : Path := {}
  deriving DecidableEq, Repr

/-- Rows still to move at scheduled matrix-domain cycles: COPYADD, TLDT or TSTT (21 R348, 25 R400, R405). -/
inductive RowKind where
  | copyAdd | load | store
  deriving DecidableEq, Repr

/-- A row sequence in progress. -/
structure RowOp where
  kind : RowKind
  bank : Nat
  bundle : Nat
  slot : Nat
  seq : Nat
  issue : Nat := 0
  tile : Nat
  /-- Matrix-domain cycle of the next row; relative to the stopping point while its bank is stopped. -/
  next : Nat
  row : Nat := 0
  paused : Bool := false
  /-- The reference cycle from which its rows are read: its issue's, or that of its resume (04 R87, 21 R348). -/
  since : Nat := 0
  /-- As a transfer's: 1 stopped at an absent page, 2 at a soft error; 3 the row is read once more (15 R268, 04 R100). -/
  stopped : Nat := 0
  /-- Bytes that a store of its own bundle has replaced since, as its rows read them (10 R201, 04 R87). -/
  old : List (Loc × Byte) := []
  src : Range
  areg : BitVec 128
  chan : Nat := 0
  id : Nat := 0
  fmode : Word := 0
  spans : List SpanEntry := []
  path : Path := {}
  deriving DecidableEq, Repr

/-- One row of a running relaxation, live at its issue (07 R159-R164). -/
structure RelaxRow where
  row : Nat
  /-- ST of the row table (07 R162): 1 live, 2 slack, 3 and 4 contained. -/
  st : Nat := 1
  iter : Nat := 0
  rho : Nat := 0
  fb : Bool := false
  hist : Nat := 0
  /-- Whether the row iterated in the iteration before. -/
  ran : Bool := false
  /-- The state on this core, and y of its last iteration (empty before one). -/
  z : List Nat := []
  y : List Nat := []
  /-- Elements whose computation met an invalid operation, an overflow; the flags of the row. -/
  nv : List Nat := []
  ov : List Nat := []
  flags : Nat := 0
  /-- Elements that a checkpoint's commit has counted already (07 R174). -/
  past : Nat × Nat := (0, 0)
  deriving DecidableEq, Repr

/-- A relaxation holding the array (07 R159-R183). -/
structure RelaxRun where
  bank : Nat
  bundle : Nat
  seq : Nat
  back : Bool
  tz : Nat
  tu : Nat
  mw : Nat
  f : Nat
  sv : Bool
  /-- The parameter word (07 R153). -/
  par : Nat
  handle : Nat
  fmode : Word
  itl : Nat
  atol : Nat
  rtol : Nat
  beta : Nat
  ahd : Nat
  ahl : Nat
  pol : Bool
  nrm : Bool
  rows : List RelaxRow := []
  passes : Nat := 0
  /-- The cores of the group that relax together, in position order; one alone without SPAN. -/
  cores : List Nat := []
  /-- Started: in a spanning group, once the last core's instruction has issued (07 R178). -/
  started : Bool := false
  /-- The tiles of W in the order (jb, kb), as fetched. -/
  operands : List Operand := []
  /-- 0 between iterations, 1 within one, 2 finishing. -/
  phase : Nat := 0
  /-- The part under way and those to follow it, in domain cycles; the cycle of its domain at which the part began, on this
  core (07 R179). -/
  parts : List (Dom × Nat) := []
  began : Nat := 0
  /-- W is streamed from the weight store (04 R90). -/
  stream : Bool := false
  /-- Rows as the passes hold them since issue or the last repack (07 R163). -/
  packed : List Nat := []
  /-- Reference cycle of its issue (07 R178). -/
  issued : Nat := 0
  /-- Tiles that completion writes, and the cycles in which their banks have been free for it (07 R166). -/
  out : List Nat := []
  wrote : Nat := 0
  /-- Slots whose breakwater bits had cleared when the core acquired another map (07 R167). -/
  cleared : List Nat := []
  /-- A trap to raise at completion, and whether the results are written. -/
  trap : Option TrapReq := none
  write : Bool := true
  path : Path := {}
  /-- A checkpoint stops it: finishing at the end of an iteration, and stopped (07 R174). -/
  pausing : Bool := false
  paused : Bool := false
  deriving DecidableEq, Repr

/-- A pre-emption of a core's group (02 R36): a kill or a checkpoint, bits 47:0 of the newcomer's TAG, and whether
the core has stopped for it. -/
structure Preempt where
  kill : Bool
  tag : Nat
  stopped : Bool := false
  deriving DecidableEq, Repr

/-- An event due at a cycle of one of the core's domains. -/
structure Due where
  dom : Dom
  cycle : Nat
  seq : Nat
  event : Instr
  deriving DecidableEq, Repr

/-- A tile of the staging area that MPREF began (08 R192): not yet used. -/
structure Staged where
  handle : Nat
  bank : Nat
  id : Nat
  /-- Its format, where in the staging area's ring it stands, and whether an uncorrectable error met its copy (04 R100). -/
  tag : Nat := 0
  at' : Nat := 0
  failed : Bool := false
  tile : Option TileData := none
  deriving DecidableEq, Repr

/-- What the slots of the bundle being issued know of it: positions, words, addresses (06 R130). -/
structure Cur where
  pos : Nat := 0
  rank : Nat := 0
  words : List Nat := []
  /-- The bundle issued next if no trap intervenes, and whether a taken transfer chose it (06 R144). -/
  npc : Nat := 0
  taken : Bool := false
  /-- The bundle after this one in address order. -/
  follow : Nat := 0
  /-- What this bundle stores to: places and bytes (10 R201). -/
  stored : List (Loc × Nat) := []
  /-- Whether a remote access of this bundle was pushed before. -/
  banks : List Nat := []
  /-- The RBQ word this bundle popped (05 R114). -/
  rbqWord : Option Nat := none
  deriving DecidableEq, Repr

/-- The later of two A slots that met in a scratchpad bank: it performs in the control-domain cycle after its bundle's
(04 R84), with what it knew of its bundle. -/
structure LateSlot where
  instr : Instr
  cur : Cur
  pc : Nat
  seq : Nat
  deriving DecidableEq, Repr

/-- A SEND under way (23 R383): its peer, source and length in lines, the lines read so far, and those the
peer's receive queue has yet to take. -/
structure SendOp where
  id : Nat
  bank : Nat
  bundle : Nat
  issue : Nat
  peer : Nat
  src : Range
  areg : BitVec 128
  lines : Nat
  read : Nat := 0
  placed : Nat := 0
  stopped : Bool := false
  stime : Nat := 0
  path : Nat := 0
  deriving DecidableEq, Repr

/-- A RECV that writes its lines (23 R369): the lines on the retry ring that have not performed, and how many
lines of the peer stay in the receive queue for them (20 R327). -/
structure RecvOp where
  id : Nat
  bank : Nat
  issue : Nat
  peer : Nat
  waits : List Nat := []
  kept : Nat := 0
  path : Path := {}
  deriving DecidableEq, Repr

/-- Where the executing task came from (02 R26-R39). -/
structure Task where
  launch : Nat := 0
  k : Nat := 0
  /-- First core of the group and its size. -/
  first : Nat := 0
  size : Nat := 1
  index : Nat := 0
  ntask : Nat := 1
  image : Nat := 0
  imlen : Nat := 0
  bc : Bool := false
  det : Bool := false
  prio : Nat := 0
  tokens : Nat := 0
  fn : Nat := 0
  pasid : Nat := 0
  pv : Bool := false
  ctx : Nat := 0
  diag : Bool := false
  ckpt : Bool := false
  idem : Bool := false
  est : Nat := 0
  tag : Nat := 0
  /-- Reference cycle of the first bundle. -/
  began : Nat := 0
  fw : List Nat := []
  deriving DecidableEq, Repr

/-- A stamp of a die's stamp store (12 R230). -/
structure Stamp where
  die : Nat
  block : Nat
  launch : Nat
  phase : Nat
  mode : Nat
  task : Nat
  deriving DecidableEq, Repr

/-- A read of memory that a held bundle waits for, once returned: what it was for, and its bytes. -/
structure Fetched where
  what : Nat
  addr : Nat
  data : Nat
  deriving DecidableEq, Repr

end Sys2Proof.Machine
end

