-- ==== Sys2Proof/Machine/Units.lean ====
section
/-!
DEFINITION. The units of a die and of the package, as plain data: dispatcher, batch groups, barriers,
stack engines, work queues, peers, the Eweral controller and the mailboxes to the outside.
-/
namespace Sys2Proof.Machine

/-- An event of the calendar: the reference cycle it is due at, and the event. -/
structure Sched where
  at' : Nat
  event : Instr
  deriving DecidableEq, Repr

/-- A request record in its batch slot (03 R52, R53): its index in the table, its admission sequence, and
its 64 words. -/
structure Seat where
  idx : Nat
  seq : Nat := 0
  words : SMap Nat := []
  deriving DecidableEq, Repr

/-- A write to the record cache (03 R70): slot and expected RQID, the words changed (index, mask, value),
whether it is a first fault code, which a code already present keeps out, and whether it marks a resume. -/
structure RecWrite where
  slot : Nat
  rqid : Nat
  words : List (Nat × Nat × Nat) := []
  first : Bool := false
  resume : Bool := false
  deriving DecidableEq, Repr

/-- A boundary in progress (03 R60): the descriptor as read at its start, and the ring index of its step's
end entry. -/
structure Boundary where
  desc : Nat
  slring : Nat := 0
  /-- The publication has taken its time for slots whose occupants change (03 R60). -/
  late : Bool := false
  deriving DecidableEq, Repr

/-- A batch group (03 R57-R63).  The descriptor fields are those of the last boundary that found every
field in range; before the first, `seen` is false and the cache tensor has extents 0 (R67). -/
structure Group where
  seen : Bool := false
  nslot : Nat := 0
  dstep : Nat := 0
  tpp : Nat := 0
  pchunk : Nat := 0
  pbud : Nat := 0
  maxpg : Nat := 0
  rcont : Bool := false
  step : Nat := 0
  /-- Reference cycle of the last publication (12 R234). -/
  published : Nat := 0
  admseq : Nat := 0
  /-- Record index and stream number of each waiting request. -/
  waiting : List (Nat × Nat) := []
  slots : SMap (Option Seat) := []
  resumes : List Nat := []
  map : Memory := []
  boundary : Option Boundary := none
  held : List RecWrite := []
  deriving DecidableEq, Repr

/-- A breakwater clear that the other cores of a launch take over 256 reference cycles later (03 R66). -/
structure Clear where
  launch : Nat
  slot : Nat
  at' : Nat
  /-- STEP of the faulting core's map. -/
  step : Nat := 0
  deriving DecidableEq, Repr

/-- A page of the host's I/O translation, under a function and, where PV is set, a PASID: the I/O virtual
page and the host page (4 KiB) (04 R81, 20 R313). -/
structure HostPage where
  fn : Nat
  pasid : Option Nat
  iova : Nat
  page : Nat
  deriving DecidableEq, Repr

/-- A line driven onto a cluster's broadcast bus (04 R95, R96): the bus cycles since, the sender, its bytes. -/
structure BusLine where
  cluster : Nat
  age : Nat := 0
  core : Nat
  data : Nat
  deriving DecidableEq, Repr

/-- The Eweral controller and the plant it reads (19): the cryogenic state machine, the band and what follows
it, and the package's clocks.  Before the first reading the sensors stand at 294 K (log 2). -/
structure Cryo where
  state : Nat := 0
  prev : Nat := 0
  hreas : Nat := 0
  /-- Warm mode (R300). -/
  wm : Bool := false
  /-- Every clock of the package stopped (R312). -/
  frozen : Bool := false
  /-- The dies released from reset (01 R17). -/
  released : Bool := false
  /-- Enclosure vacuum within limit. -/
  vacuum : Bool := true
  band : Nat := 4
  chg : Nat := 0
  /-- The band whose refresh rules are in force (R302, R303). -/
  rband : Nat := 4
  /-- Warmest reading of each zone, in 1/64 K. -/
  temps : List Nat := [18816, 18816, 18816, 18816]
  floor : Nat := 8
  valves : List Nat := [0, 0, 0, 0]
  /-- The timing set in force is neap (R302). -/
  neap : Bool := false
  /-- A timing switch: the unit it is at, stacks 0-11 then weight stores 12-15, and its target (R304). -/
  switch : Option (Nat × Bool) := none
  /-- Warm mode is ending, or the module is warming: no placement (R298, R300). -/
  closing : Bool := false
  /-- A freeze that waits for a unit's timing switch (R312); the SEQ of a WARMRUN that trains (R300). -/
  freezing : Bool := false
  warmReq : Option Nat := none
  deriving DecidableEq, Repr

/-- The IEEE 1588 servo's map from die 0's reference count (20 R321): time `ns` at reference cycle `at'`, and
the rate, `num` nanoseconds for `den` reference cycles. -/
structure Ptp where
  ns : Nat := 0
  at' : Nat := 0
  num : Nat := 2
  den : Nat := 5
  /-- No time transmitter heard for 10 s. -/
  holdover : Bool := false
  deriving DecidableEq, Repr

/-! ### Barriers and queues (12 R220-R227) -/

/-- An arrival at an open generation: the core, the task, its path and its time. -/
structure Arrival where
  core : Nat
  task : Nat
  at' : Nat
  path : Path
  deriving DecidableEq, Repr

/-- A barrier of a launch: the open generation, the participant count its first arrival fixed, its arrivals,
and the last arrivers of the generations released, newest first. -/
structure Barrier where
  launch : Nat
  num : Nat
  gen : Nat := 0
  n : Nat := 0
  arrivals : List Arrival := []
  /-- A missing arrival of the open generation has been entered in the ring (12 R224). -/
  reported : Bool := false
  past : List (Nat × Completion) := []
  deriving DecidableEq, Repr

/-- A push or a pop that waits at a queue's port, in arrival order (12 R226): the header's address; its turn has come. -/
structure QueueWait where
  addr : Nat
  push : Bool
  core : Nat
  bank : Nat
  seq : Nat
  woken : Bool := false
  deriving DecidableEq, Repr

/-- A write of WSCTL that has not taken effect (04 R89): the die, the writer, the value, the reference cycle. -/
structure WenWrite where
  die : Nat
  core : Nat
  wen : Bool
  at' : Nat
  deriving DecidableEq, Repr

/-- An entry that stands in a queue: who pushed it, when, on which path (12 R235). -/
structure QueueMark where
  addr : Nat
  idx : Nat
  done : Completion
  deriving DecidableEq, Repr

/-! ### Stack engines (13) -/

/-- An operand of a parameter block (13 R243): the block's offset that names it, the tensor and C. -/
structure EngineRef where
  off : Nat
  tid : Nat
  desc : Desc
  coord : Nat
  deriving DecidableEq, Repr

/-- A command in a stack engine's queue (13 R245): 0 BDRED, 1 BDIDX, 2 BDTOPK; its parameter block with BDIDX's
command lines, its operands, the span entries pinned at issue, and what a BDIDX counts in its table. -/
structure EngineCmd where
  kind : Nat
  block : Nat
  refs : List EngineRef
  spans : List SpanEntry := []
  core : Nat
  path : Path
  lines : Nat := 1
  deriving DecidableEq, Repr

/-- A stack engine: its queue, the head of which is the command at work once `busy`. -/
structure Engine where
  queue : List EngineCmd := []
  busy : Bool := false
  deriving DecidableEq, Repr

/-- A completion-flag line an engine remembers (12 R236, 13 R432). -/
structure FlagLine where
  stack : Nat
  addr : Nat
  at' : Nat
  path : Path
  deriving DecidableEq, Repr

/-! ### The dispatcher (02 R22-R39, 20 R315-R318) -/

/-- A context template (02 R39); its defaults are those of a queue whose CTX is 0. -/
structure Template where
  tvec : Nat := 0
  ttbase : Nat := 0
  carea : Nat := 0
  slbase : Nat := 0
  slctl : Nat := 0
  limit : Nat := 0xFFF
  prew : Nat := 20000
  killt : Nat := 16
  deriving DecidableEq, Repr

/-- Where a spawned launch's completion entry goes (24 R389). -/
structure Dest where
  tid : Nat
  desc : Desc
  off : Nat
  deriving DecidableEq, Repr

/-- Where a launch came from: a work queue, or a SPAWN with its completion entry. -/
inductive Origin where
  | queue (q : Nat)
  | spawn (d : Option Dest)
  deriving DecidableEq, Repr

/-- What a launch takes from where it came from (02 R35, R39, 20 R315). -/
structure Source where
  origin : Origin
  /-- Die whose dispatcher received it (02 R29). -/
  die : Nat := 0
  fn : Nat := 0
  pasid : Nat := 0
  pv : Bool := false
  ctx : Nat := 0
  diag : Bool := false
  prio : Nat := 7
  tokens : Nat := 255
  deriving DecidableEq, Repr

/-- A launch that has arrived and not ended. -/
structure Launch where
  id : Nat
  src : Source
  tag : Nat
  image : Nat
  imlen : Nat
  entry : Nat
  ntask : Nat
  fmode : Nat
  fw : List Nat
  ext : List Nat
  ctrl : Nat
  tokens : Nat
  bgrp : Nat
  sbound : Nat
  est : Nat
  lseed : Nat
  deps : List Nat
  prio : Nat
  tmpl : Template := {}
  /-- Reference cycle from which its groups may be placed (01 R18). -/
  due : Nat := 0
  /-- Reference cycle from which it has been ready but unplaced, and the levels it has risen (02 R33). -/
  readyAt : Option Nat := none
  rise : Nat := 0
  /-- First group not placed or assigned yet; groups assigned or pre-empted that wait: (k, position); the
  position is 256 where any will do. -/
  next : Nat := 0
  waiting : List (Nat × Nat) := []
  /-- Tasks that have ended by TEND, that were terminated, and that count for the trigger (02 R34). -/
  ended : Nat := 0
  dead : Nat := 0
  trig : Nat := 0
  /-- A task was terminated without TRIG or TEND (02 R25). -/
  bad : Bool := false
  /-- Some task has started (02 R25). -/
  started : Bool := false
  deriving DecidableEq, Repr

def Launch.gsize (l : Launch) : Nat := match field l.ctrl 3 2 with
  | 0 => 1
  | 1 => 4
  | _ => 16
def Launch.det (l : Launch) : Bool := bitAt l.ctrl 5
def Launch.ckpt (l : Launch) : Bool := bitAt l.ctrl 6
def Launch.idem (l : Launch) : Bool := bitAt l.ctrl 7
def Launch.bc (l : Launch) : Bool := bitAt l.ctrl 8
/-- The launch has reached its trigger point (02 R34). -/
def Launch.triggered (l : Launch) : Bool := l.trig = l.ntask
/-- The level that governs its start order (02 R33). -/
def Launch.level (l : Launch) : Nat := min 7 (l.prio + l.rise)

/-- The record of a launch that has ended (02 R32): function, tag, status, whether it reached its trigger. -/
structure Ended where
  fn : Nat
  tag : Nat
  status : Nat
  trig : Bool
  deriving DecidableEq, Repr

/-- A record in a die's spawn queue (24 R391): its 128 bytes, the spawner's core, bank and bundle, which its
readiness waits for, and the reference cycle of its SPAWN. -/
structure Spawn where
  num : Nat
  words : Nat
  src : Source
  core : Nat
  bank : Nat
  issue : Nat
  at' : Nat := 0
  deriving DecidableEq, Repr

/-- A work queue's configuration entry (20 R316), and whether a failed ring read stopped it. -/
structure WorkQueue where
  rbase : Nat := 0
  cbase : Nat := 0
  ctx : Nat := 0
  logn : Nat := 0
  func : Nat := 0
  prio : Nat := 0
  flags : Nat := 0
  pasid : Nat := 0
  msix : Nat := 0
  head : Nat := 0
  tail : Nat := 0
  cdone : Nat := 0
  chead : Nat := 0
  err : Nat := 0
  stopped : Bool := false
  deriving DecidableEq, Repr

/-! ### Peers (20 R322-R327) -/

/-- A 256-byte line of a SEND, sent or received: its number, bytes, the SEND's time and path, its operation and
core, and the Ethernet port it came by. -/
structure PeerLine where
  seq : Nat
  data : Nat
  stime : Nat := 0
  path : Nat := 0
  core : Nat := 0
  op : Nat := 0
  port : Nat := 0
  /-- Of a line received: the reference cycle of its arrival. -/
  came : Nat := 0
  deriving DecidableEq, Repr

/-- The link with one peer. -/
structure Peer where
  /-- Next line number to give, lines not acknowledged (oldest first), how many of them are on the wire, and the
  number up to which the last credit covers. -/
  next : Nat := 0
  out : List PeerLine := []
  sent : Nat := 0
  credit : Nat := 1024
  resends : Nat := 0
  /-- Reference cycle of the last progress, for RTO. -/
  moved : Nat := 0
  down : Bool := false
  /-- Next line expected, the receive queue, data frames since the last acknowledgement. -/
  expect : Nat := 0
  queue : List PeerLine := []
  frames : Nat := 0
  deriving DecidableEq, Repr

/-- A frame sent to a peer (20 R323). -/
structure Frame where
  peer : Nat
  /-- Ethernet port, VLAN tag, destination MAC address and SENDER, of the peer's port-table entry. -/
  port : Nat := 0
  vlan : Nat := 0
  dmac : Nat := 0
  sender : Nat := 0
  kind : Nat
  seq : Nat
  stime : Nat := 0
  path : Nat := 0
  credit : Nat := 0
  lines : List Nat := []
  deriving DecidableEq, Repr

/-! ### The Eweral controller's messages and log (20 R319, R320) -/

/-- An MCTP request or its response (20 R320): command, sequence number, completion code, payload bytes. -/
structure Message where
  cmd : Nat := 0
  seq : Nat := 0
  code : Nat := 0
  payload : List Nat := []
  deriving DecidableEq, Repr

/-- An entry of the error log (20 R320). -/
structure LogEntry where
  time : Nat
  seqno : Nat
  kind : Nat
  unit : Nat
  detail : Nat
  deriving DecidableEq, Repr

end Sys2Proof.Machine
end

