-- ==== Sys2Proof/Machine/State.lean ====
section
/-!
DEFINITION. The state of the J77: the core whose step is being taken, the other cores, and the units of
the dies and of the package; the outcomes of a step that are no next state; and the state after reset.
-/
namespace Sys2Proof.Machine

/-- What stops the machine. -/
inductive Fault where
  /-- A hardware structure (a tensor table, a span table, a launch record, a save area) stands at an
  address no HBM stack or host page has (01 R12, 04 R83).  Raised by the operations that read such
  structures.  Safe: the model stops where the spec describes no access. -/
  | noSuchAddress (addr : Nat)
  deriving DecidableEq, Repr

/-- Why the model has no meaning for an instruction. -/
inductive Refusal where
  /-- The instruction of this mnemonic has no meaning yet.  Raised by `exec`'s arms only.  Safe. -/
  | notModelled (mnemonic : String)
  deriving DecidableEq, Repr

/-- One core (01 R11): its two context banks and what they share. -/
structure Core where
  id : Nat := 0
  /-- A task or its handler occupies the core and has a bundle to issue. -/
  running : Bool := false
  task : Option Task := none
  bank : Bank := {}
  other : Bank := { id := 1 }
  ctl : Clock := {}
  mat : Clock := {}
  vec : Clock := {}
  cpy : Clock := {}
  /-- The reference cycle the core acts in next. -/
  nextAt : Nat := 0
  /-- Reference cycles of the unbroken freeze in progress that count for the watchdog (02 R43), the lowest cause that
  holds the bundle (15 R430), and for how many reference cycles it has been that cause: the freeze's trace record. -/
  frozen : Nat := 0
  cause : Nat := 0
  stalled : Nat := 0
  /-- Reference cycles the bundle to issue has been held so far, in all and by each cause (12 R235). -/
  held : Nat := 0
  waits : SMap Nat := []
  /-- A RECV of the freeze domain waited for its lines in the last cycle of the freeze (02 R43). -/
  recvWait : Bool := false
  /-- The core has executed TRET and waits for its group (15 R255). -/
  returned : Bool := false
  seq : Nat := 0
  cur : Cur := {}
  spad : Memory := []
  wbuf : Memory := []
  chans : SMap Channel := []
  micro : SMap Nat := []
  routines : SMap Nat := []
  mBusy : Nat := 0
  xBusy : Nat := 0
  /-- An A slot that performs one control-domain cycle late; the scratchpad banks that the engine side uses in a
  copy-domain cycle (04 R84). -/
  late : Option LateSlot := none
  engine : Nat × List Nat := (0, [])
  matOps : List MatOp := []
  /-- Where the decompressor falls behind the array: matrix-domain cycles, and the reference cycles of freeze at each
  (04 R88); and where in the staging area's ring the next fetcher copy goes (08 R192). -/
  lag : List (Nat × Nat) := []
  stage : Nat := 0
  relax : Option RelaxRun := none
  rowOps : List RowOp := []
  staged : List Staged := []
  due : List Due := []
  elim : Nat := 0xFFF
  frzc : Word := 0
  window : List (Nat × Nat) := []
  /-- Governor cycles of the run in progress (02 R45, 12 R241). -/
  gov : Nat := 0
  /-- Requested divisors of the control, matrix, vector and copy domains, CLKD.FL and the stretch. -/
  divs : Nat × Nat × Nat × Nat := (1, 1, 1, 1)
  fl : Bool := false
  stretch : Nat := 1
  /-- Breakwater mask: the slots whose bit is cleared (03 R65, R66). -/
  cleared : List Nat := []
  /-- The map version this core last acquired (03 R64). -/
  map : Option (Nat × Memory) := none
  mapAt : Nat := 0
  /-- Path length L and the chain of adopted edges (12 R234, R235). -/
  path : Path := {}
  /-- SLLEN and SLHOP: L and the hops at the core's last end event (12 R240). -/
  sllen : Word := 0
  slhop : Word := 0
  /-- The last completions of loads, stores, copies and tile operations, of what a DRAIN.REL waits for (4) and of what
  a DRAIN.ACQ waits for (5) (12 R235, 10 R206). -/
  dones : SMap Completion := []
  fetched : List Fetched := []
  /-- Number of the next access of the core's queues. -/
  accSeq : Nat := 1
  sends : List SendOp := []
  recvs : List RecvOp := []
  /-- The reference cycle from which the bundle held waits for lines of a RECV (20 R326). -/
  recvFrom : Option Nat := none
  /-- Control-domain cycles the next bundle still waits for, and their cause (08 R197, 06 R138). -/
  stall : Nat × Nat := (0, 0)
  /-- An MTS to SCINV holds the next bundle (04 R82). -/
  scinv : Bool := false
  /-- The group is being pre-empted (02 R36). -/
  preempt : Option Preempt := none
  deriving DecidableEq, Repr

/-- A checkpointed group, or all groups of a broadcast freeze domain (15 R273-R275): its launch and priority, and
its cores as they stopped; what the save slot's layout places in HBM is read back from there. -/
structure Saved where
  launch : Nat
  prio : Nat
  cores : List Core
  deriving DecidableEq, Repr

/-- The whole machine. -/
structure State where
  now : Nat := 0
  /-- The reference cycle of training, and the dies' fixed offsets from it (01 R16, 23 R368). -/
  trained : Nat := 0
  offsets : SMap Nat := []
  core : Core := {}
  /-- The cores other than `core` that are not as reset. -/
  others : List Core := []
  hbm : Memory := []
  host : Memory := []
  wstore : Memory := []
  calendar : List Sched := []
  agenda : List Instr := []
  lates : List Nat := []
  /-- The translations the host grants the J77 (20 R313), the pages requested of it and not answered, and those it
  refused (20 R314). -/
  iommu : List HostPage := []
  pageReqs : List HostPage := []
  refused : List HostPage := []
  stamps : List Stamp := []
  /-- WSCTL.WEN of each die, and the writes that have not taken effect (04 R89). -/
  wen : SMap Bool := []
  wenNext : List WenWrite := []
  /-- Weight-store refresh windows in progress: (die, reference cycle of the end) (04 R90). -/
  windows : SMap Nat := []
  rqbase : Word := 0
  /-- The value before the last write, its writer, and the reference cycle from which the other cores see the new one (03
  R51). -/
  rqOld : Option (Word × Nat × Nat) := none
  ptbase : Word := 0
  /-- Port-table entries cached: peer and its 64 bytes (20 R322). -/
  ports : SMap Nat := []
  cryo : Cryo := {}
  ptp : Ptp := {}
  groups : SMap Group := []
  clears : List Clear := []
  buses : List BusLine := []
  /-- Edges entered in each die's edge buffer so far (12 R238). -/
  edgeNum : SMap Nat := []
  /-- The barrier unit and the queue ports (12 R220, R226). -/
  barriers : List Barrier := []
  queueWaits : List QueueWait := []
  queueMarks : List QueueMark := []
  /-- The stack engines 0-11, and the flag lines they remember, newest first (13 R245, R432). -/
  engines : SMap Engine := []
  flags : List FlagLine := []
  /-- The dispatchers: launches that have arrived and not ended, in arrival order; the next one's number; those
  that ended, newest first; the spawn queues; the work queues; checkpointed groups; retired cores (19 R310). -/
  launches : List Launch := []
  launchNum : Nat := 1
  /-- Draws of the entropy source so far (05 R115). -/
  draws : Nat := 0
  ended : List Ended := []
  spawns : List Spawn := []
  queues : SMap WorkQueue := []
  saved : List Saved := []
  retired : List Nat := []
  /-- MSI-X vectors raised: (function, vector), newest first (20 R317). -/
  msix : List (Nat × Nat) := []
  /-- Functions whose page requests a failed response disabled (20 R314). -/
  noPages : List Nat := []
  peers : SMap Peer := []
  /-- Frames on their way to peers, oldest first. -/
  wire : List Frame := []
  /-- The MCTP request being served, the responses sent, newest first, and the error log, newest first. -/
  request : Message := {}
  replies : List Message := []
  log : List LogEntry := []
  /-- The unit a timing switch has closed, stacks 0-11 and weight stores 12-15 (19 R304); pseudo-channels refreshing
  until a cycle; HBM lines under self-test, each with the cycle its waits end at (19 R310). -/
  closed : Option Nat := none
  refreshing : SMap Nat := []
  testing : List (Nat × Nat) := []
  /-- Skomon links: failed receptions of the flit in hand, the first and its retries (01 R10, 04 R98); 17 and the link is down. -/
  links : SMap Nat := []
  /-- What the last instruction did: a trap it raised, a hold it met (its cause, and whether the other
  domains advance). -/
  raised : Option TrapReq := none
  holding : Option (Nat × Bool) := none
  deriving DecidableEq, Repr

/-- The machine right after module reset: every field at its default, which is the value the spec states for reset or
the one notes/assumptions/2.md names; no memory lists a byte, no task is placed, the dies are held in reset (01 R17). -/
def State.reset : State := {}

end Sys2Proof.Machine
end

