-- ==== Sys2Proof/Machine/Ops.lean ====
section
/-!
DEFINITION. The named operations over memory and registers, the checks an instruction makes and how it
ends, and taking a trap and returning from one (15 R252-R263), each once.
-/
namespace Sys2Proof.Machine

/-- What `exec` and `step` answer. -/
abbrev Out := Host.Outcome State Fault Refusal

/-- Why an instruction does not run to its end: a trap, a hold of its bundle (cause code of 15 R430,
whether the other domains advance, the event it waits for), or a machine fault. -/
inductive Stop where
  | trap (t : TrapReq)
  | hold (code : Nat) (advance : Bool) (req : Option Instr)
  | fault (f : Fault)
  deriving DecidableEq, Repr

/-- A computation that may stop. -/
abbrev Chk (α : Type) := Except Stop α

/-- Stop with a trap unless the condition holds. -/
def need (c : Bool) (t : TrapReq) : Chk Unit := if c then .ok () else .error (.trap t)

/-- A check whose trap does not cut short a freeze that the rest of the instruction meets (06 R132). -/
def Chk.before {α : Type} (c : Chk Unit) (rest : Chk α) : Chk α :=
  match c, rest with
  | .error (.trap _), .error (.hold k a q) => .error (.hold k a q)
  | .error e, _ => .error e
  | .ok _, r => r

/-- The trap causes of 06 R146. -/
def cIllegalInsn : Nat := 0x01
def cIllegalBundle : Nat := 0x02
def cScheduleFault : Nat := 0x03
def cScheduleViolation : Nat := 0x04
def cTagMismatch : Nat := 0x05
def cSnan : Nat := 0x06
def cFpException : Nat := 0x07
def cDeadWait : Nat := 0x08
def cWatchdog : Nat := 0x09
def cPageFault : Nat := 0x0A
def cProtection : Nat := 0x0B
def cRace : Nat := 0x0C
def cNonconvergence : Nat := 0x0D
def cRequestFault : Nat := 0x0E
def cPrivilege : Nat := 0x0F
def cSoftError : Nat := 0x10
def cLinkTimeout : Nat := 0x11
def cSoftware : Nat := 0x12
def cBreakpoint : Nat := 0x13
def cPreempt : Nat := 0x14
def cQueueTimeout : Nat := 0x16

/-- A trap of the instruction's own operation. -/
def own (cause tval : Nat) : TrapReq := { cause := cause, tval := BitVec.ofNat 64 tval }

/-- SCHEDULE_VIOLATION (class 5 of 06 R132). -/
def violation (tval : Nat) : TrapReq :=
  { cause := cScheduleViolation, tval := BitVec.ofNat 64 tval, cls := 5 }

/-- TAG_MISMATCH (class 4): TVAL as 05 R103. -/
def tagMismatch (tval : Nat) : TrapReq :=
  { cause := cTagMismatch, tval := BitVec.ofNat 64 tval, cls := 4 }

/-- PROTECTION with a tensor id and a reason (04 R80). -/
def protection (tid reason : Nat) : TrapReq := own cProtection (tid + reason * 2 ^ 32)

/-- A trap of a slot of an earlier bundle: the bundle's number and the slot's draining rank (15 R259). -/
def TrapReq.of (t : TrapReq) (seq rank : Nat) : TrapReq := { t with seq := seq, rank := rank }

/-- The pending traps with the first in draining order in front: oldest bundle first, then C, A0, A1, V0, V1, M, X, S
(15 R259). -/
def drainOrder (l : List TrapReq) : List TrapReq := sortBy (fun t : TrapReq => t.seq * 8 + t.rank) l

/-! ### Lenses -/

/-- Change the core whose step is being taken. -/
def State.onCore (s : State) (f : Core → Core) : State := { s with core := f s.core }

/-- Change the executing bank. -/
def State.onBank (s : State) (f : Bank → Bank) : State :=
  { s with core := { s.core with bank := f s.core.bank } }

/-- Change the executing context's system registers. -/
def State.onSys (s : State) (f : SysRegs → SysRegs) : State :=
  s.onBank fun b => { b with sys := f b.sys }

/-- The bank of number `i`. -/
def Core.bankOf (c : Core) (i : Nat) : Bank := if c.bank.id = i then c.bank else c.other

/-- Change the bank of number `i`. -/
def Core.onBankOf (c : Core) (i : Nat) (f : Bank → Bank) : Core :=
  if c.bank.id = i then { c with bank := f c.bank } else { c with other := f c.other }

/-- A core seen from its other bank. -/
def Core.swapped (c : Core) : Core := { c with bank := c.other, other := c.bank }

/-- The machine as the present core's bank `i` sees it. -/
def State.view (s : State) (i : Nat) : State := if s.core.bank.id = i then s else s.onCore Core.swapped

/-- A change made as the present core's bank `i` makes it. -/
def State.inBank (s : State) (i : Nat) (f : State → State) : State :=
  if s.core.bank.id = i then f s else (f (s.onCore Core.swapped)).onCore Core.swapped

/-- The core of number `n` as it stands. -/
def State.coreOf (s : State) (n : Nat) : Core :=
  if s.core.id = n then s.core else (s.others.find? (fun c => c.id = n)).getD { id := n }

/-- The machine with core `n` as the one whose step is taken. -/
def State.focus (s : State) (n : Nat) : State :=
  if s.core.id = n then s
  else { s with core := s.coreOf n
                others := insertBy Core.id s.core (s.others.filter fun c => c.id ≠ n) }

/-- Change core `n`. -/
def State.onCoreOf (s : State) (n : Nat) (f : Core → Core) : State :=
  if s.core.id = n then { s with core := f s.core }
  else { s with others := insertBy Core.id (f (s.coreOf n)) (s.others.filter fun c => c.id ≠ n) }

/-- Every core that is not as reset. -/
def State.cores (s : State) : List Core := insertBy Core.id s.core s.others

/-! ### Time and events -/

/-- A domain's clock. -/
def Core.clock (c : Core) : Dom → Clock
  | .ctl => c.ctl
  | .mat => c.mat
  | .vec => c.vec
  | .cpy => c.cpy

/-- One reference cycle of a clock that is enabled. -/
def Clock.tick (k : Clock) : Clock :=
  if k.phase + 1 < k.per then { k with phase := k.phase + 1 }
  else { k with phase := 0, cycles := k.cycles + 1 }

/-- Put an event into the calendar after the events of its cycle. -/
def putSched (e : Sched) : List Sched → List Sched
  | [] => [e]
  | x :: r => if x.at' ≤ e.at' then x :: putSched e r else e :: x :: r

/-- Schedule an event whose time the spec does not state: `n` reference cycles on, later by the next of `lates` (log 3). -/
def State.schedule (s : State) (n : Nat) (i : Instr) : State :=
  { s with calendar := putSched { at' := s.now + n + s.lates.headD 0, event := i } s.calendar
           lates := s.lates.tail }

/-- Schedule an event at exactly `n` reference cycles on. -/
def State.exactly (s : State) (n : Nat) (i : Instr) : State :=
  { s with calendar := putSched { at' := s.now + n, event := i } s.calendar }

/-- Schedule an event within `n` reference cycles, at any time that the next of `lates` gives: at `n` unless it says sooner
(00 R428, log 3). -/
def State.upTo (s : State) (n : Nat) (i : Instr) : State :=
  { s with calendar := putSched { at' := s.now + (n - s.lates.headD 0 % n), event := i } s.calendar
           lates := s.lates.tail }

/-- Schedule an event at exactly `n` reference cycles on, unless it is scheduled already. -/
def State.exactlyOnce (s : State) (n : Nat) (i : Instr) : State :=
  if s.calendar.any (fun e => e.event = i) then s else s.exactly n i

/-- Schedule an event unless it is scheduled already. -/
def State.scheduleOnce (s : State) (n : Nat) (i : Instr) : State :=
  if s.calendar.any (fun e => e.event = i) then s else s.schedule n i

/-- Schedule an event `n` cycles of a domain of the present core on. -/
def State.dueIn (s : State) (d : Dom) (n : Nat) (i : Instr) : State :=
  s.onCore fun c => { c with due := c.due ++ [{ dom := d, cycle := (c.clock d).cycles + n, seq := c.seq, event := i }] }

/-! ### Time of day and the error log (20 R320, R321) -/

/-- IEEE 1588 time at a reference cycle, in nanoseconds. -/
def State.nanos (s : State) (t : Nat) : Nat := s.ptp.ns + (t - s.ptp.at') * s.ptp.num / s.ptp.den

/-- An entry of the error log, which holds the last 65,536. -/
def State.logEvent (s : State) (kind unit detail : Nat) : State :=
  let e : LogEntry := { time := s.nanos s.now, seqno := (s.log.head?.map LogEntry.seqno).getD 0 + 1, kind := kind
                        unit := unit, detail := detail }
  { s with log := (e :: s.log).take 65536 }

/-! ### Registers (06 R129) -/

/-- The executing bank runs in supervisor mode (15 R257, CTXB.SUP). -/
def State.sup (s : State) : Bool := s.core.bank.use = .supervisor

/-- g register; g0 reads 0. -/
def Bank.readG (b : Bank) (r : Nat) : Word := if r = 0 then 0 else SMap.get 0 b.g r
/-- p register; p0 reads true. -/
def Bank.readP (b : Bank) (r : Nat) : Bool := if r = 0 then true else SMap.get false b.p r
/-- Mask register; vm0 reads all ones. -/
def Bank.readVm (b : Bank) (r : Nat) : Word := if r = 0 then BitVec.allOnes 64 else SMap.get 0 b.vm r
/-- Address register. -/
def Bank.readA (b : Bank) (r : Nat) : BitVec 128 := SMap.get 0 b.a r
/-- v register, its lanes. -/
def Bank.readV (b : Bank) (r : Nat) : Words := SMap.get [] b.v r
/-- A v register's tag. -/
def Bank.tagV (b : Bank) (r : Nat) : Nat := SMap.get 0 b.vtag r
/-- Tile, its elements. -/
def Bank.readT (b : Bank) (r : Nat) : Words := SMap.get [] b.t r
/-- A tile's tag. -/
def Bank.tagT (b : Bank) (r : Nat) : Nat := SMap.get 0 b.ttag r
/-- m register. -/
def Bank.readM (b : Bank) (r : Nat) : Word := SMap.get 0 b.m r

/-- g register of the executing bank. -/
def State.g (s : State) (r : Nat) : Word := s.core.bank.readG r
/-- p register of the executing bank. -/
def State.p (s : State) (r : Nat) : Bool := s.core.bank.readP r
/-- Mask register of the executing bank. -/
def State.vm (s : State) (r : Nat) : Word := s.core.bank.readVm r
/-- Address register of the executing bank. -/
def State.a (s : State) (r : Nat) : BitVec 128 := s.core.bank.readA r
/-- Lanes of a v register of the executing bank. -/
def State.v (s : State) (r : Nat) : Words := s.core.bank.readV r

/-- One lane of a v register's value, one element of a tile's. -/
def Words.at (x : Words) (i : Nat) : Lane := SMap.get 0 x i

/-- The lanes of `new` where the mask bit is 1, of `old` elsewhere (06 R135). -/
def mergeLanes (old new : Words) (mask : Word) : Words :=
  SMap.tabulate 0 (List.range 64) fun i => if bitAt mask.toNat i then new.at i else old.at i

/-- A tile's tag and contents written whole. -/
def Bank.setTile (b : Bank) (t : Nat) (x : Words) (tag : Nat) : Bank :=
  { b with t := SMap.set [] b.t t x, ttag := SMap.set 0 b.ttag t tag }

/-- A register takes a value (06 R129, R139); writes to g0, p0 and vm0 are discarded. -/
def Bank.put (b : Bank) : RegWrite → Bank
  | .g r x => if r = 0 then b else { b with g := SMap.set 0 b.g r x }
  | .p r x => if r = 0 then b else { b with p := SMap.set false b.p r x }
  | .a r x => { b with a := SMap.set 0 b.a r x }
  | .v r x mask tag => { b with v := SMap.set [] b.v r (mergeLanes (b.readV r) x mask)
                                vtag := SMap.set 0 b.vtag r tag }
  | .vm r x => if r = 0 then b else { b with vm := SMap.set 0 b.vm r x }
  | .m r x => { b with m := SMap.set 0 b.m r x }
  | .lc r l => { b with lc := SMap.set {} b.lc r l }

/-- The result of a write issued now, landing `lat` cycles of domain `d` later (06 R140). -/
def State.result (s : State) (w : RegWrite) (d : Dom) (lat : Nat) : Result :=
  { write := w, dom := d, due := (s.core.clock d).cycles + lat, bundle := s.core.bank.pc
    rank := s.core.cur.rank, seq := s.core.seq }

/-- Put a result in flight. -/
def State.send (s : State) (r : Result) : State :=
  s.onBank fun b => { b with inflight := b.inflight ++ [r] }

/-- A g result. -/
def State.writeG (s : State) (r : Nat) (x : Word) (lat : Nat) : State :=
  s.send (s.result (.g r x) .ctl lat)

/-- A predicate result; the write counts for the nullifier from this issue cycle (02 R48). -/
def State.writeP (s : State) (r : Nat) (x : Bool) (d : Dom) : State :=
  (s.send (s.result (.p r x) d 1)).onBank fun b => { b with pw := SMap.set 0 b.pw r (b.issues + 1) }

/-- An address register result (latency 1). -/
def State.writeA (s : State) (r : Nat) (x : BitVec 128) : State :=
  s.send (s.result (.a r x) .ctl 1)

/-- A v register result. -/
def State.writeV (s : State) (r : Nat) (x : Words) (mask : Word) (tag lat : Nat) : State :=
  s.send (s.result (.v r x mask tag) .vec lat)

/-- A mask register result. -/
def State.writeVm (s : State) (r : Nat) (x : Word) : State :=
  s.send (s.result (.vm r x) .vec 2)

/-- An m register result (latency 1 of the matrix domain). -/
def State.writeM (s : State) (r : Nat) (x : Word) : State :=
  s.send (s.result (.m r x) .mat 1)

/-- Flags merge into FFLAGS by OR (05 R118). -/
def SysRegs.mergeFlags (r : SysRegs) (flags : Nat) : SysRegs :=
  { r with fflags := r.fflags ||| BitVec.ofNat 64 flags }

/-- Flags and counts commit in this cycle: an MFS of the cycle does not see them, an MTS of the cycle writes
before them (05 R118). -/
def Bank.commitFlags (b : Bank) (flags nv ov : Nat) : Bank :=
  { b with lateFlags := b.lateFlags ||| flags, lateNv := b.lateNv + nv, lateOv := b.lateOv + ov }

/-- The cycle's commits merge (05 R118). -/
def Bank.settle (b : Bank) : Bank :=
  { b with sys := { (b.sys.mergeFlags b.lateFlags) with mxnv := b.sys.mxnv + BitVec.ofNat 64 b.lateNv
                                                        mxof := b.sys.mxof + BitVec.ofNat 64 b.lateOv }
           lateFlags := 0, lateNv := 0, lateOv := 0 }

/-- An exception of the arithmetic falls due in reference cycle `now`: of all those of one cycle one trap is taken, with
the bundle and slot of the first in the order V0, V1, M, X, the bits of all, and SNAN before FP_EXCEPTION (05 R120, R121). -/
def Bank.raiseFp (b : Bank) (now slot bundle bits : Nat) (snan : Bool) (seq rank : Nat) : Bank :=
  let trap (slot bundle bits : Nat) (snan : Bool) (seq rank : Nat) : TrapReq :=
    { cause := if snan then cSnan else cFpException, seq := seq, rank := rank, fp := some now
      tval := BitVec.ofNat 64 (bundle % 2 ^ 40 + bits * 2 ^ 40 + slot * 2 ^ 45) }
  match b.pending.find? fun t => t.fp = some now with
  | none => { b with pending := b.pending ++ [trap slot bundle bits snan seq rank] }
  | some t =>
    let x := t.tval.toNat
    let bits := field x 40 5 ||| bits
    let snan := snan || t.cause = cSnan
    let both := if slot < field x 45 3 then trap slot bundle bits snan seq rank
      else trap (field x 45 3) (field x 0 40) bits snan t.seq t.rank
    { b with pending := b.pending.map fun u => if u.fp = some now then both else u }

/-- The enabled exceptions among a result's flags, in FFLAGS order (05 R116, R120). -/
def Result.excepts (r : Result) : Nat := r.flags &&& r.enables &&& 31

/-! ### Memories -/

/-- HBM holds 768 x 2^30 bytes (01 R18, 04 R83). -/
def hbmSize : Nat := 768 * 2 ^ 30

/-- `n` bytes of HBM read by hardware. -/
def State.readHbm (s : State) (a n : Nat) : Chk Nat :=
  if a + n ≤ hbmSize then .ok (s.hbm.read a n) else .error (.fault (.noSuchAddress a))

/-- `n` bytes from `a` are HBM. -/
def hbmHas (a n : Nat) : Chk Unit :=
  if a + n ≤ hbmSize then .ok () else .error (.fault (.noSuchAddress a))

/-- A write of `n` bytes from `a` leaves a flag line's mark: it reaches no byte of it (13 R432). -/
def FlagLine.keeps (a n : Nat) (f : FlagLine) : Bool := a + n ≤ f.addr || f.addr + 64 ≤ a

/-- `n` bytes of HBM written by any unit: a flag line that one of them reaches loses its mark (13 R432). -/
def State.poke (s : State) (a x n : Nat) : State :=
  { s with hbm := s.hbm.write a x n, flags := s.flags.filter (FlagLine.keeps a n) }

/-- Bytes at offsets from an address of HBM written by any unit. -/
def State.pokeBytes (s : State) (a : Nat) (bytes : List (Nat × Nat)) : State :=
  bytes.foldl (fun s b => s.poke (a + b.1) b.2 1) s

/-- `n` bytes of HBM written by hardware. -/
def State.writeHbm (s : State) (a x n : Nat) : Chk State :=
  if a + n ≤ hbmSize then .ok (s.poke a x n)
  else .error (.fault (.noSuchAddress a))

/-- A tile as the bytes of the accumulator memory: 16 KiB a tile, rows of 256 bytes (04 R85). -/
def accByte (b : Bank) (a : Nat) : Byte :=
  let w := (b.readT (a / 16384)).at (a % 16384 / 4)
  BitVec.ofNat 8 (w.toNat / 256 ^ (a % 4))

/-- A byte of the accumulator memory written; the tag is unchanged (21 R347). -/
def accSetByte (b : Bank) (a : Nat) (x : Byte) : Bank :=
  let t := b.readT (a / 16384)
  let i := a % 16384 / 4
  let w := setField (t.at i).toNat (8 * (a % 4)) 8 x.toNat
  { b with t := SMap.set [] b.t (a / 16384) (SMap.set 0 t i (BitVec.ofNat 32 w)) }

/-- Key of a byte of a die's weight store in the one table that holds all four (512 MiB each). -/
def wsKey (die a : Nat) : Nat := die * 2 ^ 29 + a

/-- A core's die (01 R11). -/
def dieOf (core : Nat) : Nat := core / 64

/-- A core's cluster (01 R11). -/
def clusterOf (core : Nat) : Nat := core / 16

/-- The map version of group `b` that a core holds, with what its words show by now: bit 63 of header word 1 is set in a
version already published (03 R57, R63). -/
def State.mapSeen (s : State) (c : Core) (b : Nat) : Option Memory :=
  let g := SMap.get {} s.groups b
  c.map.map fun m => if g.step = m.1 then m.2.write 8 (g.map.read 8 8) 8 else m.2

/-- One byte at a place, as core `n`'s bank `i` sees it; a core holds a map version of its own group alone. -/
def State.byteAt (s : State) (n i : Nat) (l : Loc) : Byte :=
  match l.space with
  | .hbm => s.hbm.byte l.addr
  | .host _ _ => s.host.byte l.addr
  | .wstore d => s.wstore.byte (wsKey d l.addr)
  | .spad k => (s.coreOf k).spad.byte l.addr
  | .acc => accByte ((s.coreOf n).bankOf i) l.addr
  | .wbuf => (s.coreOf n).wbuf.byte l.addr
  | .map g => if ((s.coreOf n).bankOf i).sys.bgrp.toNat = g then ((s.mapSeen (s.coreOf n) g).map fun m => m.byte l.addr).getD 0 else 0

/-- One byte written at a place. -/
def State.setByteAt (s : State) (n i : Nat) (l : Loc) (x : Byte) : State :=
  match l.space with
  | .hbm => { s with hbm := s.hbm.setByte l.addr x, flags := s.flags.filter (FlagLine.keeps l.addr 1) }
  | .host _ _ => { s with host := s.host.setByte l.addr x }
  | .wstore d => { s with wstore := s.wstore.setByte (wsKey d l.addr) x }
  | .spad k => s.onCoreOf k fun c => { c with spad := c.spad.setByte l.addr x }
  | .acc => s.onCoreOf n fun c => c.onBankOf i fun b => accSetByte b l.addr x
  | .wbuf => s.onCoreOf n fun c => { c with wbuf := c.wbuf.setByte l.addr x }
  | .map _ => s

/-- `k` bytes from a place. -/
def State.readAt (s : State) (n i : Nat) (l : Loc) : Nat → Nat
  | 0 => 0
  | k + 1 => (s.byteAt n i l).toNat + 256 * State.readAt s n i { l with addr := l.addr + 1 } k

/-- `k` bytes of `x` to a place. -/
def State.writeAt (s : State) (n i : Nat) (l : Loc) (x : Nat) : Nat → State
  | 0 => s
  | k + 1 => State.writeAt (s.setByteAt n i l (BitVec.ofNat 8 x)) n i { l with addr := l.addr + 1 } (x / 256) k

/-! ### Taking a trap, and returning (15 R252-R263) -/

/-- The context area of a core: RETRYH.BASE x 2^26 (15 R271, R273). -/
def Bank.area (b : Bank) : Nat := field b.sys.retryh.toNat 26 14 * 2 ^ 26

/-- A result captured in the replay buffer when its bank stops (15 R261): the landing offset in cycles of
its domain, its flags merged already unless it would raise an enabled exception. -/
def capture (c : Core) (r : Result) : Result :=
  { r with due := r.due - (c.clock r.dom).cycles
           flags := if r.excepts = 0 ∧ r.snan = false then 0 else r.flags }

/-- A result of the replay buffer put in flight again, its offset counted from now (15 R263). -/
def restore (c : Core) (r : Result) : Result := { r with due := r.due + (c.clock r.dom).cycles }

/-- The flags that captured results merge at capture (15 R261, 05 R118). -/
def captureFlags : List Result → Nat
  | [] => 0
  | r :: l => (if r.excepts = 0 ∧ r.snan = false then r.flags % 64 else 0) ||| captureFlags l

/-- The bank stops (15 R261): results in flight go to its replay buffer, and its row operations pause.  Its matrix
operations complete into its tiles; the array stays theirs for their stated beats (06 R143). -/
def Core.stopBank (c : Core) : Core :=
  let b := c.bank
  let b := ({ b with replay := b.inflight.map (capture c), inflight := [] }.commitFlags (captureFlags b.inflight) 0 0).settle
  { c with bank := b
           rowOps := c.rowOps.map fun r =>
             if r.bank = b.id ∧ r.paused = false then { r with paused := true, next := r.next - c.mat.cycles } else r }

/-- The matrix operations of a core that a checkpoint freezes are brought to their ends (15 R261, R274), but for
those whose operands a fault keeps away. -/
def Core.endMatrix (c : Core) : Core :=
  let mine := (c.matOps.filter fun o => o.fetching = false).map MatOp.seq
  { c with mBusy := min c.mBusy c.mat.cycles
           due := c.due.map fun d => if d.dom = .mat ∧ mine.contains d.seq then { d with cycle := c.mat.cycles } else d }

/-- The supervisor context of a fresh bank (15 R252): the copied system registers, all else empty. -/
def freshSupervisor (i : Nat) (r : SysRegs) : Bank :=
  { id := i, use := .supervisor, rbq := { held := 0 }
    sys := { r with fflags := 0, mxnv := 0, mxof := 0, missc := 0 } }

/-- The registers hardware writes at the switch (15 R252, R257). -/
def SysRegs.entered (r : SysRegs) (cause tpc : Nat) (tval : Word) : SysRegs :=
  { r with tcause := BitVec.ofNat 64 cause, tpc := BitVec.ofNat 64 (tpc % 2 ^ 40), tval := tval }

/-- TCAUSE of a trap: CAUSE, RING, NEST and PART (15 R257). -/
def causeWord (t : TrapReq) (nest part : Bool) : Nat :=
  t.cause + (if t.ring then 2 ^ 15 else 0) + (if nest then 2 ^ 16 else 0) + (if part then 2 ^ 17 else 0)

/-- What supervisor code of a bank that traps enter again sees of the trapped bank: FREC, and the TAIL that hardware
advances (15 R267, R271, log 22). -/
def SysRegs.sees (r trapped : SysRegs) : SysRegs :=
  { r with frec := trapped.frec, retryh := BitVec.ofNat 64 (setField r.retryh.toNat 8 7 (field trapped.retryh.toNat 8 7)) }

/-- The address that TPC gets where bundle `tpc` stands next: the bundle of the trap's own access where it names one, and the
address a core that waits at its TRET would have resumed at (15 R252, R255, R258). -/
def Core.savedPc (c : Core) (t : TrapReq) (tpc : Nat) (part : Bool) : Nat :=
  if c.returned then field c.bank.sys.tpc.toNat 0 40 else if part then tpc else t.tpc.getD tpc

/-- One core enters its handler (15 R252, R254, R255): in the supervisor bank again with NEST set, or in
its other bank, the trapped bank keeping its registers and queues and naming `tpc` as its resume bundle.  A core that had
executed TRET and waits for its group still resumes where that TRET was to take it. -/
def Core.enter (c : Core) (t : TrapReq) (tpc : Nat) (part : Bool) : Core :=
  let tpc := c.savedPc t tpc part
  let c := { c with returned := false }
  if c.bank.use = .supervisor then
    { c with bank := { c.bank with pc := c.bank.sys.tvec.toNat, bubbles := 0, after := none
                                   sys := c.bank.sys.entered (causeWord t true part) tpc t.tval } }
  else
    let c := c.stopBank
    let sup := if c.other.use = .supervisor then { c.other with sys := c.other.sys.sees c.bank.sys }
      else freshSupervisor c.other.id c.bank.sys
    { c with bank := { sup with pc := c.bank.sys.tvec.toNat, bubbles := 0, resumed := sup.issues + 1
                                sys := sup.sys.entered (causeWord t false part) tpc t.tval }
             other := { c.bank with handled := if part then none else some t, pc := tpc, after := c.bank.after.filter fun a => decide (a.1 ≠ .tend) } }

/-- The cores of core `c`'s lockstep group (02 R27), itself included. -/
def State.members (s : State) (c : Core) : List Core :=
  match c.task with
  | none => [c]
  | some t => s.cores.filter fun d => match d.task with
    | some u => u.launch = t.launch ∧ u.first = t.first ∧ (d.running ∨ d.id = c.id)
    | none => false

/-- The page request that goes with a fault record of KIND 5 (20 R313, R314). -/
def State.requestPage (s : State) (iova : Option Nat) : State :=
  match iova, s.core.task with
  | some a, some t =>
    let p : HostPage := { fn := t.fn, pasid := if t.pv then some t.pasid else none, iova := a / 4096, page := 0 }
    if s.noPages.contains t.fn || s.pageReqs.contains p then s else { s with pageReqs := s.pageReqs ++ [p] }
  | _, _ => s

/-- Bytes of a fault record as (offset, byte value) pairs written at the record's place, and FREC set
(15 R266, R267). -/
def State.record (s : State) (bytes : List (Nat × Nat)) : State :=
  let a := s.core.bank.area + 0x2000
  (s.pokeBytes a bytes).onSys fun r => { r with frec := BitVec.ofNat 64 (a + 1) }

/-- What goes before a trap is taken: its fault record and page request (15 R266, 20 R313). -/
def State.recordOf (s : State) (t : TrapReq) : State :=
  match t.record with
  | some bytes => (s.record bytes).requestPage t.request
  | none => s

/-- The group of the present core is terminated (15 R253, R256): no core of it issues anything more, and
the dispatcher learns it. -/
def State.terminate (s : State) : State :=
  let ids := (s.members s.core).map Core.id
  let s := ids.foldl (fun s n => s.onCoreOf n fun c => { c with running := false }) s
  s.exactly 0 (.taskEnd (BitVec.ofNat 8 s.core.id) true)

/-- A trap is taken at bundle `tpc` of the present core, and its whole group enters its handlers in the
same reference cycle (15 R252-R255).  `mine` lists the cores of the group that have a trap of their own.
With TVEC = 0 the group is terminated (R253). -/
def State.takeTrapAt (s : State) (t : TrapReq) (tpc : Nat) (mine : List (Nat × TrapReq)) : State :=
  let s := s.recordOf t
  if (s.members s.core).any fun c => c.bank.sys.tvec = 0 then
    let nest := s.sup
    { (s.onSys fun r => r.entered (causeWord t nest false) (t.tpc.getD tpc) t.tval).terminate with raised := some t }
  else
    let part : TrapReq := { cause := t.cause, tval := BitVec.ofNat 64 s.core.id }
    let me := s.core.id
    let partners := ((s.members s.core).filter fun c => c.id ≠ me).map Core.id
    let s := s.onCore fun c => c.enter t tpc false
    let s := partners.foldl (fun s n => s.onCoreOf n fun c =>
      match mine.find? (fun m => m.1 = n) with
      | some m => c.enter m.2 c.bank.pc false
      | none => c.enter part c.bank.pc true) s
    { s with raised := some t }

/-- The fault records of the other cores of a group that trap in the same cycle (15 R255, R266). -/
def State.recordsOf (s : State) (mine : List (Nat × TrapReq)) : State :=
  mine.foldl (fun s m => ((s.focus m.1).recordOf m.2).focus s.core.id) s

/-- A trap taken at the bundle being issued. -/
def State.takeTrap (s : State) (t : TrapReq) : State := s.takeTrapAt t s.core.bank.pc []

/-- Skomon hops between two dies (01 R10). -/
def hops (a b : Nat) : Nat := if a = b then 0 else if (a + b) % 2 = 1 then 1 else 2

/-- The bound on the time of an event that a hold asks for, where the spec gives one (12 R232). -/
def State.holdBound (s : State) (i : Instr) : Option Nat := match i with
  | .raceCheckAnswer _ _ die _ => some (96 + 64 * hops (dieOf s.core.id) die.toNat)
  | _ => none

/-- A context switch of the cores of a domain takes at most 40 reference cycles, as the next of `lates` says: this one and
up to 39 more (02 R37, 00 R428, log 3). -/
def State.switchTime (s : State) (ids : List Nat) : State :=
  let more := s.lates.headD 0 % 40
  let next := s.now + 1 + more
  { ids.foldl (fun s n => s.onCoreOf n fun c => { c with nextAt := next }) s with lates := s.lates.tail }

/-- A hold of the bundle being issued (02 R42), with the event it waits for scheduled.  The read of a descriptor, a parameter
block or a draft tree returns one reference cycle after the hold began, unless State.lates delays it: the spec states no
figure (DESIGN CHOICE, log 3). -/
def State.hold (s : State) (code : Nat) (advance : Bool) (req : Option Instr) : State :=
  let s := match req with
    | some i => match s.holdBound i with
      | some n => if s.calendar.any (fun e => e.event = i) then s else s.upTo n i
      | none => s.scheduleOnce 1 i
    | none => s
  { s with holding := some (code, advance) }

/-- How an instruction's checks and effect end. -/
def finish (s : State) (r : Chk State) : Out :=
  match r with
  | .ok t => .next t
  | .error (.trap t) => .next (s.takeTrap t)
  | .error (.hold c a q) => .next (s.hold c a q)
  | .error (.fault f) => .fault f

/-- The trapped bank resumes at TPC.ADDR with its replay entries in flight (15 R256, R263). -/
def Core.resume (c : Core) (tpc : Nat) : Core :=
  let b := c.other
  let c := { c with other := { c.bank with bubbles := 0 } }
  { c with bank := { b with handled := none, pc := tpc, inflight := b.replay.map (restore c), replay := []
                            resumed := b.issues + 1, bubbles := 0 }
           rowOps := c.rowOps.map fun r =>
             if r.bank = b.id ∧ r.paused then { r with paused := false, next := r.next + c.mat.cycles } else r }

/-! ### Parts that a lazy restore still owes (15 R278) -/

/-- A part's code in REGISTER_MISS. -/
def Part.code : Part → Nat
  | .v r => r
  | .tile r => 64 + r
  | .spad k => 128 + k
  | .wbuf k => 256 + k
  | .crf => 384
  | .micro => 385

/-- A part of a core that both banks share. -/
def Part.shared : Part → Bool
  | .spad _ => true
  | .wbuf _ => true
  | .micro => true
  | _ => false

/-- A part of the present core is not there yet. -/
def Core.owes (c : Core) (p : Part) : Bool := c.bank.absent.contains p || (p.shared && c.other.absent.contains p)

/-- A use of parts, the first absent one of which freezes the bundle while it is fetched. -/
def State.partsThere (s : State) (ps : List Part) : Chk Unit :=
  match ps.find? s.core.owes with
  | some p => .error (.hold 19 false (some (.registerMiss (BitVec.ofNat 8 s.core.id) (BitVec.ofNat 16 p.code))))
  | none => .ok ()

/-- A result of the executing bank is due. -/
def Core.lands (c : Core) (r : Result) : Bool := decide (r.due ≤ (c.clock r.dom).cycles)

/-- The absent register that a result due now fetches first: one that it writes in part (15 R263). -/
def Core.landMiss (c : Core) : Option Part :=
  (c.bank.inflight.filter c.lands).findSome? fun r => match r.write with
    | .v k _ mask _ => if mask ≠ BitVec.allOnes 64 ∧ c.bank.absent.contains (.v k) then some (.v k) else none
    | _ => none

/-- A register that a result writes whole is there. -/
def Bank.present (b : Bank) (r : Result) : Bank := match r.write with
  | .v k _ _ _ => { b with absent := b.absent.filter fun p => p ≠ .v k }
  | _ => b

/-- The 32 KiB blocks that bytes `a` to `a + n - 1` of a memory lie in. -/
def blocksOf (a n : Nat) : List Nat :=
  if n = 0 then [] else (List.range ((a + n - 1) / 32768 - a / 32768 + 1)).map fun k => a / 32768 + k

end Sys2Proof.Machine
end

