-- ==== Sys2Proof/Machine/Scalar.lean ====
section
/-!
DEFINITION. The scalar instructions of class C: arithmetic, logic, shifts, constants, comparisons,
predicate logic, and RDCYC (21 to 25).  Results land after the latencies of 06 R140.
-/
namespace Sys2Proof.Machine

/-- SHL of 24 R381: a count of 64 or more gives 0. -/
def shl64 (x c : Word) : Word := if c.toNat < 64 then x <<< c.toNat else 0
/-- SHR of 24 R381. -/
def shr64 (x c : Word) : Word := if c.toNat < 64 then x >>> c.toNat else 0
/-- SAR of 24 R381: a count of 64 or more gives 64 copies of bit 63. -/
def sar64 (x c : Word) : Word := if c.toNat < 64 then x.sshiftRight c.toNat else x.sshiftRight 63
/-- The high half of the signed product (22 R362). -/
def mulhS64 (x y : Word) : Word := BitVec.ofInt 64 (x.toInt * y.toInt / 2 ^ 64)
/-- The high half of the unsigned product (22 R362). -/
def mulhU64 (x y : Word) : Word := BitVec.ofNat 64 (x.toNat * y.toNat / 2 ^ 64)
/-- DIVU (22 R349): division by zero gives all ones. -/
def divu64 (x y : Word) : Word := if y = 0 then BitVec.allOnes 64 else BitVec.ofNat 64 (x.toNat / y.toNat)
/-- REMU (23 R374): the remainder by zero is the dividend. -/
def remu64 (x y : Word) : Word := if y = 0 then x else BitVec.ofNat 64 (x.toNat % y.toNat)
/-- CLZ (21 R344). -/
def clz64 (x : Word) : Word := if x = 0 then 64 else BitVec.ofNat 64 (63 - Nat.log2 x.toNat)

/-- ADD, SUB, AND, OR (21 R330): latency 1. -/
def execAdd (d a b : GReg) (s : State) : Out := .next (s.writeG d (s.g a + s.g b) 1)
def execSub (d a b : GReg) (s : State) : Out := .next (s.writeG d (s.g a - s.g b) 1)
def execAnd (d a b : GReg) (s : State) : Out := .next (s.writeG d (s.g a &&& s.g b) 1)
def execOr (d a b : GReg) (s : State) : Out := .next (s.writeG d (s.g a ||| s.g b) 1)

/-- XOR, SHL, SHR, SAR (24 R381): latency 1. -/
def execXor (d a b : GReg) (s : State) : Out := .next (s.writeG d (s.g a ^^^ s.g b) 1)
def execShl (d a b : GReg) (s : State) : Out := .next (s.writeG d (shl64 (s.g a) (s.g b)) 1)
def execShr (d a b : GReg) (s : State) : Out := .next (s.writeG d (shr64 (s.g a) (s.g b)) 1)
def execSar (d a b : GReg) (s : State) : Out := .next (s.writeG d (sar64 (s.g a) (s.g b)) 1)

/-- MUL, MULH.S, MULH.U (22 R362): latency 3. -/
def execMul (d a b : GReg) (s : State) : Out := .next (s.writeG d (s.g a * s.g b) 3)
def execMulhS (d a b : GReg) (s : State) : Out := .next (s.writeG d (mulhS64 (s.g a) (s.g b)) 3)
def execMulhU (d a b : GReg) (s : State) : Out := .next (s.writeG d (mulhU64 (s.g a) (s.g b)) 3)

/-- DIVU (22 R349), REMU (23 R374): latency 18. -/
def execDivu (d a b : GReg) (s : State) : Out := .next (s.writeG d (divu64 (s.g a) (s.g b)) 18)
def execRemu (d a b : GReg) (s : State) : Out := .next (s.writeG d (remu64 (s.g a) (s.g b)) 18)

/-- ADDI (21 R331). -/
def execAddi (d a : GReg) (i : BitVec 8) (s : State) : Out := .next (s.writeG d (s.g a + i.signExtend 64) 1)

/-- SHI (24 R384). -/
def execShiL (d a : GReg) (i : BitVec 6) (s : State) : Out := .next (s.writeG d (s.g a <<< i.toNat) 1)
def execShiR (d a : GReg) (i : BitVec 6) (s : State) : Out := .next (s.writeG d (s.g a >>> i.toNat) 1)
def execShiA (d a : GReg) (i : BitVec 6) (s : State) : Out := .next (s.writeG d ((s.g a).sshiftRight i.toNat) 1)
def execShiRol (d a : GReg) (i : BitVec 6) (s : State) : Out := .next (s.writeG d ((s.g a).rotateLeft i.toNat) 1)

/-- LIS (22 R353). -/
def execLis (d : GReg) (i : BitVec 14) (s : State) : Out := .next (s.writeG d (i.signExtend 64) 1)

/-- SHIN (24 R385): gd is source and destination. -/
def execShin (d : GReg) (i : BitVec 14) (s : State) : Out :=
  .next (s.writeG d ((s.g d <<< 14) ||| i.zeroExtend 64) 1)

/-- CLZ (21 R344). -/
def execClz (d a : GReg) (s : State) : Out := .next (s.writeG d (clz64 (s.g a)) 1)

/-- CMP (21 R345). -/
def execCmpEq (p : PReg) (a b : GReg) (s : State) : Out := .next (s.writeP p (s.g a == s.g b) .ctl)
def execCmpNe (p : PReg) (a b : GReg) (s : State) : Out := .next (s.writeP p (s.g a != s.g b) .ctl)
def execCmpLt (p : PReg) (a b : GReg) (s : State) : Out := .next (s.writeP p ((s.g a).slt (s.g b)) .ctl)
def execCmpLtu (p : PReg) (a b : GReg) (s : State) : Out := .next (s.writeP p ((s.g a).ult (s.g b)) .ctl)

/-- CMPI (21 R346): against the sign-extended constant. -/
def execCmpiEq (p : PReg) (a : GReg) (i : BitVec 6) (s : State) : Out :=
  .next (s.writeP p (s.g a == i.signExtend 64) .ctl)
def execCmpiNe (p : PReg) (a : GReg) (i : BitVec 6) (s : State) : Out :=
  .next (s.writeP p (s.g a != i.signExtend 64) .ctl)
def execCmpiLt (p : PReg) (a : GReg) (i : BitVec 6) (s : State) : Out :=
  .next (s.writeP p ((s.g a).slt (i.signExtend 64)) .ctl)
def execCmpiLtu (p : PReg) (a : GReg) (i : BitVec 6) (s : State) : Out :=
  .next (s.writeP p ((s.g a).ult (i.signExtend 64)) .ctl)

/-- PLOG (23 R365). -/
def execPlogAnd (d a b : PReg) (s : State) : Out := .next (s.writeP d (s.p a && s.p b) .ctl)
def execPlogOr (d a b : PReg) (s : State) : Out := .next (s.writeP d (s.p a || s.p b) .ctl)
def execPlogXor (d a b : PReg) (s : State) : Out := .next (s.writeP d (s.p a ^^ s.p b) .ctl)
def execPlogAndn (d a b : PReg) (s : State) : Out := .next (s.writeP d (s.p a && !s.p b) .ctl)

/-- The cluster cycle counter as a core of a die reads it (01 R16, 23 R368). -/
def State.counter (s : State) (die : Nat) : Nat := s.now - s.trained + SMap.get 0 s.offsets die

/-- RDCYC (23 R368). -/
def execRdcyc (d : GReg) (s : State) : Out :=
  .next (s.writeG d (BitVec.ofNat 64 (s.counter (dieOf s.core.id))) 1)

/-- NOP (23 R364). -/
def execNop (s : State) : Out := .next s

end Sys2Proof.Machine
end

