-- ==== Sys2Proof/Machine/Control.lean ====
section
/-!
DEFINITION. Control transfer (06 R144): branches, calls, hardware loops, and the instructions that enter
and leave a handler (15 R256, R258, 21 R340, 25 R402).
-/
namespace Sys2Proof.Machine

/-- A taken transfer (06 R144): the issue of the bundle goes on to the target. -/
def State.transfer (s : State) (target : Nat) : State :=
  s.onCore fun c => { c with cur := { c.cur with npc := target, taken := true } }

/-- An address a signed number of words from this bundle's first slot, within 40 bits (06 R130, R133). -/
def State.wordsOn (s : State) (off : Int) : Nat :=
  (((s.core.bank.pc : Int) + 4 * off) % (2 ^ 40 : Int)).toNat

/-- BR (21 R339). -/
def execBr (i : BitVec 20) (s : State) : Out := .next (s.transfer (s.wordsOn i.toInt))

/-- CALL (21 R342): the link is the byte address of the bundle that follows. -/
def execCall (d : GReg) (i : BitVec 12) (s : State) : Out :=
  .next ((s.writeG d (BitVec.ofNat 64 (s.core.cur.follow % 2 ^ 40)) 1).transfer (s.wordsOn i.toInt))

/-- The transfer of RET and JMPR (22 R352): to the byte address in a g register. -/
def jumpTo (t : Word) (s : State) : Chk State := do
  need (t.toNat % 4 == 0 && t.toNat < 2 ^ 40) (own cIllegalBundle 7)
  return s.transfer t.toNat

/-- RET (23 R375). -/
def execRet (a : GReg) (s : State) : Out := finish s (jumpTo (s.g a) s)

/-- JMPR (22 R352). -/
def execJmpr (a : GReg) (s : State) : Out := finish s (jumpTo (s.g a) s)

/-- The slots from an address up to and including the first with S = 1, at most `k` (06 R130). -/
def bundleLen (m : Memory) (a : Nat) : Nat → Nat
  | 0 => 0
  | k + 1 => if bitAt (m.read a 4) 31 then 1 else 1 + bundleLen m (a + 4) k

/-- LOOPS (22 R354). -/
def execLoops (k : LReg) (a : GReg) (i : BitVec 8) (s : State) : Out :=
  finish s do
    let first := s.core.bank.pc
    let stop := first + 4 * i.toNat
    let n := (s.g a).toNat
    need (n ≤ 65535 && s.core.cur.follow ≤ stop) (violation 11)
    let old := SMap.get {} s.core.bank.lc k.val
    if n = 0 then
      return (s.send (s.result (.lc k { old with count := 0 }) .ctl 1)).transfer
        (stop + 4 * bundleLen s.hbm stop 8)
    else
      return s.send (s.result (.lc k { count := n, start := s.core.cur.follow, stop := stop }) .ctl 1)

/-- TRAP (25 R402): taken once the bundle has committed; TPC is the bundle that would have issued next
(15 R258). -/
def execTrap (a : GReg) (s : State) : Out :=
  .next (s.takeTrapAt { cause := cSoftware, tval := s.g a, cls := 7 } s.core.cur.npc [])

/-- BRKP (21 R340): TVAL is the bundle's address. -/
def execBrkp (s : State) : Out :=
  .next (s.takeTrapAt { cause := cBreakpoint, tval := BitVec.ofNat 64 s.core.bank.pc, cls := 7 } s.core.cur.npc [])

/-- PRIVILEGE (06 R132): raised in user mode, TVAL[2:0] the slot position. -/
def State.privilege (s : State) : TrapReq :=
  { cause := cPrivilege, tval := BitVec.ofNat 64 s.core.cur.pos, cls := 2 }

/-- FREC.V falls (15 R267). -/
def SysRegs.clearFrec (r : SysRegs) : SysRegs := { r with frec := r.frec &&& ~~~1#64 }

/-- Channels stopped by a fault go on (15 R268, 04 R100). -/
def Channel.goOn (ch : Channel) : Channel :=
  { ch with queue := ch.queue.map fun t => { t with stopped := if t.stopped = 1 then 0 else if t.stopped = 2 then 3 else t.stopped } }

/-- A row operation that a fault stopped goes on, its data read again (21 R348, 15 R268, 04 R100). -/
def RowOp.goOn (now : Nat) (r : RowOp) : RowOp :=
  { r with since := now, stopped := if r.stopped = 1 then 0 else if r.stopped = 2 then 3 else r.stopped }

/-- One core leaves its handler: the trapped bank resumes, and a copy a fault stopped goes on. -/
def Core.leave (now : Nat) (c : Core) : Core :=
  let c := { c with bank := { c.bank with sys := c.bank.sys.clearFrec } }
  let c := c.resume (field c.bank.sys.tpc.toNat 0 40)
  { c with bank := { c.bank with sys := c.bank.sys.clearFrec, ring := [] }
           chans := c.chans.map fun ch => (ch.1, ch.2.goOn)
           rowOps := c.rowOps.map fun r => if r.bank = c.bank.id then r.goOn now else r
           sends := c.sends.map fun x => { x with stopped := false }
           returned := false }

/-- TRET (15 R256).  The group resumes when the last of its cores has executed TRET (R255). -/
def execTret (s : State) : Out :=
  finish s do
    need s.sup s.privilege
    if s.core.other.use ≠ .task then
      -- nothing is trapped: the position returns to the dispatcher
      return { s.onCore fun c => { c with bank := { c.bank with use := .empty }, running := false, task := none }
               with calendar := putSched { at' := s.now + 1, event := .groupPlacement } s.calendar }
    else
      need (s.core.other.ring.all RingEntry.done) (violation 12)
      if bitAt s.core.bank.sys.tpc.toNat 63 then return s.terminate
      else
        let me := s.core.id
        let mates := ((s.members s.core).filter fun c => c.id ≠ me)
        if mates.all fun c => c.returned || c.bank.use ≠ .supervisor then
          let s := s.onCore (Core.leave s.now)
          return mates.foldl (fun s m => s.onCoreOf m.id fun c => if c.returned then c.leave s.now else c) s
        else return s.onCore fun c => { c with returned := true }

end Sys2Proof.Machine
end

