-- ==== Sys2Proof/Machine/Batch.lean ====
section
/-!
DEFINITION. Request records, batch groups, the boundary and the breakwater (03 R50-R72).
-/
namespace Sys2Proof.Machine

/-- RQBASE as the present core sees it (03 R51). -/
def State.rqbaseSeen (s : State) : Word :=
  match s.rqOld with
  | some (old, n, t) => if n ≠ s.core.id ∧ s.now < t then old else s.rqbase
  | none => s.rqbase

/-- RQBASE's region address (03 R51). -/
def State.region (s : State) : Nat := field s.rqbaseSeen.toNat 26 14 * 2 ^ 26
/-- RQBASE.EN. -/
def State.rqEn (s : State) : Bool := bitAt s.rqbaseSeen.toNat 0

/-- A group's state. -/
def State.group (s : State) (b : Nat) : Group := SMap.get {} s.groups b
/-- Change a group. -/
def State.onGroup (s : State) (b : Nat) (f : Group → Group) : State :=
  { s with groups := SMap.set {} s.groups b (f (s.group b)) }

/-- The seat of a slot. -/
def Group.seat (g : Group) (slot : Nat) : Option Seat := SMap.get none g.slots slot
/-- A record's word. -/
def Seat.word (r : Seat) (w : Nat) : Nat := SMap.get 0 r.words w
/-- A field of a record's word. -/
def Seat.fld (r : Seat) (w lo n : Nat) : Nat := field (r.word w) lo n
/-- A field of a record's word written. -/
def Seat.put (r : Seat) (w lo n v : Nat) : Seat :=
  { r with words := SMap.set 0 r.words w (setField (r.word w) lo n v) }

def Seat.rqid (r : Seat) : Nat := r.fld 0 0 32
def Seat.state (r : Seat) : Nat := r.fld 0 32 4
def Seat.prio (r : Seat) : Nat := r.fld 0 48 3
def Seat.eclass (r : Seat) : Nat := r.fld 0 51 3
def Seat.cancel (r : Seat) : Bool := r.fld 0 54 1 == 1
def Seat.retreq (r : Seat) : Bool := r.fld 0 55 1 == 1
def Seat.fcode (r : Seat) : Nat := r.fld 0 56 8
def Seat.pos (r : Seat) : Nat := r.fld 1 0 32
def Seat.prefill (r : Seat) : Nat := r.fld 1 32 24
def Seat.pagePtr (r : Seat) : Nat := r.fld 3 0 32 * 256
def Seat.pageCnt (r : Seat) : Nat := r.fld 3 32 24
def Seat.setState (r : Seat) (v : Nat) : Seat := r.put 0 32 4 v
def Seat.setFcode (r : Seat) (v : Nat) : Seat := r.put 0 56 8 v

/-- A record that holds no slot and no pages (03 R56): PAGECNT and SLOT are 0. -/
def Seat.unseated (r : Seat) : Seat := (r.put 3 32 24 0).put 0 40 8 0

/-- The breakwater codes (03 R55). -/
def isBreakwater (c : Nat) : Bool := (1 ≤ c && c ≤ 5) || c == 8

/-- Slots with an occupant, ascending. -/
def Group.occupied (g : Group) : List (Nat × Seat) :=
  g.slots.filterMap fun c => match c.2 with
    | some r => some (c.1, r)
    | none => none

/-- A masked change of one word. -/
def Seat.apply (r : Seat) (c : Nat × Nat × Nat) : Seat :=
  let old := r.word c.1
  { r with words := SMap.set 0 r.words c.1 ((old ^^^ (old &&& c.2.1)) ||| (c.2.2 &&& c.2.1)) }

/-- A record write applied to the record cache, if the RQID still holds (03 R69, R70).  A breakwater code is dropped where
FCODE holds a code already, an end code too: the spec says so of breakwater codes alone (03 R55; DESIGN CHOICE, log 50). -/
def Group.applyWrite (g : Group) (w : RecWrite) : Group :=
  match g.seat w.slot with
  | none => g
  | some r =>
    if r.rqid ≠ w.rqid ∨ (w.first ∧ r.fcode ≠ 0) then g
    else { g with slots := SMap.set none g.slots w.slot (some (w.words.foldl Seat.apply r))
                  resumes := if w.resume then g.resumes ++ [w.slot] else g.resumes }

/-- A record write: held until publication while a boundary runs (03 R70). -/
def Group.write (g : Group) (w : RecWrite) : Group :=
  match g.boundary with
  | some _ => { g with held := g.held ++ [w] }
  | none => g.applyWrite w

/-! ### The batch map as a core sees it (03 R63-R65) -/

/-- A field of a slot's entry in a map version. -/
def mapEntry (m : Memory) (slot off n : Nat) : Nat := m.read (512 + 16 * slot + off) n

/-- The executing task's batch group, none for 0xFF. -/
def State.bgrp (s : State) : Option Nat :=
  let b := s.core.bank.sys.bgrp.toNat
  if b = 0xFF then none else some b

/-- Whether a core's breakwater mask holds a slot's bit cleared: cleared on this core's group, or taken
over from another core of the launch 256 reference cycles after (03 R66). -/
def State.isCleared (s : State) (slot : Nat) : Bool :=
  s.core.cleared.contains slot ||
    match s.core.task with
    | some t => s.clears.any fun c => c.launch = t.launch && c.slot == slot && (s.core.mapAt ≤ c.at' || s.core.map.any fun m => m.1 = c.step) && c.at' + 256 ≤ s.now
    | none => false

/-- The row mask bit of a slot: LIVE in the acquired map, ANDed with the breakwater mask; before a core's
first acquire every row is masked (03 R64, R65). -/
def State.rowLive (s : State) (slot : Nat) : Bool :=
  match s.core.map with
  | none => false
  | some (_, m) => bitAt (mapEntry m slot 0xA 2) 0 && !s.isCleared slot

/-- A row's length L: the slot's NTOK in the acquired map (03 R65). -/
def State.rowLen (s : State) (slot : Nat) : Nat :=
  match s.core.map with
  | none => 0
  | some (_, m) => mapEntry m slot 0x8 2

/-- The RQID a core's acquired map gives a slot. -/
def State.mapRqid (s : State) (slot : Nat) : Nat :=
  match s.core.map with
  | none => 0
  | some (_, m) => mapEntry m slot 0 4

/-- An edge entered in its die's edge buffer (12 R235, R238). -/
def State.edge (s : State) (e : Edge) : State × Edge :=
  let k := SMap.get 0 s.edgeNum e.die
  ({ s with edgeNum := SMap.set 0 s.edgeNum e.die (k + 1) }, { e with num := k })

/-- The breakwater contains a row of the present core's group (03 R66): FCODE written if the occupant is
the one of the core's map, the mask bit cleared on every core of the lockstep group, and noted for the
launch's other cores. -/
def State.contain (s : State) (slot code : Nat) : State :=
  match s.bgrp with
  | none => s
  | some b =>
    let s := s.onGroup b fun g => g.write
      { slot := slot, rqid := s.mapRqid slot, words := [(0, 0xFF * 2 ^ 56, code * 2 ^ 56)], first := true }
    let s := (s.members s.core).foldl (fun s c => s.onCoreOf c.id fun c => { c with cleared := slot :: c.cleared }) s
    match s.core.task with
    | some t => { s with clears := { launch := t.launch, slot := slot, at' := s.now, step := ((s.core.map.map Prod.fst).getD 0) } :: s.clears }
    | none => s

/-- Row containment of arithmetic traps is on for the executing task's group (03 R57 RCONT, 05 R122). -/
def State.rcont (s : State) : Bool :=
  match s.bgrp with
  | some b => (s.group b).rcont
  | none => false

/-! ### The boundary (03 R60-R63) -/

/-- The batch former at work: memory, the group, and the counters of map header words 1 and 4. -/
structure Former where
  mem : Memory
  base : Nat
  b : Nat
  g : Group
  fstack : Nat
  fcount : Nat
  fcap : Nat
  admitted : Nat := 0
  retired : Nat := 0
  evicted : Nat := 0
  moved : Nat := 0
  dropped : Nat := 0
  lost : Nat := 0
  lostFirst : Nat := 0
  suspended : List Nat := []
  deriving DecidableEq, Repr

/-- The record table's address of a record (03 R50). -/
def Former.recAddr (f : Former) (idx : Nat) : Nat := f.base + idx * 512

/-- The bits of a record's words that are not reserved (03 R53). -/
def recordMask (w : Nat) : Nat :=
  if w = 1 ∨ w = 3 then 2 ^ 56 - 1 else if w = 8 then 2 ^ 63 - 1 - 2 ^ 7 else 2 ^ 64 - 1

/-- A record as it stands in HBM; its reserved bits read as 0 (00 R7). -/
def Former.load (f : Former) (idx : Nat) : Seat :=
  { idx := idx, words := SMap.tabulate 0 (List.range 64) fun w => f.mem.read (f.recAddr idx + 8 * w) 8 &&& recordMask w }

/-- A record written back to HBM (03 R52). -/
def Former.store (f : Former) (r : Seat) : Former :=
  { f with mem := (List.range 64).foldl (fun (m : Memory) w => m.write (f.recAddr r.idx + 8 * w) (r.word w) 8) f.mem }

/-- A slot's occupant set or removed. -/
def Former.setSlot (f : Former) (slot : Nat) (r : Option Seat) : Former :=
  { f with g := { f.g with slots := SMap.set none f.g.slots slot r } }

/-- One frame returned to the pool, or counted as not returned when the stack is full (03 R59). -/
def Former.pushFrame (f : Former) (frame : Nat) : Former :=
  if f.fcount < f.fcap then
    { f with mem := f.mem.write (f.fstack + 4 * f.fcount) frame 4, fcount := f.fcount + 1 }
  else { f with lost := f.lost + 1, lostFirst := if f.lost = 0 then frame else f.lostFirst }

/-- A request's resident frames returned in ascending page-list order; PAGECNT and SLOT become 0 (03 R56, R59). -/
def Former.release (f : Former) (r : Seat) : Former × Seat :=
  let f := (List.range r.pageCnt).foldl (fun f n =>
    let e := f.mem.read (r.pagePtr + 4 * n) 4
    if bitAt e 31 then f.pushFrame (field e 0 24) else f) f
  (f, r.unseated)

/-- A record leaves its slot with a state: pages released, the record written back. -/
def Former.leave (f : Former) (slot : Nat) (r : Seat) (state : Nat) : Former :=
  let (f, r) := f.release (r.setState state)
  (f.store r).setSlot slot none

/-- Retirement. -/
def Former.retire (f : Former) (slot : Nat) (r : Seat) : Former :=
  { f.leave slot r 6 with retired := f.retired + 1 }

/-- Eviction (03 R56): the positions whose cache is gone become prompt again. -/
def Former.evict (f : Former) (slot : Nat) (r : Seat) : Former :=
  let r := (r.put 1 32 24 (r.pos + r.prefill)).put 1 0 32 0
  { f.leave slot (r.setFcode 6) 4 with evicted := f.evicted + 1 }

/-- Pages the group holds. -/
def Former.heldPages (f : Former) : Nat := (f.g.occupied.map fun c => c.2.pageCnt).foldl (· + ·) 0
/-- Pages free to the group (03 R61). -/
def Former.free (f : Former) : Nat := min f.fcount (f.g.pbud - f.heldPages)

/-- The eviction order's key: ECLASS, PRIO ascending, admission sequence descending (03 R61). -/
def rankKey (r : Seat) : Nat := (r.eclass * 8 + r.prio) * 2 ^ 32 + (2 ^ 32 - 1 - r.seq % 2 ^ 32)

/-- The lowest-ranked seated request. -/
def Former.victim (f : Former) : Option (Nat × Seat) :=
  (sortBy (fun c : Nat × Seat => rankKey c.2) f.g.occupied).head?

/-- Pages taken from the pool and entered with V = 1 up to a count (03 R59, R61). -/
def Former.grow (f : Former) (r : Seat) (need : Nat) : Former × Seat :=
  let f := (List.range (need - r.pageCnt)).foldl (fun f k =>
    let frame := f.mem.read (f.fstack + 4 * (f.fcount - 1)) 4
    { f with mem := f.mem.write (r.pagePtr + 4 * (r.pageCnt + k)) (field frame 0 24 + 2 ^ 31) 4
             fcount := f.fcount - 1 }) f
  (f, if r.pageCnt < need then r.put 3 32 24 need else r)

/-- Positions of a row's next step (03 R61). -/
def Group.ntok (g : Group) (r : Seat) : Nat := if 0 < r.prefill then min r.prefill g.pchunk else g.dstep

/-- Growth of one row: evictions until its pages are free, or its own (03 R61). -/
def Former.growRow (f : Former) (slot : Nat) : Nat → Former
  | 0 => f
  | k + 1 =>
    match f.g.seat slot with
    | none => f
    | some r =>
      if r.state ≠ 2 then f
      else
        let need := ceilDiv (r.pos + f.g.ntok r) f.g.tpp
        if f.g.maxpg < need then f.retire slot (r.setFcode 0x14)
        else if need - r.pageCnt ≤ f.free then
          let (f, r) := f.grow r need
          f.setSlot slot (some r)
        else match f.victim with
          | none => f
          | some (v, x) => Former.growRow (f.evict v x) slot k

/-- The admission checks of a record (03 R62 step 1). -/
def admissible (b : Nat) (r : Seat) : Bool :=
  let ssn := r.fld 8 4 3
  r.state == 1 && r.fld 0 0 16 == r.idx && r.fld 0 36 4 == b && r.fld 8 0 4 ≤ 8 && ssn ≤ 4 &&
    (List.range ssn).all (fun k => 1 ≤ r.fld 8 (8 + 6 * k) 6 && r.fld 8 (8 + 6 * k) 6 ≤ 32) &&
    1 ≤ r.fld 8 56 7 && r.fld 8 56 7 ≤ 64 && 0 < r.fld 2 0 24 && 0 < r.prefill + r.pos

/-- The head of the waiting list: PRIO descending, then arrival ascending (03 R62). -/
def Former.head (f : Former) : Option (Nat × Nat) :=
  (sortBy (fun w : Nat × Nat => (7 - (f.load w.1).prio) * 2 ^ 64 + w.2) f.g.waiting).head?

/-- Evictions for a newcomer while its pages are short: only of requests lexicographically lower (03 R62). -/
def Former.makeRoom (f : Former) (r : Seat) (need : Nat) : Nat → Former × Bool
  | 0 => (f, decide (need ≤ f.free))
  | k + 1 =>
    if need ≤ f.free then (f, true)
    else match f.victim with
      | none => (f, false)
      | some (v, x) =>
        if x.eclass * 8 + x.prio < r.eclass * 8 + r.prio then Former.makeRoom (f.evict v x) r need k
        else (f, false)

/-- Admission from the waiting list (03 R62). -/
def Former.letIn (f : Former) : Nat → Former
  | 0 => f
  | k + 1 =>
    match f.head with
    | none => f
    | some w =>
      let r := f.load w.1
      let drop (f : Former) : Former := { f with g := { f.g with waiting := f.g.waiting.filter (· ≠ w) } }
      if !admissible f.b r then
        Former.letIn (drop { f.store ((r.setState 5).setFcode 9).unseated with moved := f.moved + 1 }) k
      else match (List.range f.g.nslot).find? fun i => (f.g.seat i).isNone with
        | none => f
        | some _ =>
          let need := ceilDiv (f.g.ntok r) f.g.tpp
          let (f, ok) := f.makeRoom r need 256
          if !ok then f
          else match (List.range f.g.nslot).find? fun i => (f.g.seat i).isNone with
            | none => f
            | some slot =>
              let r := ((((r.setState 2).setFcode 0).put 0 54 2 0).put 0 40 8 slot).put 2 24 16 0
              let r := { r with seq := f.g.admseq }
              let (f, r) := f.grow (r.put 3 32 24 0) need
              let f := { f.setSlot slot (some r) with admitted := f.admitted + 1 }
              Former.letIn (drop { f with g := { f.g with admseq := f.g.admseq + 1 } }) k

/-- One admission-ring entry (03 R58, R60 step 1). -/
def Former.ringEntry (f : Former) (n : Nat) : Former :=
  let e := f.mem.read (f.base + 0x2010000 + f.b * 16384 + 4 * (n % 4096)) 4
  let idx := field e 0 16
  let seated := f.g.occupied.find? fun c => c.2.idx = idx
  if bitAt e 31 then
    match seated with
    | some (slot, r) => f.setSlot slot (some (r.put 0 54 1 1))
    | none =>
      let r := f.load idx
      if r.state = 1 then
        let f := f.store ((r.setState 6).setFcode 7).unseated
        { f with g := { f.g with waiting := f.g.waiting.filter fun w => w.1 ≠ idx }, retired := f.retired + 1 }
      else { f with dropped := f.dropped + 1 }
  else if seated.isNone && (f.load idx).state = 1 && !(f.g.waiting.any fun w => w.1 = idx) then
    { f with g := { f.g with waiting := f.g.waiting ++ [(idx, n)] } }
  else { f with dropped := f.dropped + 1 }

/-- Ring entries consumed while the waiting list has room; answers the new CONS. -/
def Former.ring (f : Former) (cons : Nat) : Nat → Former × Nat
  | 0 => (f, cons)
  | k + 1 =>
    if 4096 ≤ f.g.waiting.length then (f, cons)
    else Former.ring (f.ringEntry cons) (cons + 1) k

/-- Step 2 for one slot: cancels, retire requests and end codes. -/
def Former.step2 (f : Former) (slot : Nat) : Former :=
  match f.g.seat slot with
  | none => f
  | some r =>
    if r.cancel then f.retire slot (r.setFcode 7)
    else if r.retreq && r.fcode < 0x10 then f.retire slot (r.setFcode 0x13)
    else if 0x10 ≤ r.fcode then f.retire slot r
    else f

/-- Step 3 for one slot: rows with breakwater codes move as 03 R55 says; resumes take effect. -/
def Former.step3 (f : Former) (slot : Nat) : Former :=
  match f.g.seat slot with
  | none => f
  | some r =>
    let f := if r.state = 2 && (r.fcode = 2 || r.fcode = 3) then
        { f.setSlot slot (some (r.setState 3)) with moved := f.moved + 1, suspended := slot :: f.suspended }
      else if r.state = 2 && isBreakwater r.fcode then
        { f.leave slot r 5 with moved := f.moved + 1 }
      else f
    match f.g.seat slot with
    | none => f
    | some r =>
      if r.state = 3 && f.g.resumes.contains slot then f.setSlot slot (some ((r.setState 2).setFcode 0)) else f

/-- Step 4 for one slot: a row that was live this step advances through its prompt by its NTOK, of which the map holds the
low 16 bits: min(PREFILL, PCHUNK), the PCHUNK of its map's boundary (03 R61). -/
def Former.step4 (f : Former) (old : Memory) (chunk slot : Nat) : Former :=
  match f.g.seat slot with
  | none => f
  | some r =>
    let n := min r.prefill chunk
    if r.state = 2 && bitAt (mapEntry old slot 0xA 2) 0 && 0 < r.prefill && !f.suspended.contains slot then
      f.setSlot slot (some ((r.put 1 0 32 (r.pos + n)).put 1 32 24 (r.prefill - n)))
    else f

/-- The map version a boundary publishes (03 R63). -/
def Former.mapOf (f : Former) (step : Nat) : Memory :=
  let occ := f.g.occupied
  let live := (occ.filter fun c => c.2.state = 2).length
  let w1 := live % 512 + f.admitted % 512 * 2 ^ 9 + f.retired % 512 * 2 ^ 18 + f.evicted % 512 * 2 ^ 27
    + f.moved % 512 * 2 ^ 36 + f.dropped % 4096 * 2 ^ 45
  let m : Memory := []
  let m := Memory.write m 0 step 8
  let m := Memory.write m 8 w1 8
  let m := Memory.write m 16 (f.heldPages % 2 ^ 32 + f.fcount % 2 ^ 32 * 2 ^ 32) 8
  let m := Memory.write m 24 (f.g.admseq % 2 ^ 32) 8
  let m := Memory.write m 32 (f.lostFirst % 2 ^ 24 + f.lost % 2 ^ 24 * 2 ^ 32) 8
  occ.foldl (fun m c =>
    let r := c.2
    let isLive := r.state = 2
    let a := 512 + 16 * c.1
    let m := Memory.write m a r.rqid 4
    let m := Memory.write m (a + 4) r.pos 4
    let m := Memory.write m (a + 8) (if isLive then f.g.ntok r else 0) 2
    let m := Memory.write m (a + 10) ((if isLive then 1 else 0) + (if 0 < r.prefill then 2 else 0)
      + (if r.state = 3 then 4 else 0) + 8) 2
    Memory.write m (a + 12) r.seq 4) m

/-- Whether a descriptor's fields lie in their ranges (03 R57). -/
def descInRange (d : Nat) : Bool :=
  let f (off n : Nat) := field d (8 * off) (8 * n)
  f 0 2 ≤ 256 && 1 ≤ f 2 2 && f 2 2 ≤ 65 && 1 ≤ f 4 4 && f 4 4 ≤ 65536 && 1 ≤ f 8 4 && f 8 4 ≤ 65536
    && 1 ≤ f 0x10 4 && f 0x10 4 ≤ 2 ^ 24

/-- A boundary's work, applied all at once when it publishes (03 R60).  The map version of an even STEP is the first of the
group's two, that of an odd one the second; the spec says only that a boundary writes the other (DESIGN CHOICE, log 50). -/
def runBoundary (base b : Nat) (mem : Memory) (g : Group) (bd : Boundary) : Memory × Group :=
  let f (off n : Nat) := field bd.desc (8 * off) (8 * n)
  let daddr := base + 0x2000000 + 64 * b
  let mapAddr := base + 0x2050000 + b * 16384
  if !descInRange bd.desc then
    -- no change but bit 63 of header word 1
    let w := setField (g.map.read 8 8) 63 1 1
    (Memory.write mem (mapAddr + g.step % 2 * 8192 + 8) w 8, { g with map := g.map.write 8 w 8 })
  else
    let old := g.map
    let chunk := g.pchunk
    let g := { g with seen := true, nslot := f 0 2, dstep := f 2 2, tpp := f 4 4, pchunk := f 8 4
                      pbud := f 0xC 4, maxpg := f 0x10 4, rcont := bitAt (f 0x14 4) 0 }
    let pool := base + 0x2000400
    let fm : Former := { mem := mem, base := base, b := b, g := g, fstack := mem.read pool 8
                         fcount := mem.read (pool + 8) 4, fcap := mem.read (pool + 12) 4 }
    let prod := f 0x18 8
    let cons := f 0x20 8
    let (fm, cons) := fm.ring cons (min 4096 ((prod + 2 ^ 64 - cons) % 2 ^ 64))
    let fm := { fm with mem := Memory.write fm.mem (daddr + 0x20) (cons % 2 ^ 64) 8 }
    let slots := List.range 256
    let fm := slots.foldl Former.step2 fm
    let fm := slots.foldl Former.step3 fm
    let fm := slots.foldl (fun fm i => fm.step4 old chunk i) fm
    let fm := slots.foldl (fun fm i => fm.growRow i 257) fm
    let fm := fm.letIn 4096
    let step := g.step + 1
    let fm := fm.g.occupied.foldl (fun fm c =>
      let r := (c.2.put 2 40 16 bd.slring).put 2 56 8 step
      (fm.store r).setSlot c.1 (some r)) fm
    let m := fm.mapOf step
    let va := mapAddr + step % 2 * 8192
    let mem := SMap.splice Memory.blank fm.mem va (va + 4608) (SMap.slice m 0 4608 va)
    let mem := Memory.write mem (pool + 8) fm.fcount 4
    (mem, { fm.g with step := step, map := m, resumes := [] })

/-- Slots whose occupant differs. -/
def Group.changed (g h : Group) : Nat :=
  ((List.range 256).filter fun i => (g.seat i).map Seat.rqid ≠ (h.seat i).map Seat.rqid).length

/-- BOUNDARY_PUBLISH (03 R60 step 7): the changes appear, STEP rises, and the record writes held since the
snapshot apply. -/
def execBoundaryPublish (grp : BitVec 4) (s : State) : Out :=
  finish s do
    let b := grp.toNat
    let g := s.group b
    match g.boundary with
    | none => return s
    | some bd =>
      let region := field s.rqbase.toNat 26 14 * 2 ^ 26
      let _ ← hbmHas region (2 ^ 26)
      let (mem, g') := runBoundary region b s.hbm g bd
      -- 12 ns more may pass for each slot whose occupant changes
      let more := s.lates.headD 0 % (30 * g.changed g' + 1)
      if !bd.late && more ≠ 0 then
        return (State.exactly { s with lates := s.lates.tail } more (.boundaryPublish grp)).onGroup b fun g =>
          { g with boundary := some { bd with late := true } }
      else
        let g' := { g' with boundary := none, held := [], published := s.now }
        let g' := g.held.foldl Group.applyWrite g'
        -- a flag line that the boundary writes loses its mark (13 R432)
        let keeps (f : FlagLine) : Bool := (f.addr + 64 ≤ region || region + 2 ^ 26 ≤ f.addr) && mem.read f.addr 64 == s.hbm.read f.addr 64
        return { s with hbm := mem, groups := SMap.set {} s.groups b g', flags := s.flags.filter keeps }

end Sys2Proof.Machine
end

