-- ==== Sys2Proof/Machine/Operands.lean ====
section
/-!
DEFINITION. Tensor operands: descriptors, address registers, the layout unit, span tables and frames, and
the permission checks of an access (04 R73-R83).
-/
namespace Sys2Proof.Machine

/-! ### Places: dies, links, latencies (01 R10-R12, 06 R140) -/

/-- Whether a place is in the executing core's own memories (10 R200). -/
def Loc.isOwn (l : Loc) (core : Nat) : Bool := l.space = .spad core || l.space = .acc

/-- The die a place lies on; the core's own for host memory. -/
def Loc.die (l : Loc) (core : Nat) : Nat :=
  match l.space with
  | .hbm => l.addr / 2 ^ 36 / 3
  | .spad k => dieOf k
  | _ => dieOf core

/-- The scheduled latency of a read of a place, and the model's figure for host memory (06 R140). -/
def Loc.latency (l : Loc) (core : Nat) : Nat :=
  if l.isOwn core then 8
  else match l.space with
    | .spad k => 64 + 64 * hops (dieOf core) (dieOf k)
    | .wstore _ => 48
    | .host _ _ => 800
    | _ => 320 + 64 * hops (dieOf core) (l.die core)

/-- The links a packet takes from one die to another (01 R10): CD0 and CD2 meet through CD1, CD1 and CD3 through
CD2. -/
def route (a b : Nat) : List (Nat × Nat) :=
  if a = b then []
  else if (a + b) % 2 = 1 then [(a, b)]
  else if a % 2 = 0 then [(a, 1), (1, b)]
  else [(a, 2), (2, b)]

/-- A link down on the way from a core to a place and back (04 R98): its number. -/
def State.deadLink (s : State) (core : Nat) (l : Loc) : Option Nat :=
  let a := dieOf core
  let b := l.die core
  ((route a b ++ route b a).map fun k => 4 * k.1 + k.2).find? fun k => 17 ≤ SMap.get 0 s.links k

/-- The pseudo-channel of a place, 0 where it is not HBM (04 R83). -/
def Loc.port (l : Loc) (_core : Nat) : Nat :=
  if l.space = .hbm then 64 * (l.addr / 2 ^ 36) + (field l.addr 8 6 ^^^ field l.addr 14 6) else 0

/-- A place an access must wait for: its stack closed by a timing switch, its pseudo-channel refreshing, its line
under self-test (19 R304, R310, R311); 0 when it is open, else the freeze cause (15 R430). -/
def State.shut (s : State) (l : Loc) : Nat :=
  if l.space ≠ .hbm then 0
  else if s.closed = some (l.addr / 2 ^ 36) ∨ s.now < SMap.get 0 s.refreshing (l.port 0) then 4
  else if s.testing.any fun t => t.1 = l.addr / 256 && s.now < t.2 then 25
  else 0

/-- LINK_TIMEOUT for a Skomon link that is down (04 R98, log 15). -/
def linkDown (k : Nat) : TrapReq := { cause := cLinkTimeout, tval := Config.linkDetail k }

/-- A read of HBM by the core's port does not cross a link that is down. -/
def State.reaches (s : State) (a : Nat) : Chk Unit :=
  match s.deadLink s.core.id { space := .hbm, addr := a } with
  | some k => .error (.trap (linkDown k))
  | none => .ok ()

/-! ### Descriptors (04 R73-R77) -/

/-- Element size in bytes, an E2M1 element counting half (04 R76): in half bytes. -/
def esize2 (tag : Nat) : Nat :=
  match tag with
  | 2 => 4 | 3 => 4
  | 1 => 8 | 8 => 8
  | 10 => 16
  | 6 => 1
  | _ => 2

/-- Storage bytes of a tensor (21 R329, size). -/
def Desc.size (d : Desc) : Nat := ceilDiv (d.ext0 * d.ext1 * d.ext2 * d.ext3 * esize2 d.tag) 2

/-- The fixed descriptors of the reserved ids (04 R73, 03 R67). -/
def State.fixedDesc (s : State) (tid : Nat) : Option Desc :=
  if 0xFFFE0000 ≤ tid ∧ tid < 0xFFFE0010 then
    some { kind := .batchMap (tid % 16), ext0 := 4608, wr := false, loc := 4 }
  else if 0xFFFE0100 ≤ tid ∧ tid < 0xFFFE0110 then
    let g := s.group (tid % 16)
    some { kind := .cache (tid % 16), ndim := 3, loc := 4
           ext0 := if g.seen then 65536 / g.tpp else 0
           ext1 := if g.seen then min (g.maxpg * g.tpp) (2 ^ 24) else 0
           ext2 := if g.seen then 256 else 0 }
  else if tid = 0xFFFF0000 then some { kind := .spad, ext0 := 2097152, at' := true, loc := 2 }
  else if tid = 0xFFFF0001 then some { kind := .acc, ext0 := 64, ext1 := 2048, ndim := 1, tag := 1, loc := 4 }
  else if tid = 0xFFFF0002 then some { kind := .wstore, ext0 := 536870912, loc := 3 }
  else if tid = 0xFFFF0003 then some { kind := .wbuf, ext0 := 1048576, rd := false, wr := false, loc := 4 }
  else none

/-- A descriptor's fields from its 64 bytes (04 R75). -/
def parseDesc (x : Nat) : Desc :=
  let f (off n : Nat) := field x (8 * off) (8 * n)
  let at' := f 0x18 4
  { ext0 := f 0 4, ext1 := f 4 4, ext2 := f 8 4, ext3 := f 12 4, base := f 0x10 8
    tag := field at' 0 4, ndim := field at' 4 2, layout := field at' 6 2
    rd := bitAt at' 8, wr := bitAt at' 9, at' := bitAt at' 10, sw := bitAt at' 11
    loc := field at' 12 2, twl := field at' 20 4, thl := field at' 24 4
    nspan := f 0x1C 4, boff := f 0x20 8, aux := f 0x28 4 }

/-- An extent's range (04 R75). -/
def extOk (e : Nat) : Bool := 1 ≤ e && e ≤ 2 ^ 24

/-- The scale tensor of an E2M1 tensor (04 R76). -/
def scaleOk (d a : Desc) : Bool :=
  d.ext0 % 32 == 0 && a.tag == 0 && a.ext0 == d.ext0 / 16 && a.ext1 == d.ext1 && a.ext2 == d.ext2 && a.ext3 == d.ext3

/-- The checks made when a descriptor is read (04 R77, R431); `a` is the descriptor AUX names.  DESIGN CHOICE (log 50): a
TWL or THL of 9-15, of which R75 says that its range is 0-8 and R77 nothing, fails them like a reserved field. -/
def descOk (x : Nat) (a : Option Desc) : Bool :=
  let d := parseDesc x
  let at' := field x (8 * 0x18) 32
  let tw := 2 ^ d.twl
  let th := 2 ^ d.thl
  field at' 28 4 == 0 && field at' 14 6 == 0 && field x (8 * 0x2C) (8 * 20) == 0 &&
  d.tag < 12 && d.layout < 3 && d.twl ≤ 8 && d.thl ≤ 8 &&
  extOk d.ext0 && extOk d.ext1 && extOk d.ext2 && extOk d.ext3 &&
  (1 ≤ d.ndim || d.ext1 == 1) && (2 ≤ d.ndim || d.ext2 == 1) && (3 ≤ d.ndim || d.ext3 == 1) &&
  (d.layout == 0 || (d.ext0 % tw == 0 && d.ext1 % th == 0)) &&
  (d.layout != 2 || 4096 ≤ tw * th * esize2 d.tag) &&
  (d.tag != 6 || match a with
    | some y => scaleOk d y
    | none => false) &&
  (match d.loc with
    | 2 => field d.base 21 9 ≤ 256 && d.base / 2 ^ 30 == 0 && field d.base 0 21 + d.boff + d.size ≤ 2097152
        && (d.layout != 2 || (field d.base 0 21 + d.boff) % 2048 == 0)
    | 3 => d.base + d.boff + d.size ≤ 536870912 && (d.layout != 2 || (d.base + d.boff) % 2048 == 0)
    | _ => true)

/-- A tensor table's length and base (04 R74). -/
def SysRegs.tableLen (r : SysRegs) : Nat := field r.ttbase.toNat 44 20
def SysRegs.tableBase (r : SysRegs) : Nat := field r.ttbase.toNat 6 34 * 64

/-- Kinds of reads a held bundle waits for (`Fetched.what`). -/
def fetchBadDesc : Nat := 1
def fetchParams : Nat := 2
def fetchTree : Nat := 3
def fetchRace : Nat := 4
def fetchSpans : Nat := 5
def fetchRecv : Nat := 6

/-- A read that has returned for the bundle being held. -/
def Core.fetchedOf (c : Core) (what addr : Nat) : Option Nat :=
  (c.fetched.find? fun f => f.what = what ∧ f.addr = addr).map Fetched.data

/-- A descriptor in a bank's cache. -/
def Bank.descOf (b : Bank) (tid : Nat) : Option Desc := (b.descs.find? fun e => e.1 = tid).map Prod.snd

/-- desc(t) of 21 R329: the descriptor of an id, read at its first use (04 R77). -/
def State.desc (s : State) (tid : Nat) : Chk Desc :=
  if 0xFFFE0000 ≤ tid then
    match s.fixedDesc tid with
    | some d => .ok d
    | none => .error (.trap (protection tid 1))
  else if s.core.bank.sys.tableLen ≤ tid then .error (.trap (protection tid 1))
  else
    match s.core.bank.descOf tid with
    | some d => .ok d
    | none =>
      match s.core.fetchedOf fetchBadDesc tid with
      | some _ => .error (.trap (protection tid 2))
      | none => do
        s.reaches (s.core.bank.sys.tableBase + 64 * tid)
        .error (.hold 13 false (some (.descriptorRead (BitVec.ofNat 8 s.core.id) (BitVec.ofNat 32 tid))))

/-- DESCRIPTOR_READ (04 R77): the read returns; the descriptor is checked and cached, or found bad. -/
def execDescriptorRead (core : BitVec 8) (tid : BitVec 32) (s : State) : Out :=
  let s := s.focus core.toNat
  finish s do
    let t := tid.toNat
    let r := s.core.bank.sys
    let x ← s.readHbm (r.tableBase + 64 * t) 64
    let d := parseDesc x
    let a ← if d.tag = 6 ∧ d.aux < r.tableLen then do
        let y ← s.readHbm (r.tableBase + 64 * d.aux) 64
        pure (some (parseDesc y))
      else pure none
    if descOk x a then return s.onBank fun b => { b with descs := SMap.insert (SMap.erase b.descs t) t d }
    else return s.onCore fun c => { c with fetched := { what := fetchBadDesc, addr := t, data := d.tag } :: c.fetched }

/-- desc(t) for the operand of an address register `r` whose format the instruction takes: a reserved TAG is also a
TAG_MISMATCH (05 R103), which comes before the descriptor's PROTECTION (06 R132). -/
def State.descA (s : State) (r tid : Nat) : Chk Desc :=
  match s.desc tid with
  | .error (.trap t) => match s.core.fetchedOf fetchBadDesc tid with
    | some k => if 12 ≤ k then .error (.trap (tagMismatch (r + 2 ^ 7 + k * 2 ^ 8))) else .error (.trap t)
    | none => .error (.trap t)
  | x => x

/-! ### Address registers (04 R78) -/

/-- TID of an address register. -/
def aTid (a : BitVec 128) : Nat := field a.toNat 0 32
/-- Coordinate j of an address register. -/
def aCoord (a : BitVec 128) (j : Nat) : Nat := field a.toNat (32 + 24 * j) 24
/-- An address register with coordinate j set. -/
def aSet (a : BitVec 128) (j v : Nat) : BitVec 128 := BitVec.ofNat 128 (setField a.toNat (32 + 24 * j) 24 v)

/-- Extent of a dimension. -/
def Desc.ext (d : Desc) (j : Nat) : Nat :=
  match j with
  | 0 => d.ext0
  | 1 => d.ext1
  | 2 => d.ext2
  | _ => d.ext3

/-- inrange (21 R329). -/
def inRange (d : Desc) (c : Nat → Nat) : Bool := (List.range 4).all fun j => c j < d.ext j

/-- The product of extents j to k - 1. -/
def Desc.prod (d : Desc) (j k : Nat) : Nat := ((List.range (k - j)).map fun i => d.ext (j + i)).foldl (· * ·) 1

/-- The digits j to k of w written into the coordinates (21 R332). -/
def writeDigits (d : Desc) (a : BitVec 128) (j k : Nat) (w : Nat) : BitVec 128 :=
  (List.range (k + 1 - j)).foldl (fun a i => aSet a (j + i) (w / d.prod j (j + i) % d.ext (j + i))) a

/-- AINC's step of coordinate j by a signed value (21 R332). -/
def stepCoord (d : Desc) (a : BitVec 128) (j : Nat) (st : Int) : Chk (BitVec 128) :=
  let n := d.ndim
  if n < j then .ok (aSet a j (unsignedOf 24 (Int.ofNat (aCoord a j) + st)))
  else
    let ks := (List.range (n + 1 - j)).map (j + ·)
    if ks.any fun k => d.ext k ≤ aCoord a k then .ok a
    else
      let v := (ks.map fun k => aCoord a k * d.prod j k).foldl (· + ·) 0
      let p := d.prod j (n + 1)
      let w : Int := Int.ofNat v + st
      if w < 0 ∨ (p : Int) ≤ w then
        if d.ext n = 2 ^ 24 then .error (.trap (protection (aTid a) 13))
        else
          let out := aSet a n (d.ext n)
          .ok (if n = j then out else writeDigits d out j (n - 1) (w % ((p / d.ext n : Nat) : Int)).toNat)
      else .ok (writeDigits d a j n w.toNat)

/-! ### The layout unit (04 R79) -/

/-- storeoff: the storage byte offset of an element, none out of range; for E2M1 with the nibble. -/
def storeOff (d : Desc) (c : Nat → Nat) : Option (Nat × Nat) :=
  if !inRange d c then none
  else
    let w := 2 ^ d.twl
    let h := 2 ^ d.thl
    let idx :=
      if d.layout = 0 then c 0 + d.ext0 * (c 1 + d.ext1 * (c 2 + d.ext2 * c 3))
      else
        let tile := c 0 / w + d.ext0 / w * (c 1 / h + d.ext1 / h * (c 2 + d.ext2 * c 3))
        tile * w * h + c 0 % w + w * (c 1 % h)
    let b := idx * esize2 d.tag / 2
    let b :=
      if d.layout = 2 then
        let tb := w * h * esize2 d.tag / 2
        let inb := (b % tb) ^^^ (c 1 % h % 64 * 32)
        b - b % tb + inb
      else b
    some (d.boff + b, if d.tag = 6 then idx % 2 else 0)

/-- The coordinates whose element starts at a storage offset: the layout unit read backwards. -/
def unstoreOff (d : Desc) (a : BitVec 128) (off : Nat) : BitVec 128 :=
  let w := 2 ^ d.twl
  let h := 2 ^ d.thl
  let b := off - d.boff
  let b := if d.layout = 2 then
      let tb := w * h * esize2 d.tag / 2
      let rowOf (x : Nat) : Nat := x * 2 / esize2 d.tag / w % h
      -- the swizzle keeps bytes within a row of 64 or more; the row is found by trial
      match (List.range h).find? fun r => rowOf ((b % tb) ^^^ (r % 64 * 32)) = r with
        | some r => b - b % tb + ((b % tb) ^^^ (r % 64 * 32))
        | none => b
    else b
  let idx := b * 2 / esize2 d.tag
  let cs : List Nat :=
    if d.layout = 0 then
      [idx % d.ext0, idx / d.ext0 % d.ext1, idx / d.ext0 / d.ext1 % d.ext2, idx / d.ext0 / d.ext1 / d.ext2]
    else
      let tile := idx / (w * h)
      let tx := max 1 (d.ext0 / w)
      let ty := max 1 (d.ext1 / h)
      [tile % tx * w + idx % w, tile / tx % ty * h + idx / w % h, tile / tx / ty % d.ext2, tile / tx / ty / d.ext2]
  (List.range 4).foldl (fun a j => aSet a j (cs.getD j 0)) a

/-! ### Span tables and frames (04 R81-R83) -/

/-- Bytes of a span entry's SIZE. -/
def spanSize (raw : Nat) : Nat :=
  match field raw 1 2 with
  | 0 => 65536
  | 1 => 2 ^ 21
  | 2 => 2 ^ 30
  | _ => 2 ^ 35

/-- The frame address of a span entry. -/
def spanFrame (raw : Nat) : Nat := raw / 65536 % 2 ^ 48 * 65536

/-- How the walk of a span table ends. -/
inductive Walk where
  | beyond
  | misaligned
  | entry (e : SpanEntry)
  deriving DecidableEq, Repr

/-- The entry that covers storage offset `b`, walking from entry `i`, which starts at `start` (04 R81). -/
def walkSpans (mem : Memory) (tid base b : Nat) : Nat → Nat → Nat → Walk
  | 0, _, _ => .beyond
  | k + 1, i, start =>
    let raw := mem.read (base + 8 * i) 8
    let sz := spanSize raw
    if start % sz ≠ 0 ∨ spanFrame raw % sz ≠ 0 then .misaligned
    else if b < start + sz then .entry { tid := tid, idx := i, start := start, raw := raw }
    else walkSpans mem tid base b k (i + 1) (start + sz)

/-- An entry that covers an offset among cached or pinned ones. -/
def findSpan (l : List SpanEntry) (tid b : Nat) : Option SpanEntry :=
  l.find? fun e => e.tid = tid ∧ e.start ≤ b ∧ b < e.start + spanSize e.raw

/-- Where a storage offset of a tensor lies. -/
inductive Trans where
  | at (l : Loc)
  /-- A span entry with V = 0, or a failed host translation of its page. -/
  | absent (e : SpanEntry)
  /-- Not in the port's cache: to be fetched. -/
  | miss
  /-- Beyond the last entry, or a misaligned entry: PROTECTION reason 5. -/
  | beyond
  /-- A cache-tensor entry with V = 0: contained (03 R67). -/
  | contained (slot : Nat)
  /-- A cache-tensor position at or beyond PAGECNT x TPP, or an empty slot: out of range (03 R67). -/
  | outside
  /-- The host refused the page (20 R314). -/
  | refused
  deriving DecidableEq, Repr

/-- The function and PASID a task's host translations are made under (04 R81). -/
def Task.ats (t : Task) : Nat × Option Nat := (t.fn, if t.pv then some t.pasid else none)

/-- Whether a list of host pages holds an I/O virtual address under the executing task's function. -/
def State.hostFind (s : State) (l : List HostPage) (iova : Nat) : Option HostPage :=
  match s.core.task with
  | none => none
  | some t => l.find? fun p => p.fn = t.ats.1 ∧ p.pasid = t.ats.2 ∧ p.iova = iova / 4096

/-- The host address of an I/O virtual address, under the executing task's function and PASID (04 R81). -/
def State.hostPage (s : State) (iova : Nat) : Option Nat :=
  (s.hostFind s.iommu iova).map fun p => p.page * 4096 + iova % 4096

/-- The place a resident span entry gives an offset; the host's translation, unless `pages` holds it, may fail (04 R81).
DESIGN CHOICE (log 29): an HBM frame address at or beyond the 768 x 2^30 bytes of HBM is read and written like any other. -/
def State.framed (s : State) (pages : List (Nat × Nat)) (d : Desc) (e : SpanEntry) (b : Nat) : Trans :=
  if !bitAt e.raw 0 then .absent e
  else
    let a := spanFrame e.raw + (b - e.start)
    if d.loc = 1 then
      match ((pages.find? fun p => p.1 = a / 4096).map fun p => p.2 * 4096 + a % 4096) <|> s.hostPage a with
      | some h => .at { space := .host 0 0, addr := h }
      | none => if (s.hostFind s.refused a).isSome then .refused else .absent { e with iova := some a }
    else .at { space := .hbm, addr := a }

/-- The cache tensor's translation (03 R67): storage offsets are linear in (e, p, s). -/
def State.cachePlace (s : State) (b : Nat) (d : Desc) (off : Nat) : Trans :=
  let g := s.group b
  let e := off % d.ext0
  let p := off / d.ext0 % d.ext1
  let slot := off / d.ext0 / d.ext1 % 256
  match g.seat slot with
  | none => .outside
  | some r =>
    if r.pageCnt * g.tpp ≤ p then .outside
    else
      let entry := s.hbm.read (r.pagePtr + 4 * (p / g.tpp)) 4
      if bitAt entry 31 then
        .at { space := .hbm, addr := field entry 0 24 * 65536 + p % g.tpp * d.ext0 + e }
      else .contained slot

/-- The element at a storage offset lies in a touch window's region (15 R264). -/
def Window.covers (w : Window) (tid : Nat) (d : Desc) (off : Nat) : Bool :=
  let a := unstoreOff d 0 off
  w.tid = tid && w.c0 ≤ aCoord a 0 && aCoord a 0 < w.c0 + w.cols && w.c1 ≤ aCoord a 1 && aCoord a 1 < w.c1 + w.rows &&
    w.c2 = aCoord a 2 && w.c3 = aCoord a 3

/-- The translation of a storage offset: entries held for the operation (`extra`), those pinned for the window the
element lies in, and the port's cache first; `walk` reads the span table instead of answering a miss (04 R81, 15 R265). -/
def State.placeWith (s : State) (extra : List SpanEntry) (walk : Bool) (tid : Nat) (d : Desc) (off : Nat) : Trans :=
  match d.kind with
  | .batchMap g => .at { space := .map g, addr := off }
  | .cache g => s.cachePlace g d off
  | .spad => .at { space := .spad s.core.id, addr := off }
  | .acc => .at { space := .acc, addr := off }
  | .wstore => .at { space := .wstore (dieOf s.core.id), addr := off }
  | .wbuf => .at { space := .wbuf, addr := off }
  | .table =>
    if d.loc = 2 then
      let sel := field d.base 21 9
      .at { space := .spad (if sel = 0 then s.core.id else sel - 1), addr := field d.base 0 21 + off }
    else if d.loc = 3 then .at { space := .wstore (dieOf s.core.id), addr := d.base + off }
    else
      let windows := s.core.bank.windows.filter fun w => w.covers tid d off
      match findSpan (extra ++ windows.flatMap Window.spans ++ s.core.bank.spans) tid off with
      | some e => s.framed (windows.flatMap Window.pages) d e off
      | none =>
        match walkSpans s.hbm tid d.base off d.nspan 0 0 with
        | .beyond => .beyond
        | .misaligned => .beyond
        | .entry e => if walk then s.framed [] d e off else .miss

/-- The translation of a storage offset for the executing bank. -/
def State.place (s : State) (walk : Bool) (tid : Nat) (d : Desc) (off : Nat) : Trans := s.placeWith [] walk tid d off

/-- The span entries a set of offsets needs, read from the table into the port's cache. -/
def State.cacheSpans (s : State) (tid : Nat) (d : Desc) (offs : List Nat) : State :=
  offs.foldl (fun s off =>
    match findSpan s.core.bank.spans tid off with
    | some _ => s
    | none =>
      match walkSpans s.hbm tid d.base off d.nspan 0 0 with
      | .entry e => if bitAt e.raw 0 then s.onBank fun b => { b with spans := e :: b.spans } else s
      | _ => s) s

/-! ### Checks of an access (04 R80, R89) -/

/-- What an access does. -/
inductive Mode where
  | read | write | atomic
  /-- The destination of a COPY. -/
  | copy
  deriving DecidableEq, Repr

/-- The permission and weight-store checks of an access with an element in range (04 R80, R89); the weight buffer takes
writes of a COPY alone (04 R73). -/
def State.permit (s : State) (tid : Nat) (d : Desc) (m : Mode) : Chk Unit := do
  let ok := match m with
    | .read => d.rd
    | .write => d.wr
    | .copy => d.wr || d.kind = .wbuf
    | .atomic => d.at'
  need ok (protection tid 3)
  if d.loc = 3 then
    let die := dieOf s.core.id
    -- a change of WEN in progress: the access waits for it
    if s.wenNext.any fun w => w.die = die then .error (.hold 15 false none)
    else
      let wen := SMap.get false s.wen die
      need (match m with
        | .read => !wen
        | _ => wen) (protection tid 4)
      -- a read inside a refresh window, or during the die's timing switch, waits for its end
      if m = .read ∧ (s.now < SMap.get 0 s.windows die ∨ s.closed = some (12 + die)) then .error (.hold 4 false none) else .ok ()
  else .ok ()

/-- AINC (21 R332). -/
def execAinc (a : AReg) (r : GReg) (j : BitVec 2) (s : State) : Out :=
  finish s do
    let x := s.a a
    let d ← s.desc (aTid x)
    let y ← stepCoord d x j.toNat (s.g r).toInt
    return s.writeA a y

/-- ASET (21 R334): no descriptor is read. -/
def execAset (a : AReg) (r : GReg) (k : BitVec 3) (s : State) : Out :=
  let x := s.a a
  let v := (s.g r).toNat
  .next (s.writeA a (if k = 0 then BitVec.ofNat 128 (setField x.toNat 0 32 v) else aSet x (k.toNat - 1) v))

/-- AMOV.TO (21 R333). -/
def execAmovTo (d a : AReg) (s : State) : Out := .next (s.writeA d (s.a a))

/-- AMOV.FROM (21 R333). -/
def execAmovFrom (d : GReg) (a : AReg) (k : BitVec 3) (s : State) : Out :=
  let x := s.a a
  .next (s.writeG d (BitVec.ofNat 64 (if k = 0 then aTid x else aCoord x (k.toNat - 1))) 1)

end Sys2Proof.Machine
end

