-- ==== Sys2Proof/Machine/Strand.lean ====
section
/-!
DEFINITION. The strandline (12 R234-R241): path lengths, adopted edges, end events and their ring, and the
debug trace.
-/
namespace Sys2Proof.Machine

/-- A path's length at a reference cycle (12 R234). -/
def Path.at (p : Path) (t : Nat) : Nat := p.l + (t - p.at')

/-- SLCTL.EN of the executing context. -/
def State.slEn (s : State) : Bool := bitAt s.core.bank.sys.slctl.toNat 0
/-- SLCTL.TRK, one of its four bits. -/
def State.trk (s : State) (k : Nat) : Bool := bitAt s.core.bank.sys.slctl.toNat (4 + k)
/-- The strandline ring's address (12 R239). -/
def State.slRing (s : State) : Nat := field s.core.bank.sys.slbase.toNat 6 34 * 64

/-- The reference count reckoned on die 0's counter (01 R16). -/
def State.count0 (s : State) (t : Nat) : Nat := t - s.trained + SMap.get 0 s.offsets 0

/-- One ring entry at entry number `n` (12 R239). -/
def State.putRing (s : State) (n : Nat) (e : Edge) (hop : Nat) (trunc : Bool) : State :=
  let a := s.slRing + 64 + 32 * (n % 65536)
  let w := e.len % 2 ^ 32 + e.port % 256 * 2 ^ 32 + e.event % 256 * 2 ^ 40 + e.waiter % 256 * 2 ^ 48 + e.pkind % 8 * 2 ^ 56
  let v := e.pid % 2 ^ 32 + hop % 65536 * 2 ^ 32 + (if trunc then 2 ^ 48 else 0)
  (((s.poke a (s.count0 e.time) 8).poke (a + 8) w 8).poke (a + 16) v 8).poke (a + 24) e.l 8

/-- Entries allocated from NEXT with an atomic add (12 R239): the first entry's number. -/
def State.allocRing (s : State) (k : Nat) : State × Nat :=
  let n := s.hbm.read s.slRing 8
  (s.poke s.slRing ((n + k) % 2 ^ 64) 8, n)

/-- A record written to the ring alone: a trace record (12 R241). -/
def State.traceRecord (s : State) (e : Edge) : State :=
  if s.slEn then
    let (s, n) := s.allocRing 1
    s.putRing n e 0 false
  else s

/-- Core `n` acquires a map version (03 R64): its breakwater mask becomes all ones (R65), and its path is the boundary's,
counted from the publication (12 R234). -/
def State.acquireMap (s : State) (n : Nat) (v : MapVersion) : State :=
  let (s, e) := s.edge { die := dieOf n, time := v.published, event := 8, waiter := n, pkind := 4, pid := v.grp, l := 0 }
  let gone := (List.range 256).filter (s.focus n).isCleared
  -- the edge of a map's acquire, recorded under TRK[6] (12 R240)
  let s := if bitAt ((s.coreOf n).bank.sys.slctl.toNat) 6 then ((s.focus n).traceRecord e).focus s.core.id else s
  s.onCoreOf n fun c => { c with map := some (v.step, v.map), cleared := [], mapAt := s.now
                                 relax := c.relax.map fun r => { r with cleared := gone ++ r.cleared }
                                 path := { at' := v.published, chain := [e] } }

/-- The edge of a wait's end, adopted or not: the die's edge buffer takes it; TRK[6] records every edge
(12 R235, R240). -/
def State.newEdge (s : State) (event ta len : Nat) (p : Path) (pkind pid port : Nat) : State × Edge :=
  let n := s.core.id
  s.edge { die := dieOf n, time := ta, len := len, port := port, event := event, waiter := n, pkind := pkind
           pid := pid, l := p.at ta }

/-- The present core adopts an edge: its path goes on from the producer's (12 R235). -/
def State.adopt (s : State) (event ta len : Nat) (p : Path) (pkind pid port : Nat) : State :=
  let (s, e) := s.newEdge event ta len p pkind pid port
  let s := if s.trk 2 then s.traceRecord e else s
  s.onCore fun c => { c with path := { l := e.l, at' := ta, chain := p.chain ++ [e] } }

/-- A wait that ended without having waited (12 R235): nothing is adopted, TRK[6] records the edge. -/
def State.unadopted (s : State) (event ta : Nat) (p : Path) (pkind pid port : Nat) : State :=
  if s.trk 2 then
    s.traceRecord { time := ta, event := event, waiter := s.core.id, pkind := pkind, pid := pid, port := port, l := p.at ta }
  else s

/-- A trace record of the present core, where its kind is on (12 R241). -/
def State.traced (s : State) (k event pid len : Nat) : State :=
  if s.trk k then
    s.traceRecord { time := s.now, len := len, event := event, waiter := s.core.id, pkind := 0, pid := pid, l := s.core.path.at s.now }
  else s

/-- Reference cycles for which a cause of 15 R430 has held the bundle to issue. -/
def Core.waited (c : Core) (cause : Nat) : Nat := SMap.get 0 c.waits cause

/-- A freeze-type waiter, whose freeze is of a cause: it has waited when that lasted at least one reference cycle. -/
def State.adoptWait (s : State) (cause event ta : Nat) (p : Path) (pkind pid port : Nat) : State :=
  if 0 < s.core.waited cause then s.adopt event ta (s.core.waited cause) p pkind pid port
  else s.unadopted event ta p pkind pid port

/-- A poll-type waiter: it has waited when the producer's path is the longer at the acquire. -/
def State.adoptPoll (s : State) (event ta : Nat) (p : Path) (pkind pid : Nat) : State :=
  if s.core.path.at s.now < p.at s.now then s.adopt event ta 0 p pkind pid 0 else s.unadopted event ta p pkind pid 0

/-- The hops of a chain that its buffers still hold: those after the last overwritten one, and whether any
was overwritten (12 R238). -/
def State.liveHops (s : State) (l : List Edge) : List Edge × Bool :=
  let live (e : Edge) : Bool := SMap.get 0 s.edgeNum e.die ≤ e.num + 4096
  let kept := (l.reverse.takeWhile live).reverse
  (kept, kept.length < l.length)

/-- SLCTL of a walk begun: LAST, TRUNC if it was cut, BUSY (12 R240). -/
def SysRegs.walked (last : Nat) (cut : Bool) (r : SysRegs) : SysRegs :=
  let x := setField r.slctl.toNat 32 16 (last % 65536)
  { r with slctl := BitVec.ofNat 64 (setField x 1 2 (if cut then 3 else 2 + field x 1 1)) }

/-- An end event (12 R238): SLLEN and SLHOP at once; with EN, the walk's ring entries; LAST, TRUNC, BUSY. -/
def State.endEvent (s : State) (event : Nat) : State :=
  let n := s.core.id
  let l := s.core.path.at s.now
  let chain := s.core.path.chain
  let s := s.onCore fun c => { c with sllen := BitVec.ofNat 64 l, slhop := BitVec.ofNat 64 (chain.length % 65536) }
  if !s.slEn then s
  else
    let (hops, cut) := s.liveHops chain
    let (s, first) := s.allocRing (chain.length + 1)
    let lost := chain.length - hops.length
    let s := (List.range hops.length).foldl (fun s k => match hops[k]? with
      | some e => s.putRing (first + lost + k) e (lost + k) (cut && k = 0)
      | none => s) s
    let last := first + chain.length
    let s := s.putRing last { time := s.now, event := event, waiter := n, pkind := 0, pid := n, l := l } chain.length (cut && hops.isEmpty)
    let s := s.onSys (SysRegs.walked last cut)
    s.schedule 64 (.strandlineWalkComplete (BitVec.ofNat 8 n) (BitVec.ofNat 1 s.core.bank.id))

/-- An end event while BUSY is 1 freezes the freeze domain (24 R386). -/
def State.slFree (s : State) : Chk Unit :=
  if bitAt s.core.bank.sys.slctl.toNat 2 then .error (.hold 23 false none) else .ok ()

/-- SLMARK (24 R386). -/
def execSlmark (a : GReg) (s : State) : Out :=
  finish s do
    let x := (s.g a).toNat
    need (x ≤ 1) (violation 10)
    if x = 0 then return s.onCore fun c => { c with path := { at' := s.now } }
    else
      s.slFree
      return s.endEvent 0x11

/-- STRANDLINE_WALK_COMPLETE (12 R240): the walk's writes are done and BUSY clears. -/
def execStrandlineWalkComplete (core : BitVec 8) (bank : BitVec 1) (s : State) : Out :=
  .next (s.onCoreOf core.toNat fun c => c.onBankOf bank.toNat fun b =>
    { b with sys := { b.sys with slctl := BitVec.ofNat 64 (setField b.sys.slctl.toNat 2 1 0) } })

/-! ### The request instructions (03 R68-R70) -/

/-- REQUEST_FAULT (03 R69). -/
def requestFault (tval : Nat) : TrapReq := own cRequestFault tval

/-- RQBASE.EN and a batch group, or REQUEST_FAULT 1 (03 R51, R69). -/
def State.needGroup (s : State) : Chk Nat :=
  match s.bgrp with
  | some b => if s.rqEn then .ok b else .error (.trap (requestFault 1))
  | none => .error (.trap (requestFault 1))

/-- BSTEP (21 R341): an end event, and the boundary's start. -/
def execBstep (d a : GReg) (s : State) : Out :=
  finish s do
    s.slFree
    let b ← s.needGroup
    need ((s.g a).toNat == b) (requestFault 4)
    let g := s.group b
    need g.boundary.isNone (requestFault 5)
    let x ← s.readHbm (s.region + 0x2000000 + 64 * b) 64
    let s := s.endEvent 0x10
    let ring := field s.core.bank.sys.slctl.toNat 32 16
    let s := s.onGroup b fun g => { g with boundary := some { desc := x, slring := ring } }
    return (s.writeG d (BitVec.ofNat 64 (g.step + 1)) 1).upTo 3750 (.boundaryPublish (BitVec.ofNat 4 b))

/-- The seated request a selector names, with the checks of RQRD (03 R69).  A slot counts as closed by the NSLOT of the last
boundary that found its descriptor in range, 0 before the first: the spec does not say which NSLOT (DESIGN CHOICE, log 50). -/
def State.seatOf (s : State) (b slot : Nat) : Chk (Option Seat) := do
  let g := s.group b
  need (slot < g.nslot || (g.seat slot).isSome) (requestFault 2)
  return g.seat slot

/-- RQRD (23 R376): the acquire of R64 takes effect when the result lands.  A task's first read of a STEP acquires, whatever
the core's earlier task read (DESIGN CHOICE, log 50). -/
def execRqrd (d a : GReg) (w : BitVec 6) (s : State) : Out :=
  finish s do
    let b ← s.needGroup
    let x := (s.g a).toNat
    need (x / 512 == 0) (requestFault 4)
    if bitAt x 8 then
      let g := s.group b
      if w = 0 then
        let r := s.result (.g d (BitVec.ofNat 64 g.step)) .ctl 24
        return s.send { r with acquire := some { grp := b, step := g.step, published := g.published, map := g.map } }
      else
        let v := match s.mapSeen s.core b with
          | none => 0
          | some m => m.read (8 * w.toNat) 8
        return s.writeG d (BitVec.ofNat 64 v) 24
    else
      let seat ← s.seatOf b (x % 256)
      let v := match seat with
        | some r => r.word w.toNat
        | none => 0
      return s.writeG d (BitVec.ofNat 64 v) 24

/-- The words RQWR changes: index, mask and value (23 R378). -/
def rqwrWords (w x : Nat) : List (Nat × Nat × Nat) :=
  if w = 8 then
    let k := field x 56 7
    [(8, 127 * 2 ^ 56, (if k = 0 ∨ 64 < k then 64 else k) * 2 ^ 56)]
  else [(w, 2 ^ 64 - 1, x)]

/-- RQWR (23 R378); the D field names the source. -/
def execRqwr (d a : GReg) (w : BitVec 6) (s : State) : Out :=
  finish s do
    let b ← s.needGroup
    let x := (s.g a).toNat
    need (field x 8 24 == 0) (requestFault 4)
    let seat ← s.seatOf b (x % 256)
    need ([8, 9, 10, 11, 15].contains w.toNat) (requestFault 3)
    match seat with
    | some r =>
      if r.rqid = x / 2 ^ 32 then
        return s.onGroup b fun g => g.write { slot := x % 256, rqid := r.rqid, words := rqwrWords w.toNat (s.g d).toNat }
      else return s
    | none => return s

/-- RQRET (23 R377). -/
def execRqret (d a : GReg) (k : BitVec 6) (s : State) : Out :=
  finish s do
    let b ← s.needGroup
    let x := (s.g a).toNat
    need (field x 8 24 == 0) (requestFault 4)
    let seat ← s.seatOf b (x % 256)
    match seat with
    | some r =>
      if r.rqid = x / 2 ^ 32 then
        let w : RecWrite :=
          if k = 0 then { slot := x % 256, rqid := r.rqid, words := [(0, 2 ^ 55, 2 ^ 55)] }
          else if k = 1 then { slot := x % 256, rqid := r.rqid, words := [(0, 2 ^ 54, 2 ^ 54)] }
          else { slot := x % 256, rqid := r.rqid, resume := true }
        return (s.onGroup b fun g => g.write w).writeG d 1 24
      else return s.writeG d 0 24
    | none => return s.writeG d 0 24

end Sys2Proof.Machine
end

