-- ==== Sys2Proof/Machine/Flags.lean ====
section
/-!
DEFINITION. Number formats, exact values, rounding and the flags every rounding raises (05 R101-R114,
R119-R121).  A value is held exactly, as a sign, a magnitude and a power of two, and is rounded once.
-/
namespace Sys2Proof.Machine

/-- An exact value, an infinity or a NaN.  `fin neg mag exp` is ± mag x 2^exp; a zero has mag 0. -/
inductive Exact where
  | nan (signalling : Bool)
  | inf (neg : Bool)
  | fin (neg : Bool) (mag : Nat) (exp : Int)
  deriving DecidableEq, Repr

/-- The flags of FFLAGS (05 R116) as a number: NV 1, DZ 2, OF 4, UF 8, NX 16, SNAN_SEEN 32. -/
def fNV : Nat := 1
def fDZ : Nat := 2
def fOF : Nat := 4
def fUF : Nat := 8
def fNX : Nat := 16
def fSNAN : Nat := 32

/-- A binary floating-point format (05 R104). -/
structure Fmt where
  /-- Exponent and mantissa widths. -/
  e : Nat
  m : Nat
  /-- E4M3: no infinity, one NaN. -/
  noInf : Bool := false
  deriving DecidableEq, Repr

def Fmt.fp64 : Fmt := { e := 11, m := 52 }
def Fmt.fp32 : Fmt := { e := 8, m := 23 }
def Fmt.bf16 : Fmt := { e := 8, m := 7 }
def Fmt.fp16 : Fmt := { e := 5, m := 10 }
def Fmt.e5m2 : Fmt := { e := 5, m := 2 }
def Fmt.e4m3 : Fmt := { e := 4, m := 3, noInf := true }

/-- The exponent bias. -/
def Fmt.bias (f : Fmt) : Nat := 2 ^ (f.e - 1) - 1
/-- Exponent of the smallest normal. -/
def Fmt.emin (f : Fmt) : Int := 1 - (f.bias : Int)
/-- Bits of an element. -/
def Fmt.width (f : Fmt) : Nat := 1 + f.e + f.m
/-- The default NaN (05 R105). -/
def Fmt.defaultNan (f : Fmt) : Nat :=
  if f.noInf then 2 ^ (f.e + f.m) - 1 else (2 ^ f.e - 1) * 2 ^ f.m + 2 ^ (f.m - 1)
/-- The sign bit in place. -/
def Fmt.signBit (f : Fmt) (neg : Bool) : Nat := if neg then 2 ^ (f.e + f.m) else 0
/-- The infinity's bits without a sign. -/
def Fmt.infBits (f : Fmt) : Nat := (2 ^ f.e - 1) * 2 ^ f.m
/-- The largest finite value's bits without a sign. -/
def Fmt.maxBits (f : Fmt) : Nat := if f.noInf then 2 ^ (f.e + f.m) - 2 else f.infBits - 1

/-- The value an element's bits mean (05 R104, R105). -/
def Fmt.value (f : Fmt) (x : Nat) : Exact :=
  let neg := bitAt x (f.e + f.m)
  let ex := field x f.m f.e
  let ma := field x 0 f.m
  if f.noInf then
    if x % 2 ^ (f.e + f.m) = 2 ^ (f.e + f.m) - 1 then .nan false
    else if ex = 0 then .fin neg ma (f.emin - f.m)
    else .fin neg (2 ^ f.m + ma) ((ex : Int) - f.bias - f.m)
  else if ex = 2 ^ f.e - 1 then
    if ma = 0 then .inf neg else .nan (!bitAt ma (f.m - 1))
  else if ex = 0 then .fin neg ma (f.emin - f.m)
  else .fin neg (2 ^ f.m + ma) ((ex : Int) - f.bias - f.m)

/-- An element's value with a subnormal read as a zero of its sign (05 R112, DAZ). -/
def Fmt.valueDaz (f : Fmt) (daz : Bool) (x : Nat) : Exact :=
  if daz && field x f.m f.e == 0 then .fin (bitAt x (f.e + f.m)) 0 0 else f.value x

/-- Rounding modes: FMODE.RM's four (05 R109), and stochastic with the element's 16 bits (05 R114). -/
inductive Rm where
  | rne | rtz | up | down
  | sr (r : Nat)
  deriving DecidableEq, Repr

/-- The modes an operation takes from FMODE (05 R109). -/
structure Modes where
  rm : Rm := .rne
  ftz : Bool := false
  daz : Bool := false
  nsat : Bool := false
  snt : Bool := false
  te : Nat := 0
  sre : Bool := false
  det : Bool := false
  fps : Nat := 9
  e2s : Bool := true
  deriving DecidableEq, Repr

/-- The modes an FMODE value sets. -/
def modesOf (fmode : Word) : Modes :=
  let x := fmode.toNat
  { rm := match field x 0 2 with | 0 => .rne | 1 => .rtz | 2 => .up | _ => .down
    ftz := bitAt x 2, daz := bitAt x 3, nsat := bitAt x 4, snt := bitAt x 5, te := field x 6 5
    sre := bitAt x 11, det := bitAt x 12, fps := field x 16 4, e2s := bitAt x 20 }

/-- An element's result: its bits and flags; `snan` marks a signalling-NaN operand under SNT = 1. -/
structure FpOut where
  bits : Nat
  flags : Nat := 0
  snan : Bool := false
  deriving DecidableEq, Repr

/-- Whether a magnitude with quotient `n`, discarded part `rem` of `2^sh` units, and more discarded below
it when `sticky`, rounds away from zero. -/
def roundsUp (rm : Rm) (neg : Bool) (n rem sh : Nat) (sticky : Bool) : Bool :=
  let inexact := rem != 0 || sticky
  match rm with
  | .rne =>
    if sh = 0 then false
    else
      let half := 2 ^ (sh - 1)
      half < rem || (rem == half && (sticky || n % 2 == 1))
  | .rtz => false
  | .up => !neg && inexact
  | .down => neg && inexact
  | .sr r => r < rem * 2 ^ 16 / 2 ^ sh

/-- A magnitude's quotient in units of 2^q and the discarded part: (n, rem, sh). -/
def quotient (mag : Nat) (exp q : Int) : Nat × Nat × Nat :=
  if q ≤ exp then (mag * 2 ^ (exp - q).toNat, 0, 0)
  else
    let sh := (q - exp).toNat
    (mag / 2 ^ sh, mag % 2 ^ sh, sh)

/-- The overflow result's bits without flags: infinity or the largest finite value as the mode rounds, the
largest finite value under `sat`, and E4M3's NaN without it (05 R113).  The mode is the conversion's own, of a VCVT.RNE,
.RTZ or .SR that of its form, under which .SR gives an infinity, where the rule's text speaks of RM (DEDUCED, log 50). -/
def Fmt.overflow (f : Fmt) (rm : Rm) (sat neg : Bool) : Nat :=
  if sat then f.signBit neg + f.maxBits
  else if f.noInf then f.defaultNan
  else
    let toInf := match rm with
      | .rne => true
      | .rtz => false
      | .up => !neg
      | .down => neg
      | .sr _ => true
    f.signBit neg + (if toInf then f.infBits else f.maxBits)

/-- The result of an exact value: rounded once to the format, with the flags that raises (05 R112, R113).
The true magnitude is `mag` x 2^exp, or a little above it when `sticky`. -/
def Fmt.round (f : Fmt) (rm : Rm) (ftz sat : Bool) (neg : Bool) (mag : Nat) (exp : Int)
    (sticky : Bool := false) : FpOut :=
  if mag = 0 ∧ sticky = false then { bits := f.signBit neg }
  else
    let e : Int := (Nat.log2 mag : Int) + exp
    let qn := e - f.m
    let q := max qn (f.emin - f.m)
    let (n, rem, sh) := quotient mag exp q
    let inexact := rem != 0 || sticky
    let n' := if roundsUp rm neg n rem sh sticky then n + 1 else n
    -- tininess after rounding: the value rounded with an unbounded exponent
    let (un, urem, ush) := quotient mag exp qn
    let un' := if roundsUp rm neg un urem ush sticky then un + 1 else un
    let tiny := e < f.emin && !(e + 1 == f.emin && un' == 2 ^ (f.m + 1))
    let code := ((q + f.m + f.bias).toNat * 2 ^ f.m + n') - 2 ^ f.m
    if f.maxBits < code then { bits := f.overflow rm sat neg, flags := fOF + fNX }
    else if ftz && n' < 2 ^ f.m && n' != 0 then { bits := f.signBit neg, flags := fUF + fNX }
    else
      { bits := f.signBit neg + code
        flags := (if inexact then fNX else 0) + (if tiny && inexact then fUF else 0) }

/-- A NaN result: the default NaN with the given flags. -/
def Fmt.nanOut (f : Fmt) (flags : Nat) : FpOut := { bits := f.defaultNan, flags := flags }

/-- Whether a value is a signalling NaN. -/
def Exact.isSnan : Exact → Bool
  | .nan s => s
  | _ => false

/-- Whether a value is a NaN. -/
def Exact.isNan : Exact → Bool
  | .nan _ => true
  | _ => false

/-- Whether a value is finite. -/
def Exact.isFinite : Exact → Bool
  | .fin _ _ _ => true
  | _ => false

/-- Whether a value is a zero. -/
def Exact.isZero : Exact → Bool
  | .fin _ m _ => m == 0
  | _ => false

/-- The sign of a value. -/
def Exact.neg? : Exact → Bool
  | .fin n _ _ => n
  | .inf n => n
  | .nan _ => false

/-- The value with the opposite sign. -/
def Exact.negate : Exact → Exact
  | .fin n m e => .fin (!n) m e
  | .inf n => .inf (!n)
  | .nan s => .nan s

/-- The flags of consuming the operands' signalling NaNs (05 R121): none, or NV and SNAN_SEEN, or with SNT
the mark of a trap, whose TVAL tells of NV where NV is enabled (05 R119, R120) and which merges no flag. -/
def snanOut (f : Fmt) (md : Modes) (anyS : Bool) (quiet : Nat) : FpOut :=
  if anyS then
    if md.snt then { bits := f.defaultNan, flags := fNV, snan := true }
    else f.nanOut (fNV + fSNAN)
  else f.nanOut quiet

/-- A signed integer's sign and magnitude at a power of two. -/
def Exact.ofInt (x : Int) (exp : Int) : Exact := .fin (x < 0) x.natAbs exp

/-- The sum of two finite values as an exact integer times a power of two. -/
def exactSum (n1 : Bool) (m1 : Nat) (e1 : Int) (n2 : Bool) (m2 : Nat) (e2 : Int) : Int × Int :=
  let e := if m1 = 0 then e2 else if m2 = 0 then e1 else min e1 e2
  let a : Int := m1 * 2 ^ (e1 - e).toNat
  let b : Int := m2 * 2 ^ (e2 - e).toNat
  ((if n1 then -a else a) + (if n2 then -b else b), e)

/-- An exact sum rounded: an exact zero takes the sign of equal-signed zeros, else the mode's zero. -/
def Fmt.roundSum (f : Fmt) (md : Modes) (n1 n2 : Bool) (x : Int × Int) : FpOut :=
  if x.1 = 0 then { bits := f.signBit (if n1 = n2 then n1 else md.rm = .down) }
  else f.round md.rm md.ftz false (x.1 < 0) x.1.natAbs x.2

/-- a + b in a format under the modes (25 R407). -/
def Fmt.addNum (f : Fmt) (md : Modes) (a b : Exact) : FpOut :=
  match a, b with
  | .nan s, .nan t => snanOut f md (s || t) 0
  | .nan s, _ => snanOut f md s 0
  | _, .nan t => snanOut f md t 0
  | .inf n, .inf k => if n = k then { bits := f.signBit n + f.infBits } else f.nanOut fNV
  | .inf n, _ => { bits := f.signBit n + f.infBits }
  | _, .inf k => { bits := f.signBit k + f.infBits }
  | .fin n m e, .fin k l g =>
    if m = 0 ∧ l = 0 then { bits := f.signBit (if n = k then n else md.rm = .down) }
    else f.roundSum md n k (exactSum n m e k l g)

/-- The exact product, or the special one: none for 0 x infinity. -/
def mulNum (a b : Exact) : Option Exact :=
  match a, b with
  | .nan s, .nan t => some (.nan (s || t))
  | .nan s, _ => some (.nan s)
  | _, .nan t => some (.nan t)
  | .inf n, .inf k => some (.inf (n != k))
  | .inf n, .fin k l _ => if l = 0 then none else some (.inf (n != k))
  | .fin n m _, .inf k => if m = 0 then none else some (.inf (n != k))
  | .fin n m e, .fin k l g => some (.fin (n != k) (m * l) (e + g))

/-- a x b in a format under the modes. -/
def Fmt.mulNum (f : Fmt) (md : Modes) (a b : Exact) : FpOut :=
  match Machine.mulNum a b with
  | none => f.nanOut fNV
  | some (.nan s) => snanOut f md s 0
  | some (.inf n) => { bits := f.signBit n + f.infBits }
  | some (.fin n m e) => f.round md.rm md.ftz false n m e

/-- a x b + d with one rounding; 0 x infinity raises NV whatever the addend (25 R407). -/
def Fmt.fmaNum (f : Fmt) (md : Modes) (a b d : Exact) : FpOut :=
  let anyS := a.isSnan || b.isSnan || d.isSnan
  if anyS then snanOut f md true 0
  else match Machine.mulNum a b with
    | none => f.nanOut fNV
    | some p => f.addNum md p d

/-- The order of two values that are no NaNs, zeros equal: less, equal or greater. -/
def cmpNum (a b : Exact) : Ordering :=
  match a, b with
  | .inf n, .inf k => if n = k then .eq else if n then .lt else .gt
  | .inf n, _ => if n then .lt else .gt
  | _, .inf k => if k then .gt else .lt
  | .fin n m e, .fin k l g => compare (exactSum n m e (!k) l g).1 0
  | _, _ => .eq

/-- maximumNumber or minimumNumber of two elements (05 R119): a quiet NaN loses to a number, -0 is below
+0.  Answers the bits of the operand taken, after DAZ. -/
def Fmt.maxmin (f : Fmt) (md : Modes) (isMax : Bool) (x y : Nat) : FpOut :=
  let a := f.valueDaz md.daz x
  let b := f.valueDaz md.daz y
  let bitsOf (n : Exact) (z : Nat) : Nat := if n.isZero then f.signBit n.neg? else z
  let anyS := a.isSnan || b.isSnan
  let fl := if anyS then fNV + fSNAN else 0
  if anyS && md.snt then { bits := f.defaultNan, flags := fNV, snan := true }
  else if a.isNan && b.isNan then f.nanOut fl
  else if a.isNan then { bits := bitsOf b y, flags := fl }
  else if b.isNan then { bits := bitsOf a x, flags := fl }
  else
    let less := match cmpNum a b with
      | .lt => true
      | .gt => false
      | .eq => a.neg? && !b.neg?
    { bits := if less = isMax then bitsOf b y else bitsOf a x, flags := fl }

/-- Correctly rounded quotient of finite non-zero magnitudes: 64 bits beyond the format's precision. -/
def Fmt.divMag (f : Fmt) (rm : Rm) (ftz : Bool) (neg : Bool) (m : Nat) (e : Int) (l : Nat) (g : Int) : FpOut :=
  let sh := Nat.log2 l + f.m + 8
  f.round rm ftz false neg (m * 2 ^ sh / l) (e - g - sh) (m * 2 ^ sh % l != 0)

/-- a / b of values, for the operations whose definition divides (07 R164, 13, 17). -/
def Fmt.divNum (f : Fmt) (md : Modes) (a b : Exact) : FpOut :=
  match a, b with
  | .nan s, .nan t => snanOut f md (s || t) 0
  | .nan s, _ => snanOut f md s 0
  | _, .nan t => snanOut f md t 0
  | .inf _, .inf _ => f.nanOut fNV
  | .inf n, .fin k _ _ => { bits := f.signBit (n != k) + f.infBits }
  | .fin n _ _, .inf k => { bits := f.signBit (n != k) }
  | .fin n m e, .fin k l g =>
    if l = 0 then
      if m = 0 then f.nanOut fNV else { bits := f.signBit (n != k) + f.infBits, flags := fDZ }
    else if m = 0 then { bits := f.signBit (n != k) }
    else f.divMag md.rm md.ftz (n != k) m e l g

/-- The integer square root, one bit at a time from bit `k - 1`. -/
def isqrtFrom (x r : Nat) : Nat → Nat
  | 0 => r
  | k + 1 => if (r + 2 ^ k) * (r + 2 ^ k) ≤ x then isqrtFrom x (r + 2 ^ k) k else isqrtFrom x r k

/-- The integer square root. -/
def isqrt (x : Nat) : Nat := isqrtFrom x 0 (Nat.log2 x / 2 + 1)

/-- The correctly rounded square root of a positive magnitude. -/
def Fmt.sqrtMag (f : Fmt) (rm : Rm) (m : Nat) (e : Int) : FpOut :=
  let k := 2 * (f.m + 8) + (if e % 2 = 0 then 0 else 1)
  let x := m * 2 ^ k
  let r := isqrt x
  f.round rm false false false r ((e - k) / 2) (r * r != x)

/-- FP32 arithmetic with FMODE ignored: RNE, subnormals kept, the default NaN (21 R329, rne32). -/
def plain : Modes := {}

/-- The value of FP32 bits. -/
def v32 (x : Nat) : Exact := Fmt.fp32.value x
/-- rne32(x + y). -/
def add32 (x y : Nat) : Nat := (Fmt.fp32.addNum plain (v32 x) (v32 y)).bits
/-- rne32(x - y). -/
def sub32 (x y : Nat) : Nat := (Fmt.fp32.addNum plain (v32 x) (v32 y).negate).bits
/-- rne32(x × y). -/
def mul32 (x y : Nat) : Nat := (Fmt.fp32.mulNum plain (v32 x) (v32 y)).bits
/-- rne32(x ÷ y). -/
def div32 (x y : Nat) : Nat := (Fmt.fp32.divNum plain (v32 x) (v32 y)).bits
/-- sqrt32. -/
def sqrt32 (x : Nat) : Nat :=
  match v32 x with
  | .nan _ => Fmt.fp32.defaultNan
  | .inf n => if n then Fmt.fp32.defaultNan else Fmt.fp32.infBits
  | .fin n m e => if m = 0 then x else if n then Fmt.fp32.defaultNan else (Fmt.fp32.sqrtMag .rne m e).bits

/-- Rounds an exact value to a format, RNE, with no flag kept: for values that are no NaN of their own. -/
def Fmt.ofNum (f : Fmt) (x : Exact) : Nat :=
  match x with
  | .nan _ => f.defaultNan
  | .inf n => if f.noInf then f.defaultNan else f.signBit n + f.infBits
  | .fin n m e => (f.round .rne false false n m e).bits

/-- pairwise (05 R123): one level of the tree, then `k` levels. -/
def pairLevel {α : Type} (op : α → α → α) : List α → List α
  | [] => []
  | [x] => [x]
  | x :: y :: r => op x y :: pairLevel op r

/-- Reduction by pairs in position order, at most `2^k` leaves (05 R123). -/
def pairwise {α : Type} (op : α → α → α) : Nat → List α → List α
  | 0, l => l
  | k + 1, l => pairwise op k (pairLevel op l)

/-- The sum of FP32 values by pairs (05 R123), +0 of none. -/
def pairSum32 (l : List Nat) : Nat := (pairwise add32 20 l).headD 0

/-! ### Elements of a register (05 R101) -/

/-- Bits of an element of a tag. -/
def tagBits (tag : Nat) : Nat :=
  match tag with
  | 2 => 16 | 3 => 16
  | 6 => 4
  | 10 => 64
  | 1 => 32 | 8 => 32
  | _ => 8

/-- Elements of a v register of a tag. -/
def tagCount (tag : Nat) : Nat := 2048 / tagBits tag

/-- The lane an element lies in; an FP64 element's even lane. -/
def laneOf (tag i : Nat) : Nat := i * tagBits tag / 32

/-- The bits of element `i` of a v register. -/
def elem (x : Words) (tag i : Nat) : Nat :=
  if tag = 10 then (x.at (2 * i)).toNat + 2 ^ 32 * (x.at (2 * i + 1)).toNat
  else field (x.at (laneOf tag i)).toNat (i * tagBits tag % 32) (tagBits tag)

/-- A v register's value of a tag from its elements' bits. -/
def ofElems (tag : Nat) (xs : List Nat) : Words :=
  let b := tagBits tag
  let all := xs.foldr (fun x acc => acc * 2 ^ b + x % 2 ^ b) 0
  SMap.tabulate 0 (List.range 64) fun i => BitVec.ofNat 32 (all / 2 ^ (32 * i))

/-- Whether the mask selects an element: the bit of its lane, for FP64 of its even lane (25 R406). -/
def selected (mask : Word) (tag i : Nat) : Bool := bitAt mask.toNat (laneOf tag i)

/-- The lanes a mask lets an instruction write: for FP64 the even lane's bit governs both. -/
def writeMask (mask : Word) (tag : Nat) : Word :=
  if tag = 10 then
    let ev := mask &&& 0x5555555555555555#64
    ev ||| (ev <<< 1)
  else mask

/-- The floating format of a tag. -/
def tagFmt (tag : Nat) : Fmt :=
  match tag with
  | 10 => Fmt.fp64
  | 2 => Fmt.bf16
  | 3 => Fmt.fp16
  | 4 => Fmt.e4m3
  | 5 => Fmt.e5m2
  | _ => Fmt.fp32

/-- The flags of several elements, merged. -/
def flagsOf (l : List FpOut) : Nat := l.foldl (fun a o => a ||| o.flags) 0

end Sys2Proof.Machine
end

