-- ==== Sys2Proof/Machine/Sfn.lean ====
section
/-!
DEFINITION. The functions of VSFN (25 R423): each is the exact value of a real function rounded once.  An
irrational value is enclosed between two fixed-point numbers at growing precision until both ends round to
the same bits; the true value lies strictly between them, so the discarded part is never zero.
-/
namespace Sys2Proof.Machine

/-- An enclosure lo < x < hi of a non-negative real, in units of 2^-p. -/
structure Enc where
  lo : Nat
  hi : Nat
  deriving DecidableEq, Repr

/-- The floored terms of exp(x) from term `k` on, x below 1 in units of 2^-p. -/
def expTerms (p x : Nat) : Nat → Nat → Nat → Nat → Nat
  | 0, _, _, sum => sum
  | fuel + 1, k, term, sum =>
    let t := term * x / 2 ^ p / k
    if t = 0 then sum else expTerms p x fuel (k + 1) t (sum + t)

/-- An enclosure of exp(x), x in [0, 1]. -/
def encExp (p : Nat) (x : Enc) : Enc :=
  let e (y : Nat) := expTerms p y (p + 8) 1 (2 ^ p) (2 ^ p)
  { lo := e x.lo - 1, hi := e x.hi + 4 * p + 64 }

/-- The floored terms of the series of 2 atanh z = ln((1+z)/(1-z)) from z^k/k on. -/
def atanhTerms (p z2 : Nat) : Nat → Nat → Nat → Nat → Nat
  | 0, _, _, sum => sum
  | fuel + 1, k, pow, sum =>
    let t := pow / k
    if t = 0 then sum else atanhTerms p z2 fuel (k + 2) (pow * z2 / 2 ^ p) (sum + t)

/-- An enclosure of ln(a/b) for b ≤ a ≤ 2b. -/
def encLn (p a b : Nat) : Enc :=
  let z := (a - b) * 2 ^ p / (a + b)
  let s := 2 * atanhTerms p (z * z / 2 ^ p) (p + 8) 1 z 0
  { lo := s, hi := s + 8 * p + 64 }

/-- An enclosure of ln 2. -/
def encLn2 (p : Nat) : Enc := encLn p 2 1

/-- Product of enclosures. -/
def Enc.mul (p : Nat) (x y : Enc) : Enc :=
  { lo := x.lo * y.lo / 2 ^ p, hi := x.hi * y.hi / 2 ^ p + 1 }

/-- Quotient of enclosures, the divisor positive. -/
def Enc.div (p : Nat) (x y : Enc) : Enc :=
  { lo := x.lo * 2 ^ p / y.hi, hi := x.hi * 2 ^ p / y.lo + 1 }

/-- Sum of enclosures. -/
def Enc.add (x y : Enc) : Enc := { lo := x.lo + y.lo, hi := x.hi + y.hi }

/-- A magnitude m x 2^e as an enclosure in units of 2^-p. -/
def encOf (p m : Nat) (e : Int) : Enc :=
  let sh := e + p
  if 0 ≤ sh then { lo := m * 2 ^ sh.toNat, hi := m * 2 ^ sh.toNat }
  else { lo := m / 2 ^ (-sh).toNat, hi := m / 2 ^ (-sh).toNat + 1 }

/-- exp(-t) for t ≥ 0: t = k ln 2 + r, exp(-t) = 2^-k / exp(r). -/
def encExpNeg (p : Nat) (t : Enc) : Enc :=
  let l := encLn2 p
  let k := t.lo / l.hi
  let r : Enc := { lo := t.lo - k * l.hi, hi := min (t.hi - k * l.lo) (2 ^ p) }
  let q := Enc.div p { lo := 2 ^ p, hi := 2 ^ p } (encExp p r)
  { lo := q.lo / 2 ^ k, hi := q.hi / 2 ^ k + 1 }

/-- The arctangent of 1/n: floored terms, alternating. -/
def atanInv (p n : Nat) : Nat → Nat → Nat → Int → Int
  | 0, _, _, sum => sum
  | fuel + 1, k, pow, sum =>
    let t := pow / k
    if t = 0 then sum
    else atanInv p n fuel (k + 2) (pow / (n * n)) (if k % 4 = 1 then sum + t else sum - t)

/-- An enclosure of pi (Machin's formula). -/
def encPi (p : Nat) : Enc :=
  let a := atanInv p 5 (p + 8) 1 (2 ^ p / 5) 0
  let b := atanInv p 239 (p + 8) 1 (2 ^ p / 239) 0
  let x := (16 * a - 4 * b).toNat
  { lo := x - 64 * p - 64, hi := x + 64 * p + 64 }

/-- An enclosure of 2 sqrt(2/pi) = sqrt(8/pi). -/
def encRoot8Pi (p : Nat) : Enc :=
  let q := Enc.div p { lo := 8 * 2 ^ p, hi := 8 * 2 ^ p } (encPi p)
  { lo := isqrt (q.lo * 2 ^ p), hi := isqrt (q.hi * 2 ^ p) + 1 }

/-- 1 / (1 + exp(-t)) for t ≥ 0. -/
def encSigm (p : Nat) (t : Enc) : Enc :=
  let one : Enc := { lo := 2 ^ p, hi := 2 ^ p }
  Enc.div p one (one.add (encExpNeg p t))

/-- 1 / (1 + exp(t)) = exp(-t) / (1 + exp(-t)) for t ≥ 0. -/
def encSigmNeg (p : Nat) (t : Enc) : Enc :=
  let one : Enc := { lo := 2 ^ p, hi := 2 ^ p }
  let x := encExpNeg p t
  Enc.div p x (one.add x)

/-- (1 - exp(-2t)) / (1 + exp(-2t)) for t > 0. -/
def encTanh (p : Nat) (t : Enc) : Enc :=
  let one : Enc := { lo := 2 ^ p, hi := 2 ^ p }
  let x := encExpNeg p { lo := 2 * t.lo, hi := 2 * t.hi }
  Enc.div p { lo := 2 ^ p - x.hi, hi := 2 ^ p - x.lo } (one.add x)

/-- Rounds an enclosed magnitude times 2^e: the two ends' results when they agree. -/
def roundEnc (rm : Rm) (ftz neg : Bool) (p : Nat) (e : Int) (x : Enc) : Option FpOut :=
  let lo := Fmt.fp32.round rm ftz false neg x.lo (e - p) true
  let hi := Fmt.fp32.round rm ftz false neg (x.hi - 1) (e - p) true
  if x.lo ≠ 0 ∧ lo = hi then some lo else none

/-- The first precision of the list at which the enclosure decides the result; the last one's lower end
if none does. -/
def settle (rm : Rm) (ftz neg : Bool) (e : Int) (enc : Nat → Enc) : List Nat → FpOut
  | [] => Fmt.fp32.round rm ftz false neg (enc 4096).lo (e - 4096) true
  | p :: r =>
    match roundEnc rm ftz neg p e (enc p) with
    | some o => o
    | none => settle rm ftz neg e enc r

/-- The precisions tried. -/
def precisions : List Nat := [96, 192, 384, 768, 1536, 3072]

/-- A magnitude kept below 2^k: above it the function's result no longer depends on it. -/
def capMag (k : Nat) (m : Nat) (e : Int) : Nat × Int :=
  if (Nat.log2 m : Int) + e ≥ k then (1, (k : Int)) else (m, e)

/-- The functions of VSFN (25 R423). -/
inductive Sfn where
  | exp2 | log2 | rcp | rsq | tanh | sigm | silu | gelu
  deriving DecidableEq, Repr

/-- A function's code (06 R135). -/
def Sfn.ofCode : Nat → Sfn
  | 0 => .exp2 | 1 => .log2 | 2 => .rcp | 3 => .rsq | 4 => .tanh | 5 => .sigm | 6 => .silu | _ => .gelu

/-- EXP2 of a finite non-zero value: 2^n times 2^f, f the fraction. -/
def sfnExp2 (rm : Rm) (ftz neg : Bool) (m : Nat) (e : Int) : FpOut :=
  let (m, e) := capMag 12 m e
  -- the value as an integer number of 2^-k units, k at most 149 + 23
  let k := (-e).toNat
  let x : Int := (if neg then -1 else 1) * ((m * 2 ^ e.toNat : Nat) : Int)
  let n := x / ((2 ^ k : Nat) : Int)
  let fr := (x - n * ((2 ^ k : Nat) : Int)).toNat
  if fr = 0 then Fmt.fp32.round rm ftz false false 1 n
  else
    settle rm ftz false n (fun p =>
      let f : Enc := if k ≤ p then { lo := fr * 2 ^ (p - k), hi := fr * 2 ^ (p - k) }
        else { lo := fr / 2 ^ (k - p), hi := fr / 2 ^ (k - p) + 1 }
      encExp p (Enc.mul p f (encLn2 p))) precisions

/-- LOG2 of a positive finite value m x 2^e: exponent plus log2 of the significand. -/
def sfnLog2 (rm : Rm) (ftz : Bool) (m : Nat) (e : Int) : FpOut :=
  let l := Nat.log2 m
  let n := (l : Int) + e
  if m = 2 ^ l then
    if n = 0 then { bits := 0 }
    else Fmt.fp32.round rm ftz false (n < 0) n.natAbs 0
  else
    -- log2 = n + log2(m / 2^l), the significand between 1 and 2
    let frac (p : Nat) : Enc := Enc.div p (encLn p m (2 ^ l)) (encLn2 p)
    if 0 ≤ n then
      settle rm ftz false 0 (fun p => { lo := n.toNat * 2 ^ p + (frac p).lo, hi := n.toNat * 2 ^ p + (frac p).hi }) precisions
    else
      settle rm ftz true 0 (fun p =>
        { lo := (-n).toNat * 2 ^ p - (frac p).hi, hi := (-n).toNat * 2 ^ p - (frac p).lo }) precisions

/-- The argument 2 x sqrt(2/pi) x (y + 0.044715 y^3) of GELU's sigmoid, y = m x 2^e > 0. -/
def encGeluArg (p m : Nat) (e : Int) : Enc :=
  let y := encOf p m e
  let y3 := Enc.mul p y (Enc.mul p y y)
  let t : Enc := { lo := y.lo + y3.lo * 44715 / 1000000, hi := y.hi + y3.hi * 44715 / 1000000 + 1 }
  Enc.mul p t (encRoot8Pi p)

/-- The value of a function at a value that is no NaN (25 R423), all flags as rounding gives them. -/
def sfnNum (fn : Sfn) (rm : Rm) (ftz : Bool) (x : Exact) : FpOut :=
  let f := Fmt.fp32
  let inf (n : Bool) (fl : Nat) : FpOut := { bits := f.signBit n + f.infBits, flags := fl }
  let one (n : Bool) : FpOut := { bits := f.signBit n + 0x3F800000 }
  match fn, x with
  | _, .nan _ => f.nanOut 0
  | .exp2, .inf n => if n then { bits := 0 } else inf false 0
  | .exp2, .fin n m e => if m = 0 then one false else sfnExp2 rm ftz n m e
  | .log2, .inf n => if n then f.nanOut fNV else inf false 0
  | .log2, .fin n m e =>
    if m = 0 then inf true fDZ else if n then f.nanOut fNV else sfnLog2 rm ftz m e
  | .rcp, .inf n => { bits := f.signBit n }
  | .rcp, .fin n m e => if m = 0 then inf n fDZ else f.divMag rm ftz n 1 0 m e
  | .rsq, .inf n => if n then f.nanOut fNV else { bits := 0 }
  | .rsq, .fin n m e =>
    if m = 0 then inf n fDZ
    else if n then f.nanOut fNV
    else
      -- 1 / sqrt(m 2^e): with e made even, sqrt(2^(2k) / m) in units of 2^-k
      let (m, e) := if e % 2 = 0 then (m, e) else (2 * m, e - 1)
      let k := Nat.log2 m + 64
      let q := 2 ^ (2 * k) / m
      let r := isqrt q
      f.round rm ftz false false r (-(k : Int) - e / 2) (r * r * m != 2 ^ (2 * k))
  | .tanh, .inf n => one n
  | .tanh, .fin n m e =>
    if m = 0 then { bits := f.signBit n }
    else
      let (m, e) := capMag 12 m e
      settle rm ftz n 0 (fun p => encTanh p (encOf p m e)) precisions
  | .sigm, .inf n => if n then { bits := 0 } else one false
  | .sigm, .fin n m e =>
    if m = 0 then { bits := 0x3F000000 }
    else
      let (m, e) := capMag 12 m e
      settle rm ftz false 0 (fun p => if n then encSigmNeg p (encOf p m e) else encSigm p (encOf p m e)) precisions
  | .silu, .inf n => if n then { bits := f.signBit true } else inf false 0
  | .silu, .fin n m e =>
    if m = 0 then { bits := f.signBit n }
    else
      -- y x sigm(y), with y's own power of two kept outside
      let (cm, ce) := capMag 12 m e
      settle rm ftz n (e + Nat.log2 m) (fun p =>
        Enc.mul p (encOf p m (-(Nat.log2 m : Int)))
          (if n then encSigmNeg p (encOf p cm ce) else encSigm p (encOf p cm ce))) precisions
  | .gelu, .inf n => if n then { bits := f.signBit true } else inf false 0
  | .gelu, .fin n m e =>
    if m = 0 then { bits := f.signBit n }
    else
      let (cm, ce) := capMag 5 m e
      settle rm ftz n (e + Nat.log2 m) (fun p =>
        Enc.mul p (encOf p m (-(Nat.log2 m : Int)))
          (let a := encGeluArg p cm ce
           if n then encSigmNeg p a else encSigm p a)) precisions

/-- A function's result under the modes: DAZ and FTZ, the flags of its class alone (05 R119), signalling
NaNs under 05 R121. -/
def sfn (fn : Sfn) (md : Modes) (bits : Nat) : FpOut :=
  let x := Fmt.fp32.valueDaz md.daz bits
  match x with
  | .nan s => snanOut Fmt.fp32 md s 0
  | _ =>
    let o := sfnNum fn md.rm md.ftz x
    match fn with
    | .exp2 => o
    | .rcp => o
    | _ => { o with flags := o.flags &&& (fNV + fDZ + fNX) }

/-- The bits of a VSFN function under RNE, for the units that take them (07 R158, 08, 13, 17). -/
def sfn32 (fn : Sfn) (bits : Nat) : Nat := (sfn fn plain bits).bits

end Sys2Proof.Machine
end

