-- ==== Sys2Proof/Machine/Convert.lean ====
section
/-!
DEFINITION. Conversions between formats: single values (05 R113, R114, 25 R410), E2M1 blocks (05 R107,
R108, 25 R411), and the FP64 slices of VSPLIT and VJOIN (05 R125, R126).
-/
namespace Sys2Proof.Machine

/-- Signed ranges of the integer formats: INT8 and SLICE8, INT32, UINT8 (05 R106). -/
def intRange (tag : Nat) : Int × Int :=
  match tag with
  | 8 => (-2147483648, 2147483647)
  | 9 => (0, 255)
  | _ => (-128, 127)

/-- Whether a tag is an integer format. -/
def isIntTag (tag : Nat) : Bool := tag == 7 || tag == 8 || tag == 9 || tag == 11

/-- An integer element's value. -/
def intValue (tag x : Nat) : Int :=
  match tag with
  | 8 => signed 32 x
  | 9 => x % 256
  | _ => signed 8 x

/-- An integer in an integer format, saturated with NV (05 R113). -/
def satInt (tag : Nat) (x : Int) (inexact : Bool) : FpOut :=
  let r := intRange tag
  if x < r.1 then { bits := unsignedOf (tagBits tag) r.1, flags := fNV }
  else if r.2 < x then { bits := unsignedOf (tagBits tag) r.2, flags := fNV }
  else { bits := unsignedOf (tagBits tag) x, flags := if inexact then fNX else 0 }

/-- A value converted to a tag other than 6, rounded by `rm` (05 R113, 25 R410). -/
def convNum (md : Modes) (rm : Rm) (tag : Nat) (x : Exact) : FpOut :=
  if isIntTag tag then
    match x with
    | .nan s => if s then (if md.snt then { bits := 0, flags := fNV, snan := true } else { bits := 0, flags := fNV + fSNAN })
      else { bits := 0, flags := fNV }
    | .inf n => { bits := unsignedOf (tagBits tag) (if n then (intRange tag).1 else (intRange tag).2), flags := fNV }
    | .fin n m e =>
      if m = 0 then { bits := 0 }
      else
        -- a magnitude of 2^40 or more is beyond every integer format
        if 40 ≤ (Nat.log2 m : Int) + e then satInt tag (if n then -(2 ^ 40) else 2 ^ 40) false
        else
          let (k, rem, sh) := quotient m e 0
          let k := if roundsUp rm n k rem sh false then k + 1 else k
          satInt tag (if n then -(k : Int) else k) (rem != 0)
  else
    let f := tagFmt tag
    match x with
    | .nan s => snanOut f md s 0
    | .inf n =>
      if f.noInf then { bits := f.overflow rm md.nsat n, flags := fOF + fNX }
      else { bits := f.signBit n + f.infBits }
    | .fin n m e => f.round rm md.ftz md.nsat n m e

/-- The magnitudes of E2M1 codes 0 to 7, in halves (05 R104). -/
def e2m1Halves : List Nat := [0, 1, 2, 3, 4, 6, 8, 12]

/-- e2m1value (05 R107). -/
def e2m1value (e2s : Bool) (c sc sp : Nat) : Exact :=
  if sc = 0xFF then .nan false
  else if c = 8 then
    if e2s then
      match Fmt.e4m3.value sp with
      | .fin n m e => .fin n m (e + sc - 127)
      | _ => .nan false
    else .fin false 0 0
  else .fin (bitAt c 3) (e2m1Halves.getD (c % 8) 0) ((sc : Int) - 128)

/-- A block's coding (05 R108): scale, special, the 32 codes, the flags of each element and of the block. -/
structure E2Block where
  sc : Nat
  sp : Nat
  codes : List Nat
  flags : List Nat
  blockFlags : Nat
  deriving DecidableEq, Repr

/-- A finite value in units of 2^u, u at or below its own exponent. -/
def unitsOf (u : Int) : Exact → Int
  | .fin n m e => (if n then -1 else 1) * ((m * 2 ^ (e - u).toNat : Nat) : Int)
  | _ => 0

/-- floor(log2) of a magnitude's value. -/
def log2Num : Exact → Int
  | .fin _ m e => (Nat.log2 m : Int) + e
  | _ => 0

/-- The value with its power of two moved by `k`. -/
def Exact.scale (k : Int) : Exact → Exact
  | .fin n m e => .fin n m (e + k)
  | x => x

/-- The index of the nearest of a list of candidate magnitudes, ties to an even index. -/
def nearestIdx (y : Int) : List Int → Nat → Nat → Int → Nat
  | [], _, best, _ => best
  | g :: r, i, best, dist =>
    let d := (y - g).natAbs
    if (d : Int) < dist || ((d : Int) = dist && i % 2 == 0 && best % 2 == 1) then nearestIdx y r (i + 1) i d
    else nearestIdx y r (i + 1) best dist

/-- Codes one scaled element y: the code, and its flags (05 R108). -/
def e2m1code (e2s : Bool) (sp : Nat) (y : Exact) : Nat × Nat :=
  let e := match y with
    | .fin _ _ e => e
    | _ => 0
  let u := min e (-20)
  let yi := unitsOf u y
  let mags := e2m1Halves.map fun h => unitsOf u (.fin false h (-1))
  let i := nearestIdx yi.natAbs mags 0 0 ((yi.natAbs : Int) + 1)
  let mag := mags.getD i 0
  let val := if yi < 0 then -mag else mag
  let code := if i = 0 then 0 else if yi < 0 then i + 8 else i
  let sv := unitsOf u (Fmt.e4m3.value sp)
  let useSp := e2s && (yi - sv).natAbs < (yi - val).natAbs
  let dec := if useSp then sv else val
  (if useSp then 8 else code,
    (if dec = yi then 0 else fNX) + (if dec = 0 ∧ yi ≠ 0 then fUF else 0))

/-- Converts a block of 32 values, after DAZ, to E2M1 (05 R108). -/
def e2m1block (md : Modes) (xs : List Exact) : E2Block :=
  let zeros := List.replicate 32 0
  if xs.any fun x => !x.isFinite then
    { sc := 0xFF, sp := 0x7F, codes := zeros, flags := zeros
      blockFlags := fNV + (if xs.any Exact.isSnan then fSNAN else 0) }
  else if xs.all Exact.isZero then { sc := 127, sp := 0, codes := zeros, flags := zeros, blockFlags := 0 }
  else
    let absn (x : Exact) : Exact := match x with
      | .fin _ m e => .fin false m e
      | y => y
    let mx := xs.foldl (fun a x => if cmpNum (absn a) (absn x) = .lt then x else a) (.fin false 0 0)
    let e0 := log2Num mx - 2
    let code (e : Int) (sp : Nat) (extra : Nat) : E2Block :=
      let cs := xs.map fun x => e2m1code md.e2s sp (x.scale (-e))
      { sc := (e + 127).toNat, sp := sp, codes := cs.map Prod.fst, flags := cs.map Prod.snd, blockFlags := extra }
    let spOf (e : Int) (sat : Bool) : Nat := match mx with
      | .fin n m g => (Fmt.e4m3.round .rne false sat n m (g - e)).bits
      | _ => 0
    if 127 < e0 then
      if md.nsat then code 127 (spOf 127 true) (fOF + fNX)
      else { sc := 0xFF, sp := 0x7F, codes := zeros, flags := zeros, blockFlags := fOF + fNX }
    else
      let e := max e0 (-127)
      code e (spOf e true) 0

/-- The value of element `i` of a v register of a tag, for a conversion: DAZ for the floating formats,
block values for E2M1 (25 R411). -/
def convSource (md : Modes) (tag : Nat) (x : Words) (i : Nat) : Exact :=
  if tag = 6 then
    if i < 64 then
      let blk := (x.at 8).toNat
      let k := i / 32
      e2m1value md.e2s (elem x 6 i) (field blk (16 * k) 8) (field blk (16 * k + 8) 8)
    else .fin false 0 0
  else if isIntTag tag then Exact.ofInt (intValue tag (elem x tag i)) 0
  else (tagFmt tag).valueDaz md.daz (elem x tag i)

/-! ### FP64 slices (05 R125, R126, 25 R412, R425) -/

/-- The class nibble of an element (25 R425). -/
def sliceClass : Exact → Nat
  | .fin n m _ => if m = 0 then (if n then 3 else 2) else (if n then 1 else 0)
  | .inf n => if n then 5 else 4
  | .nan _ => 6

/-- The slices 1 to s of an element for block exponent e: y = x 2^-(e+1), digits of 7 bits truncated. -/
def slices (e : Int) (x : Exact) : Nat → List Int
  | s =>
    match x with
    | .fin n m g =>
      -- |y| = m 2^(g - e - 1): floor(|y| 2^(7k)) mod 2^7 is digit k
      (List.range s).map fun (k : Nat) =>
        let sh : Int := g - e - 1 + 7 * ((k : Int) + 1)
        let q : Nat := if 0 ≤ sh then m * 2 ^ sh.toNat else m / 2 ^ (-sh).toNat
        let d : Int := ((q % 128 : Nat) : Int)
        if n then -d else d
    | _ => List.replicate s 0

/-- The block exponent (05 R125): floor(log2) of the largest finite magnitude, 0 if none. -/
def blockExp (xs : List Exact) : Int :=
  let l := xs.filter fun x => x.isFinite && !x.isZero
  match l with
  | [] => 0
  | x :: r => r.foldl (fun a y => max a (log2Num y)) (log2Num x)

/-- The side sum of a column (05 R126): none, or NaN or a signed infinity, with NV. -/
def sideSum (cls : List (Nat × Nat)) : Option FpOut :=
  let hits := cls.filter fun c => 4 ≤ c.1 || 4 ≤ c.2
  if hits.isEmpty then none
  else
    let negOf (c : Nat) : Bool := c % 2 == 1
    let zero (c : Nat) : Bool := c == 2 || c == 3
    let anyNan := hits.any fun c => c.1 == 6 || c.2 == 6
    let infZero := hits.any fun c => (zero c.1 && (c.2 == 4 || c.2 == 5)) || (zero c.2 && (c.1 == 4 || c.1 == 5))
    let infs := hits.filter fun c => !(c.1 == 6 || c.2 == 6 || zero c.1 || zero c.2)
    let pos := infs.any fun c => negOf c.1 == negOf c.2
    let neg := infs.any fun c => negOf c.1 != negOf c.2
    let nv := infZero || (pos && neg)
    some (if anyNan || nv then { bits := Fmt.fp64.defaultNan, flags := if nv then fNV else 0 }
      else { bits := Fmt.fp64.signBit neg + Fmt.fp64.infBits })

end Sys2Proof.Machine
end

