-- ==== Sys2Proof/Machine/Vector.lean ====
section
/-!
DEFINITION. The vector instructions (25 R406-R425), but for VPOP.  Sources are read at issue, tags are
checked at issue, results and their flags land in the vector domain.
-/
namespace Sys2Proof.Machine

/-- The modes in force for the executing bank. -/
def State.modes (s : State) : Modes := modesOf s.core.bank.sys.fmode

/-- The executing bank's tag of a v register. -/
def State.tag (s : State) (r : Nat) : Nat := s.core.bank.tagV r

/-- TAG_MISMATCH for a v register (05 R103). -/
def State.vMismatch (s : State) (r : Nat) : TrapReq := tagMismatch (r + s.tag r * 256)

/-- A V slot freezes while a RELAX or RELAXB with AHD above 0 runs (07 R164). -/
def State.vFree (s : State) : Chk Unit :=
  match s.core.relax with
  | some r => if 0 < r.ahd then .error (.hold 8 true none) else .ok ()
  | none => .ok ()

/-- Tags the arithmetic forms accept (05 R102). -/
def arithTag (t : Nat) : Bool := t == 1 || t == 2 || t == 3 || t == 8 || t == 10

/-- All registers carry one accepted tag; the first offender in operand order is reported. -/
def State.sameTag (s : State) : List Nat → Chk Unit
  | [] => .ok ()
  | r :: rest =>
    match (r :: rest).find? (fun q => !arithTag (s.tag q)) with
    | some q => .error (.trap (s.vMismatch q))
    | none => match rest.find? (fun q => s.tag q ≠ s.tag r) with
      | some q => .error (.trap (s.vMismatch q))
      | none => .ok ()

/-- Two registers of equal tags, or one of them 0; the non-zero tag (25 R413, R422). -/
def State.eitherTag (s : State) (a b : Nat) : Chk Nat :=
  if s.tag a = s.tag b ∨ s.tag b = 0 then .ok (s.tag a)
  else if s.tag a = 0 then .ok (s.tag b)
  else .error (.trap (s.vMismatch b))

/-- A register of one of the given tags. -/
def State.tagIn (s : State) (r : Nat) (ts : List Nat) : Chk Unit :=
  need (ts.contains (s.tag r)) (s.vMismatch r)

/-- A v result with the flags of its elements (05 R118, R120, R121). -/
def State.sendV (s : State) (d : Nat) (x : Words) (mask : Word) (tag lat : Nat) (outs : List FpOut) : State :=
  s.send { s.result (.v d x mask tag) .vec lat with
             flags := flagsOf outs, snan := outs.any FpOut.snan, enables := s.modes.te }

/-- A v result made element by element under a mask: unselected elements keep their bits (25 R406). -/
def State.elementwise (s : State) (d tag : Nat) (mask : Word) (lat : Nat) (f : Nat → FpOut) : State :=
  let idx := List.range (tagCount tag)
  let outs := idx.map fun i => if selected mask tag i then f i else { bits := 0 }
  s.sendV d (ofElems tag (outs.map FpOut.bits)) (writeMask mask tag) tag lat outs

/-- A lane-wise result: any format, no flags; the lanes of an FP64 result are kept by pairs too (25 R406). -/
def State.lanewise (s : State) (d : Nat) (mask : Word) (tag lat : Nat) (f : Nat → Lane) : State :=
  s.writeV d (SMap.tabulate 0 (List.range 64) f) (writeMask mask tag) tag lat

/-- VADD, VSUB and VMUL (25 R407). -/
def vArith (op : Fmt → Modes → Exact → Exact → FpOut) (iop : Nat → Nat → Nat)
    (d a b : VReg) (m : VMReg) (s : State) : Chk State := do
  s.vFree
  s.sameTag [a, b]
  let t := s.tag a
  let md := s.modes
  return s.elementwise d t (s.vm m) 2 fun i =>
    let x := elem (s.v a) t i
    let y := elem (s.v b) t i
    if t = 8 then { bits := iop x y % 2 ^ 32 }
    else op (tagFmt t) md ((tagFmt t).valueDaz md.daz x) ((tagFmt t).valueDaz md.daz y)

/-- VADD (25 R407). -/
def execVadd (d a b : VReg) (m : VMReg) (s : State) : Out :=
  finish s (vArith Fmt.addNum (· + ·) d a b m s)
/-- VSUB (25 R407). -/
def execVsub (d a b : VReg) (m : VMReg) (s : State) : Out :=
  finish s (vArith (fun f md x y => f.addNum md x y.negate) (fun x y => x + 2 ^ 32 - y) d a b m s)
/-- VMUL (25 R407). -/
def execVmul (d a b : VReg) (m : VMReg) (s : State) : Out :=
  finish s (vArith Fmt.mulNum (· * ·) d a b m s)

/-- VFMA (25 R407): a x b + d, one rounding. -/
def execVfma (d a b : VReg) (m : VMReg) (s : State) : Out :=
  finish s do
    s.vFree
    s.sameTag [a, b, d]
    let t := s.tag a
    let md := s.modes
    let f := tagFmt t
    return s.elementwise d t (s.vm m) 4 fun i =>
      let x := elem (s.v a) t i
      let y := elem (s.v b) t i
      let z := elem (s.v d) t i
      if t = 8 then { bits := (x * y + z) % 2 ^ 32 }
      else f.fmaNum md (f.valueDaz md.daz x) (f.valueDaz md.daz y) (f.valueDaz md.daz z)

/-- The signed maximum or minimum of INT32 elements. -/
def imaxmin (isMax : Bool) (x y : Nat) : Nat :=
  if (signed 32 x < signed 32 y) = isMax then y else x

/-- VMAX and VMIN (25 R414). -/
def vMaxMin (isMax : Bool) (d a b : VReg) (m : VMReg) (s : State) : Chk State := do
  s.vFree
  s.sameTag [a, b]
  let t := s.tag a
  return s.elementwise d t (s.vm m) 2 fun i =>
    let x := elem (s.v a) t i
    let y := elem (s.v b) t i
    if t = 8 then { bits := imaxmin isMax x y } else (tagFmt t).maxmin s.modes isMax x y

/-- VMAX (25 R414). -/
def execVmax (d a b : VReg) (m : VMReg) (s : State) : Out := finish s (vMaxMin true d a b m s)
/-- VMIN (25 R414). -/
def execVmin (d a b : VReg) (m : VMReg) (s : State) : Out := finish s (vMaxMin false d a b m s)

/-- VSEL (25 R422): every lane is written. -/
def execVsel (d a b : VReg) (m : VMReg) (s : State) : Out :=
  finish s do
    s.vFree
    let t ← s.eitherTag a b
    let k := (s.vm m).toNat
    return s.lanewise d (BitVec.allOnes 64) t 2 fun i =>
      if bitAt k i then (s.v a).at i else (s.v b).at i

/-- VMOV (25 R416). -/
def execVmov (d a : VReg) (m : VMReg) (s : State) : Out :=
  finish s do
    s.vFree
    return s.writeV d (s.v a) (writeMask (s.vm m) (s.tag a)) (s.tag a) 2

/-- The four comparisons of VCMP (25 R409). -/
inductive VCmp where
  | eq | ne | lt | le
  deriving DecidableEq, Repr

/-- One comparison of two elements, with its flags (05 R119). -/
def VCmp.test (k : VCmp) (md : Modes) (t x y : Nat) : Bool × FpOut :=
  if t = 8 then
    (match k with
      | .eq => x == y
      | .ne => x != y
      | .lt => signed 32 x < signed 32 y
      | .le => signed 32 x ≤ signed 32 y, { bits := 0 })
  else
    let a := (tagFmt t).valueDaz md.daz x
    let b := (tagFmt t).valueDaz md.daz y
    let anyS := a.isSnan || b.isSnan
    let anyN := a.isNan || b.isNan
    let quiet := match k with
      | .lt => if anyN then fNV else 0
      | .le => if anyN then fNV else 0
      | _ => 0
    let fl : FpOut := if anyS then (if md.snt then { bits := 0, flags := fNV, snan := true } else { bits := 0, flags := fNV + fSNAN })
      else { bits := 0, flags := quiet }
    (if anyN then k = .ne
      else match k with
        | .eq => cmpNum a b = .eq
        | .ne => cmpNum a b ≠ .eq
        | .lt => cmpNum a b = .lt
        | .le => cmpNum a b ≠ .gt, fl)

/-- The bits of a comparison's mask: bit i for element i; for FP64 bits 2i and 2i+1. -/
def maskBits (t : Nat) : List (Nat × Bool) → Nat
  | [] => 0
  | (i, b) :: r => (if b then (if t = 10 then 3 * 2 ^ (2 * i) else 2 ^ i) else 0) + maskBits t r

/-- VCMP (25 R409). -/
def vCompare (k : VCmp) (d : VMReg) (a b : VReg) (m : VMReg) (s : State) : Chk State := do
  s.vFree
  s.sameTag [a, b]
  let t := s.tag a
  let idx := List.range (min 64 (tagCount t))
  let res := idx.map fun i =>
    if selected (s.vm m) t i then (i, k.test s.modes t (elem (s.v a) t i) (elem (s.v b) t i))
    else (i, (false, { bits := 0 }))
  let outs := res.map fun r => r.2.2
  return s.send { s.result (.vm d (BitVec.ofNat 64 (maskBits t (res.map fun r => (r.1, r.2.1))))) .vec 2 with
                    flags := flagsOf outs, snan := outs.any FpOut.snan, enables := s.modes.te }

/-- VCMP.EQ, .NE, .LT, .LE (25 R409). -/
def execVcmpEq (d : VMReg) (a b : VReg) (m : VMReg) (s : State) : Out := finish s (vCompare .eq d a b m s)
def execVcmpNe (d : VMReg) (a b : VReg) (m : VMReg) (s : State) : Out := finish s (vCompare .ne d a b m s)
def execVcmpLt (d : VMReg) (a b : VReg) (m : VMReg) (s : State) : Out := finish s (vCompare .lt d a b m s)
def execVcmpLe (d : VMReg) (a b : VReg) (m : VMReg) (s : State) : Out := finish s (vCompare .le d a b m s)

/-- VSFN (25 R423). -/
def execVsfn (d a : VReg) (f : BitVec 5) (m : VMReg) (s : State) : Out :=
  finish s do
    s.vFree
    s.tagIn a [1]
    return s.elementwise d 1 (s.vm m) 8 fun i => sfn (Sfn.ofCode f.toNat) s.modes (elem (s.v a) 1 i)

/-- The reductions of VRED (25 R419). -/
inductive RedOp where
  | add | max | min
  deriving DecidableEq, Repr

/-- What a masked element contributes (05 R123, 25 R419). -/
def RedOp.neutral (k : RedOp) (t : Nat) : Nat :=
  if t = 8 then
    match k with
    | .add => 0
    | .max => 0x80000000
    | .min => 0x7FFFFFFF
  else
    let f := tagFmt t
    match k with
    | .add => f.signBit true
    | .max => f.signBit true + f.infBits
    | .min => f.infBits

/-- One node of a reduction, its flags with those below it. -/
def RedOp.node (k : RedOp) (md : Modes) (t : Nat) (x y : FpOut) : FpOut :=
  let o : FpOut :=
    if t = 8 then
      match k with
      | .add => { bits := (x.bits + y.bits) % 2 ^ 32 }
      | .max => { bits := imaxmin true x.bits y.bits }
      | .min => { bits := imaxmin false x.bits y.bits }
    else
      let f := tagFmt t
      match k with
      | .add => f.addNum md (f.value x.bits) (f.value y.bits)
      | .max => f.maxmin { md with daz := false } true x.bits y.bits
      | .min => f.maxmin { md with daz := false } false x.bits y.bits
  { o with flags := o.flags ||| x.flags ||| y.flags, snan := o.snan || x.snan || y.snan }

/-- An element as a leaf: read as DAZ has it (05 R112). -/
def leaf (md : Modes) (t x : Nat) : Nat :=
  if t = 8 then x
  else
    let f := tagFmt t
    if md.daz && field x f.m f.e == 0 then f.signBit (bitAt x (f.e + f.m)) else x

/-- The reduction of a register (05 R123). -/
def reduce (k : RedOp) (md : Modes) (t : Nat) (x : Words) (mask : Word) : FpOut :=
  let leaves := (List.range (tagCount t)).map fun i =>
    ({ bits := if selected mask t i then leaf md t (elem x t i) else k.neutral t } : FpOut)
  (pairwise (k.node md t) 8 leaves).headD { bits := 0 }

/-- VRED.ADD, .MAX, .MIN (25 R419): element 0 takes the result, all else becomes 0. -/
def vReduce (k : RedOp) (d a : VReg) (m : VMReg) (s : State) : Chk State := do
  s.vFree
  s.sameTag [a]
  let t := s.tag a
  let o := reduce k s.modes t (s.v a) (s.vm m)
  return s.sendV d (ofElems t [o.bits]) (BitVec.allOnes 64) t 6 [o]

/-- VRED.ADD, .MAX, .MIN. -/
def execVredAdd (d a : VReg) (m : VMReg) (s : State) : Out := finish s (vReduce .add d a m s)
def execVredMax (d a : VReg) (m : VMReg) (s : State) : Out := finish s (vReduce .max d a m s)
def execVredMin (d a : VReg) (m : VMReg) (s : State) : Out := finish s (vReduce .min d a m s)

/-- The index of VRED.ARGMAX: the lowest unmasked element equal to the maximum as a number (log 18). -/
def argIndex (t : Nat) (md : Modes) (x : Words) (mask : Word) (best : Nat) : Nat :=
  let idx := (List.range (tagCount t)).filter fun i => selected mask t i
  let nanBest := t ≠ 8 && ((tagFmt t).value best).isNan
  let eq (i : Nat) : Bool :=
    let y := leaf md t (elem x t i)
    if t = 8 then y == best
    else !((tagFmt t).value y).isNan && cmpNum ((tagFmt t).value y) ((tagFmt t).value best) == .eq
  match (if nanBest then idx.head? else idx.find? eq) with
  | some i => i
  | none => 0xFFFFFFFF

/-- VRED.ARGMAX (25 R419): the index in lane 1, for FP64 in lane 2. -/
def execVredArgmax (d a : VReg) (m : VMReg) (s : State) : Out :=
  finish s do
    s.vFree
    s.sameTag [a]
    let t := s.tag a
    let o := reduce .max s.modes t (s.v a) (s.vm m)
    let i := argIndex t s.modes (s.v a) (s.vm m) o.bits
    let lanes := ofElems t [o.bits]
    let lane := if t = 10 then 2 else 1
    return s.sendV d (SMap.set 0 lanes lane (BitVec.ofNat 32 i)) (BitVec.allOnes 64) t 6 [o]

/-- VPERM (25 R417). -/
def execVperm (d a b : VReg) (m : VMReg) (s : State) : Out :=
  finish s do
    s.vFree
    s.tagIn b [0, 8]
    return s.lanewise d (s.vm m) (s.tag a) 3 fun i => (s.v a).at ((s.v b).at i).toNat

/-- VBCAST (25 R408). -/
def execVbcast (d a b : VReg) (m : VMReg) (s : State) : Out :=
  finish s do
    s.vFree
    s.tagIn b [0, 8]
    let k := ((s.v b).at 0).toNat % 64
    return s.lanewise d (s.vm m) (s.tag a) 2 fun _ => (s.v a).at k

/-- VLOG (25 R413). -/
def vLogic (op : Lane → Lane → Lane) (d a b : VReg) (m : VMReg) (s : State) : Chk State := do
  s.vFree
  let t ← s.eitherTag a b
  return s.lanewise d (s.vm m) t 2 fun i => op ((s.v a).at i) ((s.v b).at i)

/-- VLOG.AND, .OR, .XOR, .ANDN. -/
def execVlogAnd (d a b : VReg) (m : VMReg) (s : State) : Out := finish s (vLogic (· &&& ·) d a b m s)
def execVlogOr (d a b : VReg) (m : VMReg) (s : State) : Out := finish s (vLogic (· ||| ·) d a b m s)
def execVlogXor (d a b : VReg) (m : VMReg) (s : State) : Out := finish s (vLogic (· ^^^ ·) d a b m s)
def execVlogAndn (d a b : VReg) (m : VMReg) (s : State) : Out := finish s (vLogic (fun x y => x &&& ~~~y) d a b m s)

/-- VSHF (25 R424): each lane by the unsigned count in vb's lane. -/
def vShift (op : Lane → Nat → Lane) (d a b : VReg) (m : VMReg) (s : State) : Chk State := do
  s.vFree
  s.tagIn b [0, 8]
  return s.lanewise d (s.vm m) (s.tag a) 2 fun i => op ((s.v a).at i) ((s.v b).at i).toNat

/-- VSHF.L, .R, .A, .ROL. -/
def execVshfL (d a b : VReg) (m : VMReg) (s : State) : Out :=
  finish s (vShift (fun x c => if c < 32 then x <<< c else 0) d a b m s)
def execVshfR (d a b : VReg) (m : VMReg) (s : State) : Out :=
  finish s (vShift (fun x c => if c < 32 then x >>> c else 0) d a b m s)
def execVshfA (d a b : VReg) (m : VMReg) (s : State) : Out :=
  finish s (vShift (fun x c => x.sshiftRight (min c 31)) d a b m s)
def execVshfRol (d a b : VReg) (m : VMReg) (s : State) : Out :=
  finish s (vShift (fun x c => x.rotateLeft (c % 32)) d a b m s)

/-- VMLOG (25 R415): the 64-bit operation whole. -/
def execVmlogAnd (d a b : VMReg) (s : State) : Out :=
  finish s do
    s.vFree
    return s.writeVm d (s.vm a &&& s.vm b)
def execVmlogOr (d a b : VMReg) (s : State) : Out :=
  finish s do
    s.vFree
    return s.writeVm d (s.vm a ||| s.vm b)
def execVmlogXor (d a b : VMReg) (s : State) : Out :=
  finish s do
    s.vFree
    return s.writeVm d (s.vm a ^^^ s.vm b)
def execVmlogNot (d a : VMReg) (s : State) : Out :=
  finish s do
    s.vFree
    return s.writeVm d (~~~s.vm a)

/-- VRETAG.SET, .READ, .CLR (25 R420). -/
def execVretagSet (d a : VReg) (t : BitVec 4) (m : VMReg) (s : State) : Out :=
  finish s do
    s.vFree
    return s.writeV d (s.v a) (writeMask (s.vm m) t.toNat) t.toNat 2
def execVretagRead (d a : VReg) (_m : VMReg) (s : State) : Out :=
  finish s do
    s.vFree
    return s.writeV d (SMap.set 0 [] 0 (BitVec.ofNat 32 (s.tag a))) (BitVec.allOnes 64) 8 2
def execVretagClr (d a : VReg) (m : VMReg) (s : State) : Out :=
  finish s do
    s.vFree
    return s.writeV d (s.v a) (s.vm m) 0 2

/-- VSCL (25 R421): by a power of two, rounded once; a quiet NaN passes unchanged. -/
def execVscl (d a b : VReg) (m : VMReg) (s : State) : Out :=
  finish s do
    s.vFree
    s.tagIn a [1]
    s.tagIn b [8]
    let md := s.modes
    return s.elementwise d 1 (s.vm m) 2 fun i =>
      let n := signed 32 ((s.v b).at i).toNat
      match Fmt.fp32.valueDaz md.daz (elem (s.v a) 1 i) with
      | .nan q => if q then snanOut Fmt.fp32 md true 0 else { bits := elem (s.v a) 1 i }
      | .inf g => { bits := Fmt.fp32.signBit g + Fmt.fp32.infBits }
      | .fin g k e => Fmt.fp32.round md.rm md.ftz false g k (e + max (-1000) (min n 1000))

/-- Rank of the second V slot of a bundle (15 R259). -/
def rankV1 : Nat := 4

/-- The word number of the RBQ this bundle uses, popped by the bundle's first VCVT.SR (05 R114, R115). -/
def State.popRbq (s : State) : Nat × State :=
  match s.core.cur.rbqWord with
  | some n => (n, s)
  | none =>
    let n := s.core.bank.rbq.next
    (n, (s.onBank fun b => { b with rbq := { b.rbq with held := b.rbq.held - 1, next := n + 1 } }).onCore
      fun c => { c with cur := { c.cur with rbqWord := some n } })

/-- The 16 random bits of element `i` in word `n`: V0's half is bits [1023:0], V1's [2047:1024]. -/
def srBits (key : Word) (n : Nat) (v1 : Bool) (i : Nat) : Nat :=
  let j := i % 64
  field (mix key (32 * n + (if v1 then 16 else 0) + j / 4)).toNat (16 * (j % 4)) 16

/-- VCVT to a tag other than 6 (25 R410): element i becomes element i; further target elements are +0. -/
def vConvertTo (s : State) (rm : Nat → Rm) (d a t : Nat) (mask : Word) : State :=
  let md := s.modes
  let src := s.tag a
  s.elementwise d t mask 3 fun i =>
    if i < tagCount src then convNum md (rm i) t (convSource md src (s.v a) i) else { bits := 0 }

/-- VCVT to E2M1 (25 R411): codes in lanes 0-7, block bytes in lane 8, zeros above. -/
def vConvertE2 (s : State) (d a : Nat) (mask : Word) : State :=
  let md := s.modes
  let src := s.tag a
  let vals := (List.range 64).map fun i =>
    if i < tagCount src then convSource md src (s.v a) i else .fin false 0 0
  let b0 := e2m1block md (vals.take 32)
  let b1 := e2m1block md (vals.drop 32)
  let codes := b0.codes ++ b1.codes
  let lanes := ofElems 6 codes
  let lane8 := b0.sc + b0.sp * 2 ^ 8 + b1.sc * 2 ^ 16 + b1.sp * 2 ^ 24
  let x := SMap.set 0 lanes 8 (BitVec.ofNat 32 lane8)
  let ef := ((b0.flags ++ b1.flags).zipIdx.filter fun f => bitAt mask.toNat (f.2 / 8)).foldl (fun k f => k ||| f.1) 0
  let bf := if bitAt mask.toNat 8 then b0.blockFlags ||| b1.blockFlags else 0
  let anyS := bitAt mask.toNat 8 && vals.any Exact.isSnan
  s.send { s.result (.v d x mask 6) .vec 3 with
             flags := ef ||| bf
             snan := anyS && md.snt, enables := md.te }

/-- The conversion of VCVT (25 R410): one of the source's own tag 6 passes the register unchanged. -/
def vConvert (rm : Nat → Rm) (d a : VReg) (t : BitVec 4) (m : VMReg) (s : State) : Chk State := do
  s.vFree
  need (1 ≤ s.tag a && s.tag a ≤ 11) (s.vMismatch a)
  if t.toNat = 6 then
    if s.tag a = 6 then return s.writeV d (s.v a) (s.vm m) 6 3
    else return vConvertE2 s d a (s.vm m)
  else return vConvertTo s rm d a t.toNat (s.vm m)

/-- VCVT.RNE, .RTZ, .MODE (25 R410). -/
def execVcvtRne (d a : VReg) (t : BitVec 4) (m : VMReg) (s : State) : Out :=
  finish s (vConvert (fun _ => .rne) d a t m s)
def execVcvtRtz (d a : VReg) (t : BitVec 4) (m : VMReg) (s : State) : Out :=
  finish s (vConvert (fun _ => .rtz) d a t m s)
def execVcvtMode (d a : VReg) (t : BitVec 4) (m : VMReg) (s : State) : Out :=
  finish s (vConvert (fun _ => s.modes.rm) d a t m s)

/-- VCVT.SR (05 R114): random bits of the RBQ; RNE, and nothing popped, when FMODE.SRE is 0. -/
def execVcvtSr (d a : VReg) (t : BitVec 4) (m : VMReg) (s : State) : Out :=
  finish s do
    s.vFree
    need (1 ≤ s.tag a && s.tag a ≤ 11) (s.vMismatch a)
    if s.modes.sre then
      let (n, s') := s.popRbq
      let key := s.core.bank.rbq.key
      return vConvertTo s' (fun i => .sr (srBits key n (s.core.cur.rank = rankV1) i)) d a t.toNat (s.vm m)
    else return vConvertTo s (fun _ => .rne) d a t.toNat (s.vm m)

/-- Slot code of 05 R120. -/
def State.slotCode (s : State) : Nat :=
  match s.core.cur.rank with
  | 3 => 0
  | 4 => 1
  | 5 => 2
  | _ => 3

/-- The 64 values of VSPLIT's operands, masked ones read as +0 (25 R425). -/
def State.splitVals (s : State) (a b : Nat) (mask : Word) : List Exact :=
  (List.range 64).map fun i =>
    let r := if i < 32 then a else b
    if selected mask 10 (i % 32) then Fmt.fp64.valueDaz s.modes.daz (elem (s.v r) 10 (i % 32)) else Exact.fin false 0 0

/-- The 768 bytes of VSPLIT's three registers: nine slices of 64 bytes, then the block descriptor (25 R425). -/
def splitImage (fps : Nat) (vals : List Exact) : List Nat :=
  let e := blockExp vals
  let sl := vals.map fun x => slices e x fps
  let byte (k j : Nat) : Nat := unsignedOf 8 ((sl.getD j []).getD k 0)
  let bytes := (List.range 9).flatMap fun k => (List.range 64).map fun j => byte k j
  let eb := unsignedOf 32 e
  let cls := vals.map sliceClass
  let desc := [eb % 256, eb / 256 % 256, eb / 65536 % 256, eb / 16777216, 0, 0, 0, 0]
    ++ (List.range 32).map fun j => cls.getD (2 * j) 0 + 16 * cls.getD (2 * j + 1) 0
  let all := bytes ++ desc
  all ++ List.replicate (768 - all.length) 0

/-- VSPLIT (25 R425). -/
def execVsplit (d a b : VReg) (m : VMReg) (s : State) : Out :=
  finish s do
    s.vFree
    s.tagIn a [10]
    s.tagIn b [10]
    let vals := s.splitVals a b (s.vm m)
    let anyS := vals.any Exact.isSnan
    need (!(anyS && s.modes.snt)) (own cSnan (s.core.bank.pc + (s.modes.te &&& 1) * 2 ^ 40 + s.slotCode * 2 ^ 45))
    let all := splitImage s.modes.fps vals
    let fl := if anyS then fNV + fSNAN else 0
    let ones := BitVec.allOnes 64
    let s := s.send { s.result (.v d (ofElems 11 (all.take 256)) ones 11) .vec 8 with flags := fl }
    let s := s.writeV (d.val + 1) (ofElems 11 ((all.drop 256).take 256)) ones 11 8
    return s.writeV (d.val + 2) (ofElems 11 (all.drop 512)) ones 11 8

/-- The combination of one column's slice sums, orders s+1 down to 2 (25 R412): value and flags. -/
def joinSums (ex : Int) (p : Nat → Int) : Nat → FpOut → FpOut
  | 0, c => c
  | o + 1, c =>
    -- order o + 2
    let x := Exact.ofInt (p (o + 2)) (ex - 7 * ((o : Int) + 2))
    let r := Fmt.fp64.addNum plain (Fmt.fp64.value c.bits) x
    joinSums ex p o { r with flags := r.flags ||| c.flags }

/-- One FP64 result of VJOIN: column `j` of the slice sums in registers `a` on, with the descriptors in `b` on (25 R412). -/
def State.joinColumn (s : State) (a b j : Nat) : FpOut :=
  let desc := s.v b
  let eA := signed 32 (desc.at 16).toNat
  let clsA (k : Nat) : Nat := field (elem desc 11 (72 + k / 2)) (4 * (k % 2)) 4
  let fB := signed 32 ((s.v (b + 1)).at j).toNat
  let reg := s.v (b + 2 + j / 8)
  let clsB (k : Nat) : Nat := field (elem reg 11 (32 * (j % 8) + k / 2)) (4 * (k % 2)) 4
  match sideSum ((List.range 64).map fun k => (clsA k, clsB k)) with
  | some o => o
  | none => joinSums (eA + fB + 2) (fun o => signed 32 ((s.v (a + o - 2)).at j).toNat) s.modes.fps { bits := 0 }

/-- The tag checks of VJOIN (25 R412). -/
def State.joinTags (s : State) (a b : Nat) : Chk Unit := do
  for o in List.range s.modes.fps do
    if a + o ≤ 31 then s.tagIn (a + o) [8]
  s.tagIn b [11]
  s.tagIn (b + 1) [8]
  for q in [2, 3, 4, 5] do
    s.tagIn (b + q) [0, 11]

/-- VJOIN (25 R412). -/
def execVjoin (d a b : VReg) (m : VMReg) (s : State) : Out :=
  finish s do
    s.vFree
    s.joinTags a b
    need (a.val + s.modes.fps - 1 ≤ 31) (violation 16)
    return s.elementwise d 10 (s.vm m) 12 (s.joinColumn a b)

end Sys2Proof.Machine
end

