-- ==== Sys2Proof/Machine/Access.lean ====
section
/-!
DEFINITION. The decoupled queues (06 R141): how an access is checked, translated, pushed and performed,
the retry ring (15 R269-R272), and the race check of deterministic mode (12 R228-R232).
-/
namespace Sys2Proof.Machine

/-! ### Elements -/

/-- Bytes of one element of a tag as an access moves it (an E2M1 element moves half of one). -/
def eltBytes (tag : Nat) : Nat := ceilDiv (tagBits tag) 8

/-- The pieces an element of a tag's size lies in: place and bytes of each (04 R81). -/
def Elt.pieces (e : Elt) (tag : Nat) : List (Loc × Nat) :=
  match e.loc, e.rest with
  | none, _ => []
  | some l, none => [(l, eltBytes tag)]
  | some l, some (k, r) => [(l, k), (r, eltBytes tag - k)]

/-- The places an element starts at and goes on at. -/
def Elt.places (e : Elt) : List Loc := e.loc.toList ++ (e.rest.map Prod.snd).toList

/-- One element read. -/
def State.readElt (s : State) (core bank tag : Nat) (e : Elt) : Nat :=
  let x := (e.pieces tag).foldr (fun p x => s.readAt core bank p.1 p.2 + 256 ^ p.2 * x) 0
  if tag = 6 then field x (4 * e.nib) 4 else x

/-- One element written. -/
def State.writeElt (s : State) (core bank tag : Nat) (e : Elt) (v : Nat) : State :=
  match e.loc with
  | none => s
  | some l =>
    let v := if tag = 6 then setField (s.byteAt core bank l).toNat (4 * e.nib) 4 v else v
    match e.rest with
    | none => s.writeAt core bank l v (eltBytes tag)
    | some (k, r) => (s.writeAt core bank l v k).writeAt core bank r (v / 256 ^ k) (eltBytes tag - k)

/-- The elements of a register a load or store names that are in range and selected: pairs of element
number and first coordinate (04 R79, R80). -/
def eltsOf (d : Desc) (a : BitVec 128) (cs : List (Nat × Int)) (sel : Nat → Bool) : List Elt :=
  cs.filterMap fun c =>
    if sel c.1 && (0 ≤ c.2 : Bool) then
      (storeOff d fun j => if j = 0 then c.2.toNat else aCoord a j).map fun o => { idx := c.1, off := o.1, nib := o.2 }
    else none

/-- Bytes of two elements in common. -/
def overlaps (l : Loc) (n : Nat) (k : Loc) (m : Nat) : Bool :=
  l.space = k.space && l.addr < k.addr + m && k.addr < l.addr + n

/-- What translating the elements of an access gives: the elements, whether all are translated, the cache
slots to contain. -/
structure Placed where
  elts : List Elt := []
  known : Bool := true
  contained : List Nat := []
  deriving DecidableEq, Repr

/-- An element translated: its first byte's place, and, where the element crosses a boundary of frames or host pages,
that of its bytes beyond (04 R81). -/
def State.placeElt (s : State) (extra : List SpanEntry) (walk : Bool) (tid : Nat) (d : Desc) (e : Elt) : Trans × Option (Nat × Loc) :=
  match s.placeWith extra walk tid d e.off with
  | .at l =>
    let n := eltBytes d.tag
    let k := 4096 - l.addr % 4096
    if d.kind = .table && d.loc < 2 && decide (k < n) then
      match s.placeWith extra walk tid d (e.off + k) with
      | .at r => (.at l, if r.addr = l.addr + k then none else some (k, r))
      | t => (t, none)
    else (.at l, none)
  | t => (t, none)

/-- The elements translated; storage beyond the span table is PROTECTION reason 5 (04 R81). -/
def State.placeAll (s : State) (walk : Bool) (tid : Nat) (d : Desc) : List Elt → Chk Placed
  | [] => .ok {}
  | e :: r => do
    let p ← State.placeAll s walk tid d r
    let q := s.placeElt [] walk tid d e
    match q.1 with
    | .at l => return { p with elts := { e with loc := some l, rest := q.2 } :: p.elts }
    | .absent _ => return { p with elts := e :: p.elts, known := false }
    | .miss => return { p with elts := e :: p.elts, known := false }
    | .beyond => .error (.trap (protection tid 5))
    | .contained slot => return { p with contained := slot :: p.contained }
    | .outside => return p
    | .refused => .error (.trap (protection tid 12))

/-- Breakwater code CACHE_PAGE (03 R55). -/
def codeCachePage : Nat := 2
/-- Breakwater code SOFT_ERROR (03 R55). -/
def codeSoftError : Nat := 3

/-- Contain every slot of a list (03 R66). -/
def State.containAll (s : State) (code : Nat) (slots : List Nat) : State :=
  slots.foldl (fun s slot => s.contain slot code) s

/-! ### Deterministic mode (12 R228-R232) -/

/-- The executing task runs in deterministic mode. -/
def State.det (s : State) : Bool :=
  !s.sup && match s.core.task with
    | some t => t.det
    | none => false

/-- RACE with a tensor id, a reason and bits of the stamp's task (12 R232). -/
def raceTrap (tid reason task : Nat) : TrapReq := own cRace (tid + reason * 2 ^ 32 + task % 2 ^ 24 * 2 ^ 40)

/-- The 4 KiB block of a place, numbered over HBM and then over the scratchpads (12 R230). -/
def Loc.block (l : Loc) : Nat :=
  match l.space with
  | .spad k => 2 ^ 28 + k * 512 + l.addr / 4096
  | _ => l.addr / 4096

/-- How an access counts in the stamp table (12 R231). -/
inductive RaceMode where
  | read | write | orderFree
  deriving DecidableEq, Repr

def RaceMode.code : RaceMode → Nat
  | .read => 0
  | .write => 1
  | .orderFree => 2

/-- The stamp table (12 R231): the new mode, none for RACE. -/
def stampStep (mode : Nat) (mine : Bool) (k : Nat) : Option Nat :=
  match mode, k with
  | 1, 0 => some (if mine then 1 else 2)
  | 1, 1 => if mine then some 3 else none
  | 1, _ => if mine then some 4 else none
  | 2, 0 => some 2
  | 2, _ => none
  | 3, _ => if mine then some 3 else none
  | 4, 2 => some (if mine then 4 else 5)
  | 4, _ => if mine then some 3 else none
  | 5, 2 => some 5
  | 5, _ => none
  | _, 0 => some 1
  | _, 1 => some 3
  | _, _ => some 4

/-- Sets of a die's stamp store (12 R230). -/
def stampSets : Nat := 16384

/-- The race check of one block at issue (12 R231, R232): the freeze domain waits for the home die. -/
def State.raceBlock (s : State) (tid : Nat) (m : RaceMode) (die block : Nat) : Chk Unit :=
  match s.core.fetchedOf fetchRace (block * 4 + m.code) with
  | some 0 => .ok ()
  | some k => .error (.trap (raceTrap tid 1 (k - 1)))
  | none => .error (.hold 14 false (some (.raceCheckAnswer (BitVec.ofNat 8 s.core.id) (BitVec.ofNat 2 m.code)
      (BitVec.ofNat 2 die) (BitVec.ofNat 32 block))))

/-- The race check of an access to the given places (12 R231). -/
def State.raceCheck (s : State) (tid : Nat) (d : Desc) (m : RaceMode) (locs : List Loc) : Chk Unit :=
  if !s.det || !d.sw || (d.loc != 0 && d.loc != 2) || locs.isEmpty then .ok ()
  else if s.core.bank.arrived.any (fun a => !a.released) then .error (.trap (raceTrap tid 5 0))
  else locs.foldl (fun r l => r.bind fun _ => s.raceBlock tid m (l.die s.core.id) l.block) (.ok ())

/-- The stamp store's answer to an access of the executing task to a block (12 R231): 0 where it may take place and one
more than the stamp's task where it races, with the stamps after it; none while every way of the set holds a live stamp. -/
def State.stamp (s : State) (mode die block : Nat) : Option (Nat × List Stamp) :=
  let launch := (s.core.task.map Task.launch).getD 0
  let phase := s.core.bank.phase
  let me := s.core.bank.sys.taskix.toNat
  let live (x : Stamp) : Bool := x.launch = launch && x.phase = phase
  let here (x : Stamp) : Bool := x.die = die && x.block = block
  match s.stamps.find? (fun x => here x && live x) with
  | some x =>
    match stampStep x.mode (x.task = me) mode with
    | none => some (x.task + 1, s.stamps)
    | some m =>
      let x' := if m = x.mode then x else { x with mode := m, phase := phase }
      some (0, s.stamps.map fun y => if here y && live y then x' else y)
  | none =>
    match stampStep 0 false mode with
    | none => some (0, s.stamps)
    | some m =>
      let set := s.stamps.filter fun x => x.die = die && x.block % stampSets = block % stampSets && !here x
      if 16 ≤ (set.filter live).length then none
      else
        -- the stamp of the block, or else a stale one of the set, gives way
        let kept := s.stamps.filter fun x => !here x
        let kept := if set.length < 16 then kept else match set.find? (fun x => !live x) with
          | some x => kept.erase x
          | none => kept
        some (0, { die := die, block := block, launch := launch, phase := phase, mode := m, task := me } :: kept)

/-- RACE_CHECK_ANSWER (12 R232): the home die's stamp store answers; the stamp changes unless the access
races.  When every way of the set holds a live stamp the answer waits. -/
def execRaceCheckAnswer (core : BitVec 8) (mode die : BitVec 2) (block : BitVec 32) (s : State) : Out :=
  let s := s.focus core.toNat
  match s.stamp mode.toNat die.toNat block.toNat with
  | none => .next (s.schedule 1 (.raceCheckAnswer core mode die block))
  | some (k, stamps) => .next ({ s with stamps := stamps }.onCore fun c =>
      { c with fetched := { what := fetchRace, addr := block.toNat * 4 + mode.toNat, data := k } :: c.fetched })

/-- The stamps of an access whose places came to be known after its issue, behind the retry ring (12 R231, log 26): a
race's task, or the machine with the stamps changed. -/
def State.stampLate (s : State) (x : Access) (locs : List Loc) : Except Nat State :=
  let m : RaceMode := if x.kind = .load ∨ x.kind = .gather then .read else if x.kind = .store ∨ x.kind = .scatter then .write else .orderFree
  if !s.det || !x.desc.sw || (x.desc.loc != 0 && x.desc.loc != 2) then .ok s
  else locs.foldl (fun r l => r.bind fun s => match s.stamp m.code (l.die s.core.id) l.block with
    | some (0, stamps) => .ok { s with stamps := stamps }
    | some (k, _) => .error (k - 1)
    | none => .ok s) (.ok s)

/-! ### The scoreboard of the tiles (06 R139) -/

/-- Fields of a relaxation's parameter word (07 R153): tile rows and columns, the first derivative tile. -/
def RelaxRun.nr (r : RelaxRun) : Nat := field r.par 0 2 + 1
def RelaxRun.nc (r : RelaxRun) : Nat := field r.par 2 2 + 1
def RelaxRun.span (r : RelaxRun) : Bool := bitAt r.par 4
def RelaxRun.rag (r : RelaxRun) : Bool := bitAt r.par 5
def RelaxRun.q (r : RelaxRun) : Nat := field r.par 6 2
def RelaxRun.cont (r : RelaxRun) : Bool := bitAt r.par 8
def RelaxRun.rte (r : RelaxRun) : Bool := bitAt r.par 9
def RelaxRun.nrow (r : RelaxRun) : Nat := field r.par 10 9
def RelaxRun.td (r : RelaxRun) : Nat := field r.par 19 5
def RelaxRun.rtab (r : RelaxRun) : Nat := field r.par 24 18 * 8

/-- A block of the state's shape from a first tile (07 R154). -/
def RelaxRun.block (r : RelaxRun) (t : Nat) : List Nat := (List.range (r.nr * r.nc)).map (t + ·)
/-- Tiles of the history block. -/
def RelaxRun.histTiles (r : RelaxRun) : Nat := if r.ahd = 0 then 0 else (2 * r.ahd + 2) * r.nr * r.nc
/-- The derivative tiles, where the operation has them. -/
def RelaxRun.derivs (r : RelaxRun) : List Nat := if r.sv || r.back then r.block r.td else []
/-- State, derivative and history tiles (07 R173). -/
def RelaxRun.tiles (r : RelaxRun) : List Nat :=
  r.block r.tz ++ r.derivs ++ (List.range r.histTiles).map (32 - r.histTiles + ·)

/-- A tile of the executing bank that a matrix operation in flight will write. -/
def State.tileBusy (s : State) (t : Nat) : Bool :=
  s.core.matOps.any fun o => o.bank = s.core.bank.id && o.dests.any fun d => d.1 = t

/-- A tile that a running relaxation holds: its injection tiles against writes alone. -/
def State.relaxTile (s : State) (t : Nat) (wr : Bool) : Bool :=
  match s.core.relax with
  | some r => r.bank = s.core.bank.id && (r.tiles.contains t || (wr && (r.block r.tu).contains t))
  | none => false

/-- A tile that a routine in flight reads: its writes wait until the routine completes (08 R193). -/
def State.routineReads (s : State) (t : Nat) : Bool :=
  s.core.matOps.any fun o => o.bank = s.core.bank.id && o.reads.contains t

/-- The scoreboard: a read or write of the tile waits for the operation that will write it. -/
def State.tileFree (s : State) (t : Nat) : Chk Unit :=
  if s.tileBusy t then .error (.hold 5 true none) else .ok ()

/-- The scoreboard for reads, or writes, of a list of tiles (06 R139, 07 R173, 08 R193). -/
def State.tilesFree (s : State) (wr : Bool) (ts : List Nat) : Chk Unit :=
  if ts.any fun t => s.tileBusy t || s.relaxTile t wr || (wr && s.routineReads t) then .error (.hold 5 true none) else .ok ()

/-- Rows of an operand in the core's own memories that its fetch has read by a matrix-domain cycle: the fetch runs up to
eight rows ahead of the array (04 R88, log 50). -/
def Operand.rowsRead (o : Operand) (m : Nat) : Nat :=
  if m + 8 < o.start then 0 else min 64 (ceilDiv ((m - o.start) * 64) o.beats + 8)

/-- Rows of an operand that its fetcher copy has brought; an E2M1 tile's scales come behind its rows. -/
def Core.rowsThere (c : Core) (o : Operand) : Nat :=
  if o.tile.isSome then 64
  else if o.tag = 6 then 0
  else match ((SMap.get {} c.chans 3).queue.find? fun t => some t.id = o.id) with
    | some t => 64 * t.written / max 1 t.len
    | none => 0

/-- The array has reached a beat whose operand rows have not arrived (08 R186): beat j of an operand's use falls in the
matrix-domain cycle j + 1 after its start, and needs the rows up to (j + 1) * 64 / beats (log 50). -/
def Core.fetchLags (c : Core) : Bool :=
  let m := c.mat.cycles
  (c.lag.any fun x => decide (x.1 ≤ m)) ||
  let waits := c.matOps.flatMap MatOp.operands ++ (match c.relax with
    | some r => if r.phase = 1 then r.operands else []
    | none => [])
  waits.any fun o => o.tile.isNone && decide (c.rowsThere o < min 64 (ceilDiv ((m - o.start) * 64) o.beats))

/-- Bytes that operand fetches of the core have still to read (08 R191). -/
def Core.unread (c : Core) : List (Loc × Nat) :=
  (c.matOps.flatMap MatOp.operands ++ (c.relax.map RelaxRun.operands).getD []).flatMap fun o =>
    (o.bytes.filter fun b => decide (o.rowsRead c.mat.cycles ≤ b.1)).map Prod.snd

/-- A write of bytes that an operand fetch has still to read meets it. -/
def Core.crosses (c : Core) (ps : List (Loc × Nat)) : Bool :=
  c.unread.any fun u => ps.any fun p => overlaps p.1 p.2 u.1 u.2

/-- A TST or BLATCH to bytes that an operand fetch has still to read waits for it (08 R191). -/
def State.fetchFree (s : State) (ps : List (Loc × Nat)) : Chk Unit :=
  if s.core.crosses ps then .error (.hold 20 false none) else .ok ()

/-- Tiles that elements of the accumulator memory lie in. -/
def accTiles (d : Desc) (es : List Elt) : List Nat :=
  if d.kind = .acc then (es.map fun e => e.off / 16384).eraseDups else []

/-! ### The queues (06 R141) -/

/-- The parts of the executing core that places of `n` bytes lie in (15 R278). -/
def locParts (core n : Nat) (locs : List Loc) : List Part :=
  (locs.flatMap fun l =>
    if l.space = .spad core then (blocksOf l.addr n).map Part.spad
    else if l.space = .acc then [Part.tile (l.addr / 16384)] else []).eraseDups

/-- Hold for a counter at its largest value or a full queue (15 R430 code 3): the queue's code. -/
def backpressure (q : Nat) (full : Bool) : Chk Unit := if full then .error (.hold (3 + 256 * q) false none) else .ok ()

/-- LDQ entries neither unpopped nor reserved (06 R142). -/
def Bank.freeLdq (b : Bank) : Nat := 64 - b.ldq.length - (b.laq.filter Access.reserved).length

/-- Replies that have come move from the head of the LAQ into the LDQ (06 R141). -/
def Bank.deliver (b : Bank) : Nat → Bank
  | 0 => b
  | k + 1 =>
    match b.laq with
    | [] => b
    | x :: r =>
      match x.reply with
      | some v =>
        if x.reserved && x.ready then
          Bank.deliver { b with laq := r, loads := b.loads - 1
                                ldq := b.ldq ++ [{ seq := x.seq, data := v, tag := x.desc.tag, err := x.err
                                                   producer := x.producer }] } k
        else b
      | none => b

/-- The event that performs an access. -/
def performEvent (core bank : Nat) (x : Access) : Instr :=
  let c := BitVec.ofNat 8 core
  let b := BitVec.ofNat 1 bank
  let q := BitVec.ofNat 48 x.seq
  match x.kind with
  | .store => .storePerform c b q
  | .scatter => .storePerform c b q
  | .row => .storePerform c b q
  | .recvLine => .storePerform c b q
  | .qpush => .queuePushPerform c b q
  | .qpop => .queuePopServe c b q
  | _ => .loadReply c b q false

/-- Reference cycles the model gives an access to perform and return. -/
def Access.latency (x : Access) (core : Nat) : Nat :=
  (x.elems.map fun e => match e.loc with
    | some l => l.latency core
    | none => 8).foldl max 8

/-- The pseudo-channel an access goes to. -/
def Access.port (x : Access) (core : Nat) : Nat :=
  match x.elems.head?.bind Elt.loc with
  | some l => l.port core
  | none => 0

/-- Whether every element of an access is translated. -/
def Access.known (x : Access) : Bool := x.elems.all fun e => e.loc.isSome

/-- Reserve LDQ entries in push order, deliver what has come, and start the loads newly reserved. -/
def State.kick (s : State) (n i : Nat) : State :=
  let b := (s.coreOf n).bankOf i
  let go := (b.laq.filter fun x => !x.reserved).take b.freeLdq
  let ids := go.map Access.seq
  let s := s.onCoreOf n fun c => c.onBankOf i fun b =>
    Bank.deliver { b with laq := b.laq.map fun x => if ids.contains x.seq then { x with reserved := true } else x } 64
  go.foldl (fun s x => if x.reply.isNone && x.known && !x.held then s.schedule (x.latency n) (performEvent n i x) else s) s

/-- The bank holds later accesses behind its retry ring (15 R269). -/
def Bank.stalled (b : Bank) : Bool := (b.laq ++ b.stq).any fun x => x.held

/-- What an access in the bundle being issued is numbered and named by. -/
def State.access (s : State) (k : AccKind) (a : BitVec 128) (d : Desc) (es : List Elt) : Access :=
  { seq := s.core.accSeq, kind := k, bundle := s.core.bank.pc, slot := s.core.cur.pos, rank := s.core.cur.rank, issue := s.core.seq
    areg := a, tid := aTid a, desc := d, elems := es, path := s.core.path }

/-- The port fetches the span entries of an untranslated access behind its push (15 R269): a read of the span table in
HBM. -/
def State.fetchBehind (s : State) (x : Access) : State :=
  if x.known || x.isLocal then s
  else s.schedule (Loc.latency { space := .hbm, addr := x.desc.base } s.core.id) (.spanEntryFetch (BitVec.ofNat 8 s.core.id) (BitVec.ofNat 1 s.core.bank.id) (BitVec.ofNat 48 x.seq))

/-- A load or atomic enters the LAQ. -/
def State.pushLoad (s : State) (x : Access) : State :=
  let b := s.core.bank
  let x := { x with held := b.stalled && !x.isLocal, ready := !x.isLocal }
  let s := s.onCore fun c => { c with accSeq := c.accSeq + 1
                                      bank := { c.bank with laq := c.bank.laq ++ [x], loads := c.bank.loads + 1 } }
  let s := s.fetchBehind x
  -- a local access has its value already; its reply comes eight cycles later
  if x.isLocal then (s.kick s.core.id b.id).schedule 8 (performEvent s.core.id b.id x) else s.kick s.core.id b.id

/-- A store enters the store queues. -/
def State.pushStore (s : State) (x : Access) : State :=
  let b := s.core.bank
  let x := { x with held := b.stalled && !x.isLocal }
  let s := s.onCore fun c => { c with accSeq := c.accSeq + 1
                                      bank := { c.bank with stq := c.bank.stq ++ [x], stores := c.bank.stores + 1 } }
  let s := s.fetchBehind x
  if x.known && !x.held then s.schedule (x.latency s.core.id / 2) (performEvent s.core.id b.id x) else s

/-- An access of core `n` meets a shut place or a link that is down. -/
def State.shutOut (s : State) (n : Nat) (x : Access) : Bool :=
  x.elems.any fun e => e.places.any fun l => decide (0 < s.shut l) || (s.deadLink n l).isSome

/-- The resource that holds a place: type, die or stack, index (20 R320); none for host memory. -/
def Loc.resource (l : Loc) (core : Nat) : Option (Nat × Nat × Nat) :=
  match l.space with
  | .hbm => some (1, 4 + l.addr / 2 ^ 36, l.addr)
  | .wstore d => some (2, d, l.addr)
  | .spad k => some (3, dieOf k, l.addr)
  | .acc => some (3, dieOf core, l.addr)
  | .wbuf => some (3, dieOf core, l.addr)
  | _ => none

/-- A soft error is logged, 1 corrected or 2 uncorrectable, and starts the self-test of its resource (04 R99,
19 R310). -/
def State.softError (s : State) (kind type unit addr : Nat) : State :=
  let s := s.logEvent kind unit (type + addr * 2 ^ 64)
  if type = 1 then { s with testing := (addr / 256, s.now + 5000) :: s.testing.filter fun t => decide (s.now < t.2) } else s

/-- A soft error at a place. -/
def State.softErrorAt (s : State) (core : Nat) (l : Option Loc) : State :=
  match l.bind fun l => l.resource core with
  | some (t, u, a) => s.softError 2 t u a
  | none => s

/-- Unperformed accesses of a bank. -/
def Bank.unperformed (b : Bank) : List Access := (b.laq.filter fun x => x.reply.isNone) ++ b.stq

/-- Unperformed accesses of a core, both banks. -/
def Core.unperformed (c : Core) : List Access := c.bank.unperformed ++ c.other.unperformed

/-- A completion against the last one of its class: of those of one cycle the longest path stands, then the lower copy
channel (12 R235). -/
def Completion.after (old new : Completion) : Completion :=
  let a := old.path.l + (new.at' - old.path.at')
  let b := new.path.l + (new.at' - new.path.at')
  if old.at' < new.at' ∨ a < b ∨ (a = b ∧ new.pkind = 1 ∧ new.pid < old.pid) then new else old

/-- The completion of an operation in its classes: 0 loads, 1 stores, 2 copies, 3 tile operations (12 R235), 4 what a
DRAIN.REL waits for, 5 what a DRAIN.ACQ waits for (10 R206). -/
def Core.completed (c : Core) (classes : List Nat) (d : Completion) : Core :=
  let enter (m : SMap Completion) (k : Nat) : SMap Completion := SMap.set {} m k (((m.find? fun e => e.1 = k).map fun e => e.2.after d).getD d)
  { c with dones := classes.foldl enter c.dones }
/-- A completion of core `n` in the present cycle. -/
def State.completed (s : State) (n : Nat) (classes : List Nat) (p : Path) (pkind pid : Nat) : State :=
  s.onCoreOf n fun c => c.completed classes { at' := s.now, path := p, pkind := pkind, pid := pid }

/-- Whether an access is an atomic. -/
def AccKind.isAtomic : AccKind → Bool
  | .atomAdd => true
  | .atomMin => true
  | .atomMax => true
  | .atomCas => true
  | _ => false

/-- Whether an access reads memory, which a QPOP before it holds back (23 R366, 10 R216). -/
def AccKind.isLoad (k : AccKind) : Bool := k = .load || k = .gather || k.isAtomic

/-- Two accesses have a byte in common. -/
def Access.meets (x y : Access) : Bool :=
  x.elems.any fun e => y.elems.any fun f => (e.pieces x.desc.tag).any fun p => (f.pieces y.desc.tag).any fun q => overlaps p.1 p.2 q.1 q.2

/-- An earlier access of the present core's bank `i`, or one of the other bank that the retry ring does not hold, keeps an
access from performing: one of the same location (10 R202), one of its own bank still untranslated (15 R269), or, before
a load, a QPOP whose reply is still to come (23 R366). -/
def Core.blocked (c : Core) (i : Nat) (x : Access) : Bool :=
  let stops (mine : Bool) (y : Access) : Bool := y.seq < x.seq &&
    ((mine && y.kind = .qpop && x.kind.isLoad && y.issue < x.issue) ||
    (y.kind ≠ .qpop && y.kind ≠ .qpush && ((mine && !y.known) || ((mine || !y.held) && y.meets x))))
  ((c.bankOf i).unperformed.any (stops true)) || ((c.bankOf (1 - i)).unperformed.any (stops false))

/-- The reply of a load: its elements, +0 elsewhere (04 R80). -/
def State.replyOf (s : State) (n i : Nat) (x : Access) : Words :=
  ofElems x.desc.tag ((List.range x.count).map fun k =>
    match x.elems.find? (fun e => e.idx = k) with
    | some e => s.readElt n i x.desc.tag e
    | none => 0)

/-- The elements of a store written in element order (06 R404, 17 R296). -/
def State.storeElts (s : State) (n i : Nat) (x : Access) : State :=
  x.elems.foldl (fun s e => s.writeElt n i x.desc.tag e (elem x.data x.desc.tag e.idx)) s

/-- The bytes an access moves. -/
def Access.pieces (x : Access) : List (Loc × Nat) := x.elems.flatMap fun e => e.pieces x.desc.tag

/-- A store of the core writes bytes that row operations of its own bundle have still to read: they keep them as they
were (10 R201, 04 R87). -/
def State.keepRows (s : State) (n i issue : Nat) (ps : List (Loc × Nat)) : State :=
  let bytes := ps.flatMap fun p => (List.range p.2).map fun k =>
    let l : Loc := { p.1 with addr := p.1.addr + k }
    (l, s.byteAt n i l)
  let keep (r : RowOp) : RowOp := if r.issue = issue ∧ r.kind ≠ .store then { r with old := r.old ++ bytes } else r
  if (s.coreOf n).rowOps.any fun r => r.issue = issue then s.onCoreOf n fun c => { c with rowOps := c.rowOps.map keep } else s

/-- The new value an atomic leaves (21 R335). -/
def atomNew (k : AccKind) (tag old x y : Nat) : Nat :=
  match k with
  | .atomAdd => if tag = 8 then (old + x) % 2 ^ 32 else add32 old x
  | .atomMin => if tag = 8 then (if signed 32 x < signed 32 old then x else old)
      else (Fmt.fp32.maxmin plain false old x).bits
  | .atomMax => if tag = 8 then (if signed 32 old < signed 32 x then x else old)
      else (Fmt.fp32.maxmin plain true old x).bits
  | _ => if old = x then y else old

/-- An atomic performs: its read and its write are one access (10 R216). -/
def State.atomPerform (s : State) (n i : Nat) (x : Access) : State × Words :=
  match x.elems with
  | [] => (s, [])
  | e :: _ =>
    let s := s.keepRows n i x.issue x.pieces
    let old := s.readElt n i x.desc.tag e
    let new := atomNew x.kind x.desc.tag old (elem x.data x.desc.tag 0) (elem x.data2 x.desc.tag 0)
    (s.writeElt n i x.desc.tag e new, ofElems x.desc.tag [old])

/-- A reply set on a queued load. -/
def State.setReply (s : State) (n i seq : Nat) (v : Words) (err : Bool) : State :=
  s.onCoreOf n fun c => c.onBankOf i fun b =>
    { b with laq := b.laq.map fun x => if x.seq = seq then { x with reply := some v, err := err } else x }

/-- A remote load or atomic performs at its destination and its reply is set. -/
def State.performLoad (s : State) (n i : Nat) (x : Access) (err : Bool) : State :=
  if x.kind.isAtomic then
    let (s, v) := s.atomPerform n i x
    (s.setReply n i x.seq v err).onCoreOf n fun c => c.onBankOf i fun b => { b with stores := b.stores - 1 }
  else s.setReply n i x.seq (s.replyOf n i x) err

/-- The newest completion-flag line that an access reads a byte of (12 R236, 13 R432). -/
def State.flagOf (s : State) (x : Access) : Option FlagLine :=
  s.flags.find? fun f => x.elems.any fun e => (e.pieces x.desc.tag).any fun p => p.1.space = .hbm && !f.keeps p.1.addr p.2

/-- A reply carries the mark of a flag line it read: event 0x07, the command's completion and engine. -/
def State.markReply (s : State) (n i : Nat) (x : Access) : State :=
  match s.flagOf x with
  | none => s
  | some f => s.onCoreOf n fun c => c.onBankOf i fun b =>
    { b with laq := b.laq.map fun y => if y.seq = x.seq then { y with producer := some (7, f.at', f.path, 2, f.stack) } else y }

/-- LOAD_REPLY (06 R141, 04 R100): the access performs where it lies and its reply enters the LDQ in push
order; `err` says that an uncorrectable error met it. -/
def execLoadReply (core : BitVec 8) (bank : BitVec 1) (seq : BitVec 48) (err : Bool) (s : State) : Out :=
  let n := core.toNat
  let i := bank.toNat
  match ((s.coreOf n).bankOf i).laq.find? (fun x => x.seq = seq.toNat) with
  | none => .next s
  | some x =>
    if x.reply.isSome then
      -- of the core's own memories: it performed at its push, and returns now (10 R201, 06 R140)
      if x.ready then .next (s.kick n i)
      else
        let s := if err then s.softErrorAt n (x.elems.head?.bind Elt.loc) else s
        let s := s.onCoreOf n fun c => c.onBankOf i fun b =>
          { b with laq := b.laq.map fun y => if y.seq = x.seq then { y with ready := true, err := err } else y }
        .next ((s.completed n [0] x.path 6 (x.port n)).kick n i)
    else if x.held || !x.known then .next s
    else if (s.coreOf n).blocked i x || s.shutOut n x then .next (s.schedule 1 (.loadReply core bank seq err))
    else
      let s := if err then s.softErrorAt n (x.elems.head?.bind Elt.loc) else s
      -- an error attributed to a row is contained and the element reads +0 (03 R66)
      match x.desc.kind, err with
      | .cache _, true =>
        let s := s.focus n
        let slot := aCoord x.areg 2
        .next ((((s.contain slot codeSoftError).setReply n i x.seq [] false).completed n [0, 5] x.path 6 (x.port n)).kick n i)
      | _, _ => .next ((((s.markReply n i x).performLoad n i x err).completed n (if x.kind.isAtomic then [0, 1, 4, 5] else [0, 5]) x.path 6 (x.port n)).kick n i)

/-- A store leaves its queue; the counter falls but for a row of a TSTT that others follow. -/
def State.popStore (s : State) (n i : Nat) (x : Access) : State :=
  s.onCoreOf n fun c => c.onBankOf i fun b =>
    { b with stq := b.stq.filter (fun y => y.seq ≠ x.seq), stores := if x.more then b.stores else b.stores - 1 }

/-- STORE_PERFORM (10 R202, R203): the store is written at its destination. -/
def execStorePerform (core : BitVec 8) (bank : BitVec 1) (seq : BitVec 48) (s : State) : Out :=
  let n := core.toNat
  let i := bank.toNat
  match ((s.coreOf n).bankOf i).stq.find? (fun x => x.seq = seq.toNat) with
  | none => .next s
  | some x =>
    if x.held || !x.known then .next s
    else if (s.coreOf n).blocked i x || s.shutOut n x then .next (s.schedule 1 (.storePerform core bank seq))
    else .next ((((s.keepRows n i x.issue x.pieces).storeElts n i x).popStore n i x).completed n [1, 4] x.path 6 (x.port n))

/-! ### Fault records and the retry ring (15 R266-R272) -/

/-- Fields (offset, size, value) as bytes. -/
def bytesOf (fs : List (Nat × Nat × Nat)) : List (Nat × Nat) :=
  fs.flatMap fun f => (List.range f.2.1).map fun k => (f.1 + k, f.2.2 / 256 ^ k % 256)

/-- Consecutive non-resident entries of a span table from one on, 1 to 64 (15 R266 NRUN). -/
def nonResident (m : Memory) (base i : Nat) : Nat → Nat
  | 0 => 0
  | k + 1 => if bitAt (m.read (base + 8 * i) 8) 0 then 0 else 1 + nonResident m base (i + 1) k

/-- A fault record's 64 bytes (15 R266).  `kw` is its first word. -/
def State.faultBytes (s : State) (kw bundle : Nat) (a : BitVec 128) (rows blocks chan xid idx nrun bytes : Nat) :
    List (Nat × Nat) :=
  let lc (k : Nat) : Nat := (SMap.get {} s.core.bank.lc k).count
  bytesOf [(0, 8, kw), (8, 8, bundle), (0x10, 16, a.toNat), (0x20, 4, rows), (0x24, 4, blocks),
    (0x28, 8, lc 0 + lc 1 * 2 ^ 16 + lc 2 * 2 ^ 32 + lc 3 * 2 ^ 48), (0x30, 4, chan), (0x34, 4, xid),
    (0x38, 8, idx % 2 ^ 32 + nrun % 128 * 2 ^ 32 + bytes % 2 ^ 25 * 2 ^ 39)]

/-- NRUN of an entry: 1 where the entry itself is resident and its host page is not. -/
def State.nrun (s : State) (d : Desc) (e : SpanEntry) : Nat :=
  max 1 (nonResident s.hbm d.base e.idx (min 64 (d.nspan - e.idx)))

/-- PAGE_FAULT with its record: TVAL is the record's byte address (15 R266). -/
def State.pageFault (s : State) (ring : Bool) (e : SpanEntry) (bytes : List (Nat × Nat)) : TrapReq :=
  { cause := cPageFault, tval := BitVec.ofNat 64 (s.core.bank.area + 0x2000), ring := ring, record := some bytes, request := e.iova }

/-- The accesses that hold an entry of the store queues: stores, and atomics that have not performed (06 R141).  The lines
of a RECV take none. -/
def Bank.storeEntries (b : Bank) : List Access :=
  (b.stq.filter fun x => x.kind ≠ .recvLine) ++ b.laq.filter fun x => x.kind.isAtomic && !x.isLocal && x.reply.isNone

/-- KIND of a retry-ring entry (15 R270). -/
def ringKind (k : AccKind) : Nat :=
  match k with
  | .gather => 4
  | .scatter => 5
  | .load => 1
  | .qpop => 1
  | .atomAdd => 3 | .atomMin => 3 | .atomMax => 3 | .atomCas => 3
  | _ => 2

/-- An access joins the retry ring at TAIL; every later access of the bank is held; the first raises
PAGE_FAULT at the next bundle to issue (15 R269). -/
def State.toRing (s : State) (i : Nat) (x : Access) (e : SpanEntry) (lanes : Nat) : State :=
  let b := s.core.bankOf i
  let area := b.area
  let tail := field b.sys.retryh.toNat 8 7
  let kw := ringKind x.kind + x.slot * 2 ^ 8 + (b.ldq.length + (b.laq.filter fun y => y.seq < x.seq).length) % 64 * 2 ^ 16
  let bytes := bytesOf [(0, 8, kw), (8, 8, x.bundle), (0x10, 16, x.areg.toNat), (0x20, 8, lanes),
    (0x28, 8, (b.storeEntries.filter fun y => y.seq < x.seq).length % 32), (0x30, 16, 0)]
  let s := s.pokeBytes (area + 64 * tail) bytes
  let up (r : SysRegs) : SysRegs := { r with retryh := BitVec.ofNat 64 (setField r.retryh.toNat 8 7 (tail + 1)) }
  let first := b.ring.all RingEntry.done
  let wr : Nat := if ringKind x.kind = 1 ∨ ringKind x.kind = 4 then 0 else 1
  let kind : Nat := if bitAt e.raw 0 then 5 else 2
  let trap := s.pageFault true e (s.faultBytes (kind + x.slot * 2 ^ 8 + wr * 2 ^ 11) x.bundle x.areg 0 0 0 0 e.idx (s.nrun x.desc e) 0)
  let hold (y : Access) : Access := if x.seq ≤ y.seq then { y with held := true } else y
  let s := s.onCore fun c => c.onBankOf i fun b =>
    { b with sys := up b.sys, laq := b.laq.map hold, stq := b.stq.map hold
             ring := b.ring ++ [{ idx := tail, seq := x.seq, store := wr = 1 }]
             pending := if first then b.pending ++ [trap.of x.issue x.rank] else b.pending }
  if s.core.bank.id ≠ i ∧ s.sup then s.onSys up else s

/-- The elements of an access translated by walking the span table, as far as they are resident: the
elements, and the first entry that is not, with the lanes it leaves out. -/
def State.translate (s : State) (x : Access) : List Elt × Option SpanEntry × Nat × Bool :=
  x.elems.foldl (fun acc e =>
    let (es, miss, lanes, bad) := acc
    match e.loc with
    | some _ => (es ++ [e], miss, lanes, bad)
    | none =>
      let q := s.placeElt [] true x.tid x.desc e
      match q.1 with
      | .at l => (es ++ [{ e with loc := some l, rest := q.2 }], miss, lanes, bad)
      | .absent p =>
        let bit := 2 ^ laneOf x.desc.tag e.idx
        (es ++ [e], (match miss with
          | some q => some q
          | none => some p), if lanes / bit % 2 = 1 then lanes else lanes + bit, bad)
      | .refused => (es ++ [e], miss, lanes, true)
      | _ => (es, miss, lanes, bad)) ([], none, 0, false)

/-- An access of the present core's bank `i`. -/
def Core.queued (c : Core) (i seq : Nat) : Option Access :=
  ((c.bankOf i).laq ++ (c.bankOf i).stq).find? fun x => x.seq = seq

/-- A queued access replaced. -/
def State.setAccess (s : State) (i : Nat) (x : Access) : State :=
  let up (y : Access) : Access := if y.seq = x.seq then x else y
  s.onCore fun c => c.onBankOf i fun b => { b with laq := b.laq.map up, stq := b.stq.map up }

/-- A queued access, translated, goes on to perform. -/
def State.start (s : State) (i : Nat) (x : Access) : State :=
  if x.held then s
  else if ringKind x.kind = 2 ∨ ringKind x.kind = 5 then s.schedule (x.latency s.core.id / 2) (performEvent s.core.id i x)
  else if x.reserved then s.schedule (x.latency s.core.id) (performEvent s.core.id i x) else s

/-- SPAN_ENTRY_FETCH (15 R264, R269): the entries an access or a held bundle needs have come. -/
def execSpanEntryFetch (core : BitVec 8) (bank : BitVec 1) (seq : BitVec 48) (s : State) : Out :=
  let s := s.focus core.toNat
  let i := bank.toNat
  if seq = 0 then
    .next (s.onCore fun c => { c with fetched := { what := fetchSpans, addr := 0, data := 0 } :: c.fetched })
  else match s.core.queued i seq.toNat with
    | none => .next s
    | some x =>
      -- a held access is settled like any other: one that faults joins the ring (15 R269)
      if x.known || (s.core.bankOf i).ring.any (fun e => e.seq = x.seq) then .next s
      else
        let (es, miss, lanes, bad) := s.translate x
        let s := s.cacheSpans x.tid x.desc (x.elems.map Elt.off)
        if bad then
          -- the host refused the page: PROTECTION reason 12 at the access's bundle; it is never performed (20 R314)
          let t := { (protection x.tid 12).of x.issue x.rank with tpc := some x.bundle }
          let s := s.onCore fun c => c.onBankOf i fun b => { b with pending := b.pending ++ [t] }
          let x := { x with elems := [] }
          .next ((s.setAccess i x).start i x)
        else match miss with
          | some e =>
            let x := { x with elems := es }
            .next ((s.setAccess i x).toRing i x e lanes)
          | none =>
            let x := { x with elems := es }
            .next ((s.setAccess i x).start i x)

/-- Entries of the retry ring that may perform: those before the first that is not DONE, in push order (22 R351). -/
def Bank.served (b : Bank) : List RingEntry := (sortBy RingEntry.seq b.ring).takeWhile RingEntry.done

/-- Accesses of a bank are released from the retry ring and go on in push order. -/
def State.ringFree (s : State) (i : Nat) (go : Access → Bool) : State :=
  let b := s.core.bankOf i
  let out := sortBy Access.seq ((b.laq ++ b.stq).filter fun x => x.held && x.reply.isNone && go x)
  let free (y : Access) : Access := if go y then { y with held := false } else y
  let s := s.onCore fun c => c.onBankOf i fun b => { b with laq := b.laq.map free, stq := b.stq.map free }
  out.foldl (fun s x => if x.known then s.start i { x with held := false }
    else s.schedule 1 (.spanEntryFetch (BitVec.ofNat 8 s.core.id) (BitVec.ofNat 1 i) (BitVec.ofNat 48 x.seq))) s

/-- An entry becomes DONE: it performs once every earlier entry is DONE as well; when all are, the held accesses go on
in push order (15 R272, 22 R351). -/
def State.ringDone (s : State) (i idx : Nat) : State :=
  let b := s.core.bankOf i
  let a := b.area + 64 * idx
  let s := s.poke (a + 1) (setField (s.hbm.byte (a + 1)).toNat 3 1 1) 1
  let s := s.onCore fun c => c.onBankOf i fun b =>
    { b with ring := b.ring.map fun (r : RingEntry) => if r.idx = idx then { r with done := true } else r }
  let b := s.core.bankOf i
  if b.ring.all RingEntry.done then s.ringFree i fun _ => true
  else s.ringFree i fun x => b.served.any fun r => r.seq = x.seq

/-! ### A queue's bytes and its binding (12 R225, R227) -/

/-- The HBM address of a byte of a queue. -/
def State.queueAddr (s : State) (tid : Nat) (d : Desc) (b : Nat) : Option Nat :=
  match s.place true tid d (d.boff + b) with
  | .at l => if l.space = .hbm then some l.addr else none
  | _ => none

/-- `k` bytes of a queue. -/
def State.queueRead (s : State) (tid : Nat) (d : Desc) (b : Nat) : Nat → Nat
  | 0 => 0
  | k + 1 => (match s.queueAddr tid d b with
    | some a => (s.hbm.byte a).toNat
    | none => 0) + 256 * State.queueRead s tid d (b + 1) k

/-- `k` bytes written to a queue. -/
def State.queueWrite (s : State) (tid : Nat) (d : Desc) (b x : Nat) : Nat → State
  | 0 => s
  | k + 1 => State.queueWrite (match s.queueAddr tid d b with
    | some a => s.setByteAt 0 0 { space := .hbm, addr := a } (BitVec.ofNat 8 x)
    | none => s) tid d (b + 1) (x / 256) k

/-- In deterministic mode the first push binds PROD and the first pop CONS (12 R227). -/
def State.queueBind (s : State) (tid : Nat) (d : Desc) (off : Nat) : Chk State :=
  if !s.det then .ok s
  else
    let me := s.core.bank.sys.taskix.toNat + 1
    let old := s.queueRead tid d off 4
    if old = 0 then .ok (s.queueWrite tid d off me 4)
    else if old = me then .ok s
    else .error (.trap (raceTrap tid 4 0))

/-- The stamps and the queue's binding of an access whose page was absent at its issue, before it performs (12 R227, R231):
the RACE that it raises, or the machine with them. -/
def State.checkLate (s : State) (x : Access) (locs : List Loc) : Except TrapReq State :=
  match if x.kind = .qpush then s.queueBind x.tid x.desc 16 else if x.kind = .qpop then s.queueBind x.tid x.desc 20 else .ok s with
  | .ok s => (s.stampLate x locs).mapError fun task => raceTrap x.tid 1 task
  | .error _ => .error (raceTrap x.tid 4 0)

/-- FILLQ (15 R272, 22 R351). -/
def execFillq (a b : GReg) (s : State) : Out :=
  finish s do
    need s.sup s.privilege
    let x := (s.g a).toNat
    let y := (s.g b).toNat
    let supply := bitAt x 8
    need (field x 9 55 == 0 && !bitAt x 7 && (!supply || y % 256 == 0)) (violation 13)
    let i := s.core.other.id
    match s.core.other.ring.find? (fun r => r.idx = x % 128 ∧ r.done = false) with
    | none => return s
    | some r =>
      match s.core.queued i r.seq with
      | none => return s.ringDone i r.idx
      | some q =>
        if supply then
          need (ringKind q.kind == 1 || ringKind q.kind == 4) (protection q.tid 11)
          let v : Words := SMap.tabulate 0 (List.range 64) fun k => BitVec.ofNat 32 (s.core.spad.read (y + 4 * k) 4)
          return ((s.setReply s.core.id i q.seq v false).ringDone i r.idx).kick s.core.id i
        else
          match s.core.fetchedOf fetchSpans 0 with
          | none => .error (.hold 13 false (some (.spanEntryFetch (BitVec.ofNat 8 s.core.id) (BitVec.ofNat 1 s.core.bank.id) 0)))
          | some _ =>
            let (es, miss, _, bad) := s.translate q
            need (!bad) (protection q.tid 12)
            match miss with
            | some e =>
              let wr : Nat := if r.store then 1 else 0
              .error (.trap (s.pageFault true e (s.faultBytes ((if bitAt e.raw 0 then 5 else 2) + q.slot * 2 ^ 8 + wr * 2 ^ 11) q.bundle q.areg 0 0 0 0 e.idx (s.nrun q.desc e) 0)))
            | none =>
              let s := s.cacheSpans q.tid q.desc (q.elems.map Elt.off)
              let locs := ((es.zip q.elems).filter fun p => p.2.loc.isNone).flatMap fun p => p.1.places
              match (s.view i).checkLate q locs with
              | .error race =>
                -- the access races: it takes no place, and RACE is delivered at the TRET (12 R232, log 26)
                let t := { race.of q.issue q.rank with tpc := some q.bundle }
                let s := s.onCore fun c => c.onBankOf i fun b => { b with pending := b.pending ++ [t] }
                return (s.setAccess i { q with elems := [] }).ringDone i r.idx
              | .ok t => return ((t.view s.core.bank.id).setAccess i { q with elems := es }).ringDone i r.idx

/-! ### Loads (25 R397-R399) -/

/-- TAG_MISMATCH of a tensor operand (21 R335, 25 R398). -/
def tensorTag (r : Nat) (d : Desc) : TrapReq := tagMismatch (r + 2 ^ 7 + d.tag * 2 ^ 8)

/-- The address register steps on coordinate 0 after the access is pushed (06 R134). -/
def State.stepped (s : State) (d : Desc) (a : AReg) (st : BitVec 6) : Chk State := do
  if st = 0 then return s
  else
    let y ← stepCoord d (s.a a) 0 st.toInt
    return s.writeA a y

/-- The consecutive elements of a TLD or TST. -/
def run (a : BitVec 128) (n : Nat) : List (Nat × Int) :=
  (List.range n).map fun e => (e, Int.ofNat (aCoord a 0) + Int.ofNat e)

/-- The offsets of a gather or scatter. -/
def State.offsets' (s : State) (a : BitVec 128) (v n : Nat) : List (Nat × Int) :=
  (List.range n).map fun e => (e, Int.ofNat (aCoord a 0) + signed 32 ((s.v v).at e).toNat)

/-- A load's own checks, its translation and its push. -/
def State.loadElts (s : State) (k : AccKind) (a : BitVec 128) (d : Desc) (cs : List (Nat × Int)) (mask : Word) : Chk State := do
  let es := eltsOf d a cs (selected mask d.tag)
  s.tilesFree false (accTiles d es)
  if !es.isEmpty then s.permit (aTid a) d .read
  let p ← s.placeAll false (aTid a) d es
  s.partsThere (locParts s.core.id (eltBytes d.tag) (p.elts.flatMap Elt.places))
  let q ← if s.det then s.placeAll true (aTid a) d es else pure p
  s.raceCheck (aTid a) d .read (q.elts.flatMap Elt.places)
  let s := s.containAll codeCachePage p.contained
  let x := { s.access k a d p.elts with count := cs.length
                                        isLocal := p.known && p.elts.all fun e => match e.loc with
                                          | some l => l.isOwn s.core.id
                                          | none => false }
  let x := if x.isLocal then { x with reply := some (s.replyOf s.core.id s.core.bank.id x) } else x
  return s.pushLoad x

/-- TLD.4, TLD.64 and TLD.256. -/
def load (n : Nat) (a : AReg) (t : BitVec 6) (m : VMReg) (s : State) : Chk State := do
  backpressure 12 (63 ≤ s.core.bank.loads)
  let x := s.a a
  let d ← s.descA a (aTid x)
  (need (2 * n % esize2 d.tag == 0) (tensorTag a d)).before do
    let s' ← s.loadElts .load x d (run x (2 * n / esize2 d.tag)) (s.vm m)
    s'.stepped d a t

/-- TLD.4. -/
def execTld4 (a : AReg) (t : BitVec 6) (m : VMReg) (s : State) : Out := finish s (load 4 a t m s)
/-- TLD.64. -/
def execTld64 (a : AReg) (t : BitVec 6) (m : VMReg) (s : State) : Out := finish s (load 64 a t m s)
/-- TLD.256. -/
def execTld256 (a : AReg) (t : BitVec 6) (m : VMReg) (s : State) : Out := finish s (load 256 a t m s)

/-- TLD.G. -/
def execTldG (a : AReg) (v : VReg) (m : VMReg) (s : State) : Out :=
  finish s do
    backpressure 12 (63 ≤ s.core.bank.loads)
    let x := s.a a
    let d ← s.descA a (aTid x)
    (s.tagIn v [0, 8]).before <|
      s.loadElts .gather x d (s.offsets' x v (if d.tag = 10 then 32 else 64)) (s.vm m)

/-! ### Stores (25 R404) -/

/-- What the bundle being issued stores to (10 R201). -/
def State.noteStored (s : State) (ps : List (Loc × Nat)) : State :=
  s.onCore fun c => { c with cur := { c.cur with stored := c.cur.stored ++ ps } }

/-- Two stores of one bundle to one location are ILLEGAL_BUNDLE (10 R201). -/
def State.storesApart (s : State) (ps : List (Loc × Nat)) : Chk Unit :=
  need (!ps.any fun p => s.core.cur.stored.any fun k => overlaps p.1 p.2 k.1 k.2) { cause := cIllegalBundle, tval := 5, cls := 1 }

/-- A store takes an entry of the store-address and store-data queues, and the stores counter (04 R97, 06 R141). -/
def State.storeRoom (s : State) : Chk Unit := do
  backpressure 3 (32 ≤ s.core.bank.storeEntries.length)
  backpressure 13 (31 ≤ s.core.bank.stores)

/-- A store's own checks, its translation and its push, or its writing at once where it is local. -/
def State.storeElts' (s : State) (k : AccKind) (a : BitVec 128) (d : Desc) (cs : List (Nat × Int)) (data : Words) : Chk State := do
  let es := eltsOf d a cs fun _ => true
  s.tilesFree true (accTiles d es)
  if !es.isEmpty then s.permit (aTid a) d .write
  let p ← s.placeAll false (aTid a) d es
  let q ← s.placeAll true (aTid a) d es
  let locs := q.elts.flatMap Elt.places
  let n := eltBytes d.tag
  s.partsThere (locParts s.core.id n locs)
  let ps := q.elts.flatMap fun e => e.pieces d.tag
  s.fetchFree ps
  s.storesApart ps
  s.raceCheck (aTid a) d .write locs
  let s := s.containAll codeCachePage p.contained
  let s := s.noteStored ps
  let x := { s.access k a d p.elts with data := data }
  if p.known && p.elts.all fun e => match e.loc with
      | some l => l.isOwn s.core.id
      | none => false then
    return (s.keepRows s.core.id s.core.bank.id x.issue x.pieces).storeElts s.core.id s.core.bank.id x
  else return s.pushStore x

/-- TST.4, TST.64 and TST.256. -/
def store (n : Nat) (a : AReg) (t : BitVec 6) (v : VReg) (s : State) : Chk State := do
  s.storeRoom
  let x := s.a a
  let d ← s.descA a (aTid x)
  (do need (2 * n % esize2 d.tag == 0) (tensorTag a d); s.tagIn v [0, d.tag] : Chk Unit).before do
    let s' ← s.storeElts' .store x d (run x (2 * n / esize2 d.tag)) (s.v v)
    s'.stepped d a t

/-- TST.4. -/
def execTst4 (a : AReg) (t : BitVec 6) (v : VReg) (s : State) : Out := finish s (store 4 a t v s)
/-- TST.64. -/
def execTst64 (a : AReg) (t : BitVec 6) (v : VReg) (s : State) : Out := finish s (store 64 a t v s)
/-- TST.256. -/
def execTst256 (a : AReg) (t : BitVec 6) (v : VReg) (s : State) : Out := finish s (store 256 a t v s)

/-- TST.S. -/
def execTstS (a : AReg) (i : BitVec 5) (v : VReg) (s : State) : Out :=
  finish s do
    s.storeRoom
    let x := s.a a
    let d ← s.descA a (aTid x)
    (do s.tagIn i.toNat [0, 8]; s.tagIn v [0, d.tag] : Chk Unit).before <|
      s.storeElts' .scatter x d (s.offsets' x i.toNat (if d.tag = 10 then 32 else 64)) (s.v v)

/-! ### Atomics (21 R335) -/

/-- An atomic's formats: the tensor's, and those of its operand registers. -/
def State.atomTags (s : State) (k : AccKind) (v : VReg) (d : Desc) : Chk Unit := do
  need (d.tag == 1 || d.tag == 8) (tensorTag v d)
  s.tagIn v [0, d.tag]
  if k = .atomCas then s.tagIn (v.val + 1) [0, d.tag]

/-- An atomic's own checks, its translation and its push, or its performance at once where it is local. -/
def State.atomElts (s : State) (k : AccKind) (x : BitVec 128) (d : Desc) (v : VReg) : Chk State := do
  let es := eltsOf d x [(0, Int.ofNat (aCoord x 0))] fun _ => true
  if !es.isEmpty then
    s.permit (aTid x) d .atomic
    -- order-dependent atomics on shared data (12 R228)
    need (!(s.det && d.sw && (k = .atomCas || (k = .atomAdd && d.tag == 1)))) (raceTrap (aTid x) 2 0)
  let p ← s.placeAll false (aTid x) d es
  let q ← s.placeAll true (aTid x) d es
  let locs := q.elts.flatMap Elt.places
  s.partsThere (locParts s.core.id 4 locs)
  let ps := q.elts.flatMap fun e => e.pieces d.tag
  s.fetchFree ps
  s.storesApart ps
  s.raceCheck (aTid x) d .orderFree locs
  let s := s.containAll codeCachePage p.contained
  let s := s.noteStored ps
  let own := p.known && p.elts.all fun e => match e.loc with
    | some l => l.isOwn s.core.id
    | none => false
  let acc := { s.access k x d p.elts with count := 1, isLocal := own, data := s.v v
                                          data2 := s.v (v.val + 1) }
  if own then
    let (s, r) := s.atomPerform s.core.id s.core.bank.id acc
    return s.pushLoad { acc with reply := some r }
  else return (s.pushLoad acc).onBank fun b => { b with stores := b.stores + 1 }

/-- An atomic. -/
def atomic (k : AccKind) (a : AReg) (t : BitVec 6) (v : VReg) (s : State) : Chk State := do
  backpressure 12 (63 ≤ s.core.bank.loads)
  s.storeRoom
  let x := s.a a
  let d ← s.descA v (aTid x)
  (s.atomTags k v d).before do
    let s' ← s.atomElts k x d v
    s'.stepped d a t

/-- ATOM.ADD. -/
def execAtomAdd (a : AReg) (t : BitVec 6) (v : VReg) (s : State) : Out := finish s (atomic .atomAdd a t v s)
/-- ATOM.MIN. -/
def execAtomMin (a : AReg) (t : BitVec 6) (v : VReg) (s : State) : Out := finish s (atomic .atomMin a t v s)
/-- ATOM.MAX. -/
def execAtomMax (a : AReg) (t : BitVec 6) (v : VReg) (s : State) : Out := finish s (atomic .atomMax a t v s)
/-- ATOM.CAS. -/
def execAtomCas (a : AReg) (t : BitVec 6) (v : VReg) (s : State) : Out := finish s (atomic .atomCas a t v s)

/-! ### VPOP (25 R418) -/

/-- VPOP: the oldest LDQ entry into vd. -/
def execVpop (d : VReg) (m : VMReg) (s : State) : Out :=
  finish s do
    s.vFree
    let b := s.core.bank
    match b.ldq with
    | [] =>
      need (b.laq.any fun x => x.issue < s.core.seq) (own cDeadWait 0)
      need (!b.laq.head?.any Access.late) (own cWatchdog 1)
      .error (.hold 1 false none)
    | x :: r =>
      need (!x.err) (own cSoftError 0)
      let s := s.onBank fun b => { b with ldq := r }
      let s := match x.producer with
        | some (ev, ta, p, kind, pid) => if ev = 3 then s.adoptWait 1 ev ta p kind pid 0 else s.adoptPoll ev ta p kind pid
        | none => s
      return (s.writeV d x.data (writeMask (s.vm m) x.tag) x.tag 1).kick s.core.id b.id

/-! ### TOUCH (25 R401, 15 R264, R265) -/

/-- The in-range elements of a region in row order: (column, row, storage offset). -/
def regionElts (d : Desc) (a : BitVec 128) (rows cols : Nat) : List (Nat × Nat × Nat) :=
  (List.range rows).flatMap fun r => (List.range cols).filterMap fun c =>
    (storeOff d fun j => if j = 0 then aCoord a 0 + c else if j = 1 then aCoord a 1 + r else aCoord a j).map
      fun o => (c, r, o.1)

/-- What a TOUCH finds at its region's elements in order: the entries, or the first absence. -/
inductive Touched where
  | entries (l : List SpanEntry)
  | absent (c r : Nat) (e : SpanEntry)
  | missing
  | stop (t : TrapReq)
  deriving DecidableEq, Repr

/-- The entries of a region, without repeats, in order of first use. -/
def State.touchSpans (s : State) (walk : Bool) (tid : Nat) (d : Desc) :
    List (Nat × Nat × Nat) → List SpanEntry → Touched
  | [], acc => .entries acc
  | (c, r, off) :: rest, acc =>
    match findSpan acc tid off with
    | some _ => State.touchSpans s walk tid d rest acc
    | none =>
      let windows := s.core.bank.windows.filter fun w => w.covers tid d off
      let e := match findSpan (windows.flatMap Window.spans ++ s.core.bank.spans) tid off with
        | some e => some e
        | none => match walkSpans s.hbm tid d.base off d.nspan 0 0 with
          | .entry e => if walk then some e else none
          | _ => none
      match e, s.place walk tid d off with
      | _, .beyond => .stop (protection tid 5)
      | _, .refused => .stop (protection tid 12)
      | _, .absent e => if walk then .absent c r e else .missing
      | some e, .at _ => State.touchSpans s walk tid d rest (acc ++ [e])
      | _, _ => .missing

/-- The translations of the host pages that a region's elements lie in: (I/O virtual page, host page) (15 R265). -/
def State.touchPages (s : State) (d : Desc) (l : List SpanEntry) (tid : Nat) (offs : List Nat) : List (Nat × Nat) :=
  if d.loc ≠ 1 then []
  else (offs.filterMap fun off => match findSpan l tid off with
    | some e =>
      let a := spanFrame e.raw + (off - e.start)
      (s.hostPage a).map fun h => (a / 4096, h / 4096)
    | none => none).eraseDups

/-- Old windows end first until at most `room` pinned entries remain (15 R265). -/
def dropOldest (room : Nat) : Nat → List Window → List Window
  | 0, l => l
  | k + 1, l =>
    if (l.flatMap Window.spans).length ≤ room then l else dropOldest room k (l.drop 1)

/-- TOUCH.R, .W and .RW. -/
def touch (rd wr : Bool) (a : AReg) (rows blocks : BitVec 6) (s : State) : Chk State := do
  let x := s.a a
  let tid := aTid x
  let d ← s.desc tid
  let nr := rows.toNat + 1
  let nc := 64 * (blocks.toNat + 1)
  let es := regionElts d x nr nc
  if es.isEmpty then return s
  else
    if rd then s.permit tid d .read
    if wr then s.permit tid d .write
    match d.kind with
    | .cache g =>
      -- an entry with V = 0 is contained and pins nothing (16 R280)
      let bad := es.filterMap fun e => match s.cachePlace g d e.2.2 with
        | .contained slot => some slot
        | _ => none
      return s.containAll codeCachePage bad.eraseDups
    | .table =>
      if d.loc = 2 ∨ d.loc = 3 then return s
      else
        let walk := (s.core.fetchedOf fetchSpans 0).isSome
        match s.touchSpans walk tid d es [] with
        | .stop t => .error (.trap t)
        | .missing => do
          s.reaches d.base
          .error (.hold 13 false (some (.spanEntryFetch (BitVec.ofNat 8 s.core.id) (BitVec.ofNat 1 s.core.bank.id) 0)))
        | .absent c r e =>
          let at' := aSet (aSet x 0 (aCoord x 0 + c)) 1 (aCoord x 1 + r)
          let kind : Nat := if bitAt e.raw 0 then 5 else 1
          .error (.trap (s.pageFault false e (s.faultBytes (kind + s.core.cur.pos * 2 ^ 8 + (if wr then 2 ^ 11 else 0))
            s.core.bank.pc at' (nr - r) (blocks.toNat + 1 - c / 64) 0 0 e.idx (s.nrun d e) 0)))
        | .entries l =>
          let w : Window :=
            { tid := tid, opened := s.now, pages := s.touchPages d l tid (es.map fun e => e.2.2), c0 := aCoord x 0, c1 := aCoord x 1, c2 := aCoord x 2, c3 := aCoord x 3
              cols := nc, rows := nr, ends := s.core.bank.issues + 1 + 4096, spans := l.take 64 }
          let all := sortBy Window.opened (s.core.bank.windows ++ s.core.other.windows)
          let kept := dropOldest (64 - w.spans.length) 64 all
          let s := s.cacheSpans tid d (es.map fun e => e.2.2)
          return s.onCore fun c =>
            { c with bank := { c.bank with windows := c.bank.windows.filter kept.contains ++ [w] }
                     other := { c.other with windows := c.other.windows.filter kept.contains } }
    | _ => return s

/-- TOUCH.R. -/
def execTouchR (a : AReg) (r b : BitVec 6) (s : State) : Out := finish s (touch true false a r b s)
/-- TOUCH.W. -/
def execTouchW (a : AReg) (r b : BitVec 6) (s : State) : Out := finish s (touch false true a r b s)
/-- TOUCH.RW. -/
def execTouchRw (a : AReg) (r b : BitVec 6) (s : State) : Out := finish s (touch true true a r b s)

/-- TOUCH.REL: every window whose region contains the register's origin element ends. -/
def execTouchRel (a : AReg) (s : State) : Out :=
  let x := s.a a
  let keep (w : Window) : Bool :=
    !(w.tid = aTid x && w.c0 ≤ aCoord x 0 && aCoord x 0 < w.c0 + w.cols && w.c1 ≤ aCoord x 1
      && aCoord x 1 < w.c1 + w.rows && w.c2 = aCoord x 2 && w.c3 = aCoord x 3)
  .next (s.onCore fun c => { c with bank := { c.bank with windows := c.bank.windows.filter keep }
                                    other := { c.other with windows := c.other.windows.filter keep } })

/-- TOUCH_WINDOW_EXPIRY (15 R264): windows end after 4,096 issue cycles of the task. -/
def execTouchWindowExpiry (core : BitVec 8) (s : State) : Out :=
  .next ((s.focus core.toNat).onBank fun b => { b with windows := b.windows.filter fun w => decide (b.issues < w.ends) })

end Sys2Proof.Machine
end

