-- ==== Sys2Proof/Machine/Copy.lean ====
section
/-!
DEFINITION. The copy channels, the row transfers to and from tiles, and the cluster broadcast bus (04 R85-R87,
R92-R96, 21 R337, R347, R348, 25 R400, R405, R427).
-/
namespace Sys2Proof.Machine

/-! ### Engine occupancy (06 R143) -/

/-- SCHEDULE_FAULT with the remaining occupancy (06 R143): bit 0 names the X engine. -/
def scheduleFault (x : Nat) (rem : Nat) : TrapReq :=
  { cause := cScheduleFault, tval := BitVec.ofNat 64 (x + rem % 65536 * 2 ^ 16), cls := 3 }

/-- The X engine is free, or SCHEDULE_FAULT. -/
def State.xFree (s : State) : Chk Unit :=
  need (s.core.xBusy ≤ s.core.cpy.cycles) (scheduleFault 1 (s.core.xBusy - s.core.cpy.cycles))

/-- The X engine is occupied for a number of beats from this issue. -/
def State.xTake (s : State) (beats : Nat) : State :=
  s.onCore fun c => { c with xBusy := c.cpy.cycles + beats }

/-- The M slot may issue: SCHEDULE_FAULT behind running beats, a hold while a relaxation has the array. -/
def State.mFree (s : State) : Chk Unit :=
  if s.core.relax.isSome then .error (.hold 7 true none)
  else need (s.core.mBusy ≤ s.core.mat.cycles) (scheduleFault 0 (s.core.mBusy - s.core.mat.cycles))

/-- The array is occupied for a number of beats from this issue. -/
def State.mTake (s : State) (beats : Nat) : State :=
  s.onCore fun c => { c with mBusy := c.mat.cycles + beats }

/-! ### Tiles and their write ports (04 R85, R86, 06 R139) -/

/-- A bank's write port claimed by a COPYADD or TLDT at a matrix-domain cycle (04 R86). -/
def Core.rowClaims (c : Core) (bank cycle : Nat) : Bool :=
  c.rowOps.any fun r => r.kind ≠ .store && !r.paused && r.tile % 8 = bank && r.next ≤ cycle && cycle < r.next + (64 - r.row)

/-- A bank's write port claimed by the matrix engine. -/
def Core.matClaims (c : Core) (bank cycle : Nat) : Bool :=
  c.matOps.any fun o => o.dests.any fun d => d.1 % 8 = bank && d.2 = cycle

/-- Some claim of 64 cycles from `start` collides (04 R86). -/
def Core.collides (c : Core) (bank start : Nat) : Bool :=
  (List.range 64).any fun j => c.rowClaims bank (start + j) || c.matClaims bank (start + j)

/-! ### Ranges of storage -/

/-- The offset past a tensor's storage; storage offsets count from the span table's start (21 R347). -/
def Desc.limit (d : Desc) : Nat := d.boff + d.size

/-- Bytes of a range of length `n` that lie inside its storage. -/
def Range.inside (r : Range) (n : Nat) : Nat :=
  match r.off with
  | none => 0
  | some o =>
    match r.desc.kind with
    -- within one position's entry (03 R67, 21 R347)
    | .cache _ => min n (r.desc.ext0 - o % r.desc.ext0)
    | _ => min n (r.desc.limit - o)

/-- A range from its byte `k` on. -/
def Range.from' (r : Range) (k : Nat) : Range := { r with off := r.off.map (· + k) }

/-- The range an address register names. -/
def rangeOf (a : BitVec 128) (d : Desc) : Range :=
  { tid := aTid a, desc := d, off := (storeOff d (aCoord a)).map Prod.fst }

/-- Offsets that touch each 4 KiB block of a run. -/
def blockOffs (o n : Nat) : List Nat :=
  if n = 0 then [] else (List.range ((n - 1) / 4096 + 1)).map (fun k => o + 4096 * k) ++ [o + n - 1]

/-- The permission of one end of a range (21 R347). -/
def State.rangePermit (s : State) (r : Range) (n : Nat) (m : Mode) : Chk Unit :=
  if r.off.isNone || n = 0 then .ok () else s.permit r.tid r.desc m

/-- Its coverage by the span table. -/
def State.rangeCovered (s : State) (r : Range) (n : Nat) : Chk Unit :=
  match r.off with
  | some o =>
    if 0 < r.inside n ∧ r.desc.kind = .table ∧ s.place true r.tid r.desc (o + r.inside n - 1) = .beyond then
      .error (.trap (protection r.tid 5))
    else .ok ()
  | none => .ok ()

/-- The race check of its blocks. -/
def State.rangeRaces (s : State) (r : Range) (n : Nat) (m : Mode) : Chk Unit :=
  match r.off with
  | some o =>
    if r.inside n = 0 then .ok ()
    else
      let locs := (blockOffs o (r.inside n)).filterMap fun b => match s.place true r.tid r.desc b with
        | .at l => some l
        | _ => none
      s.raceCheck r.tid r.desc (if m = .read then .read else .write) locs
  | none => .ok ()

/-- The checks of a range alone, in order. -/
def State.checkRange (s : State) (r : Range) (n : Nat) (m : Mode) : Chk Unit := do
  s.rangePermit r n m
  s.rangeCovered r n
  s.rangeRaces r n m

/-- A byte of a range at `b` from its start: its place, zero or nothing where it is out of range. -/
inductive ByteAt where
  | at (l : Loc)
  | outside
  | absent (e : SpanEntry) (off : Nat)
  | stop (reason : Nat)
  | contained (slot : Nat)
  deriving DecidableEq, Repr

/-- Where byte `b` of a range lies. -/
def State.rangeByte (s : State) (r : Range) (b : Nat) : ByteAt :=
  match r.off with
  | none => .outside
  | some o =>
    if r.inside (b + 1) ≤ b then .outside
    else match s.place true r.tid r.desc (o + b) with
      | .at l => .at l
      | .absent e => .absent e (o + b)
      | .beyond => .stop 5
      | .refused => .stop 12
      | .contained k => .contained k
      | _ => .outside

/-- The places of the next `k` bytes of a range, where they have one. -/
def State.rangeLocs (s : State) (r : Range) (b k : Nat) : List Loc :=
  (List.range k).filterMap fun i => match s.rangeByte r (b + i) with
    | .at l => some l
    | _ => none

/-- The span entries of the next `n` bytes of a range come into the port's cache (04 R82). -/
def State.cacheRange (s : State) (r : Range) (b n : Nat) : State :=
  match r.off with
  | some o =>
    if r.desc.kind = .table ∧ r.desc.loc < 2 ∧ b < r.inside (b + n) then
      s.cacheSpans r.tid r.desc (blockOffs (o + b) (r.inside (b + n) - b))
    else s
  | none => s

/-- Tiles that a range of the accumulator memory meets. -/
def tilesOf (r : Range) (n : Nat) : List Nat :=
  match r.desc.kind, r.off with
  | .acc, some o => if r.inside n = 0 then [] else
      (List.range ((r.inside n - 1 + o % 16384) / 16384 + 1)).map fun k => o / 16384 + k
  | _, _ => []

/-! ### Channels (04 R92-R94) -/

/-- A copy channel. -/
def Core.chan (c : Core) (n : Nat) : Channel := SMap.get {} c.chans n
/-- Change a copy channel. -/
def Core.onChan (c : Core) (n : Nat) (f : Channel → Channel) : Core :=
  { c with chans := SMap.set {} c.chans n (f (c.chan n)) }

/-- A pre-emption has stopped the core (15 R274). -/
def Core.halted (c : Core) : Bool := c.preempt.any Preempt.stopped

/-- The places that a transfer's next sector is read at and written to. -/
def State.copyPlaces (s : State) (t : Transfer) : List Loc :=
  let s := s.view t.bank
  s.rangeLocs t.src t.written 1 ++ s.rangeLocs t.dst t.written 1

/-- What a transfer's beginning takes: 64 reference cycles for each Skomon hop on the way of its bytes (01 R12). -/
def State.copyLead (s : State) (core : Nat) (t : Transfer) : Nat :=
  if t.written ≠ 0 then 0 else ((s.copyPlaces t).map fun l => 64 * hops (dieOf core) (l.die core)).foldl max 0

/-- The head of a channel starts moving, unless its rows move by themselves. -/
def State.chanGo (s : State) (core n : Nat) (lat : Nat) : State :=
  match ((s.coreOf core).chan n).queue.head? with
  | some t => if t.kind = .copyAdd ∨ t.stopped = 1 ∨ t.stopped = 2 then s
      else s.scheduleOnce (lat + (s.focus core).copyLead core t) (.copySectorWrite (BitVec.ofNat 8 core) (BitVec.ofNat 2 n) false)
  | none => s

/-- Put a transfer on a channel: it takes XNEXT, and the copies counter rises (04 R92, R93). -/
def State.queueCopy (s : State) (n : Nat) (t : Transfer) : State :=
  let s := s.onCore fun c => (c.onChan n fun ch => { ch with next := ch.next + 1, queue := ch.queue ++ [t] })
  let s := s.onBank fun b => { b with copies := b.copies + 1 }
  s.chanGo s.core.id n 64

/-- Room for a transfer (04 R93, 06 R141). -/
def State.copyRoom (s : State) (n : Nat) : Chk Unit := do
  backpressure (5 + n) (16 ≤ (s.core.chan n).queue.length)
  backpressure 14 (63 ≤ s.core.bank.copies)

/-- The checks of a COPY's ranges at issue (21 R347): the weight buffer may be a destination alone, written by COPY alone. -/
def State.copyChecks (s : State) (src dst : Range) (x : Nat) : Chk Unit := do
  s.tilesFree false (tilesOf src x)
  s.tilesFree true (tilesOf dst x)
  (if src.off.isSome && decide (0 < x) then need (src.desc.kind ≠ .wbuf) (protection src.tid 3) else .ok ()).before <|
    do
      (s.rangePermit src x .read).before (s.rangePermit dst x .copy)
      (s.rangeCovered src x).before (s.rangeCovered dst x)
      (s.rangeRaces src x .read).before (s.rangeRaces dst x .copy)

/-- COPY (21 R347). -/
def execCopy (d a : AReg) (l : GReg) (e : BitVec 4) (c : BitVec 2) (s : State) : Out :=
  finish s do
    let x := (s.g l).toNat
    let n := c.toNat
    s.xFree.before do
      s.copyRoom n
      (need (x / 2 ^ 32 == 0) (violation 10)).before do
        let ds ← s.desc (aTid (s.a a))
        let dd ← s.desc (aTid (s.a d))
        let src := rangeOf (s.a a) ds
        let dst := rangeOf (s.a d) dd
        s.copyChecks src dst x
        let t : Transfer :=
          { id := (s.core.chan n).next.toNat, kind := .program, bank := s.core.bank.id, bundle := s.core.bank.pc
            issue := s.core.seq, src := src, dst := dst, len := x, srcA := s.a a, dstA := s.a d, path := s.core.path }
        return (((s.cacheRange src 0 x).cacheRange dst 0 x).queueCopy n t).xTake (e.toNat + 1)

/-- A transfer completes (04 R93, R94): the tidemark passes it and the copies counter falls. -/
def State.copyDone (s : State) (n : Nat) (t : Transfer) : State :=
  let core := s.core.id
  let s := s.onCore fun c =>
    let c := c.onChan n fun ch => { ch with queue := ch.queue.drop 1, mark := BitVec.ofNat 64 (t.id + 1)
                                            past := (t.id, s.now, t.path) :: ch.past }
    c.onBankOf t.bank fun b => { b with copies := b.copies - 1 }
  (s.completed core [2, 4] t.path 1 (core * 4 + n)).chanGo core n 1

/-- A fault record of a copy (15 R266): KIND 3, or 4 for a fetcher's copy. -/
def State.copyFault (s : State) (n : Nat) (t : Transfer) (wr : Bool) (r : Range) (a : BitVec 128) (e : SpanEntry) (off : Nat) : TrapReq :=
  let kind : Nat := if bitAt e.raw 0 then 5 else if t.kind = .fetcher ∨ t.kind = .prefetch then 4 else 3
  let s := if s.core.bank.id = t.bank then s else { s with core := { s.core with bank := s.core.other } }
  s.pageFault false e (s.faultBytes (kind + (if wr then 2 ^ 11 else 0)) t.bundle (unstoreOff r.desc a off) 0 0 n (t.id % 2 ^ 32)
    e.idx (s.nrun r.desc e) t.written)

/-- A trap becomes due in a bank (15 R259). -/
def State.pend (s : State) (i : Nat) (t : TrapReq) : State :=
  s.onCore fun c => c.onBankOf i fun b => { b with pending := b.pending ++ [t] }

/-- How a sector's bytes stand before they move. -/
def State.sectorStop (s : State) (r : Range) (from' k : Nat) : Option ByteAt :=
  (List.range k).findSome? fun b => match s.rangeByte r (from' + b) with
    | .at _ => none
    | .outside => none
    | x => some x

/-- A sector's source or destination is shut, or behind a link that is down (19 R304, R310, 04 R98). -/
def State.sectorShut (s : State) (t : Transfer) : Bool :=
  (s.copyPlaces t).any (fun l => decide (0 < s.shut l) || (s.deadLink s.core.id l).isSome) ||
    (t.src.desc.loc = 3 && s.closed = some (12 + dieOf s.core.id))

/-- The sector's bytes move: read whole, then written (21 R347). -/
def State.moveSector (s : State) (t : Transfer) (k : Nat) : State :=
  let n := s.core.id
  let moves := (List.range k).map fun b =>
    (s.rangeByte t.dst (t.written + b), match s.rangeByte t.src (t.written + b) with
      | .at l => s.byteAt n t.bank l
      | _ => 0)
  moves.foldl (fun s m => match m.1 with
    | .at l => s.setByteAt n t.bank l m.2
    | _ => s) s

/-- SOFT_ERROR_UNCORRECTED of a copy (04 R100). -/
def copyError (n id : Nat) (again : Bool) : TrapReq :=
  { cause := cSoftError, tval := BitVec.ofNat 64 (n + (if again then 4 else 0) + id % 2 ^ 32 * 2 ^ 32) }

/-! ### The staging area (08 R192) -/

/-- Where the staging area begins in the weight buffer, and its length. -/
def stagingBase : Nat := 0xE0000
def stagingSize : Nat := 0x20000

/-- Bytes of a tile as a fetcher copy brings it: 64 rows of 64 elements, and the scale and special bytes of an E2M1 tile
behind them, as in a plain tile (04 R88, log 50). -/
def tileBytes (tag : Nat) : Nat := 2048 * esize2 tag + (if tag = 6 then 256 else 0)

/-- One element of a tensor, zero where out of range or not there. -/
def State.tensorElt (s : State) (tid : Nat) (d : Desc) (c : Nat → Nat) : Nat :=
  match storeOff d c with
  | none => 0
  | some o => match s.placeElt [] true tid d { idx := 0, off := o.1, nib := o.2 } with
    | (.at l, r) => s.readElt s.core.id s.core.bank.id d.tag { idx := 0, off := o.1, nib := o.2, loc := some l, rest := r }
    | _ => 0

/-- Coordinates of an element of a tile at an address register's coordinates, with those of the tile's origin beyond 24 bits
out of range (08 R190): `c0`, `c1` from the origin. -/
def tileCoord (a : Nat → Nat) (c0 c1 j : Nat) : Nat := if j = 0 then a 0 + c0 else if j = 1 then a 1 + c1 else a j

/-- A tile at an origin of a tensor, by its scale tensor `aux` too for E2M1 (08 R190). -/
def State.plainTile (s : State) (tid : Nat) (d aux : Desc) (a : Nat → Nat) : TileData :=
  { tag := d.tag
    elems := (List.range 4096).map fun i => s.tensorElt tid d (tileCoord a (i % 64) (i / 64))
    scales := if d.tag ≠ 6 then [] else (List.range 128).map fun i =>
      let c0 := 2 * ((a 0 + i % 2 * 32) / 32)
      let rd (k : Nat) : Nat := s.tensorElt d.aux aux fun j =>
        if j = 0 then c0 + k else if j = 1 then a 1 + i / 2 else a j
      rd 0 + 256 * rd 1 }

/-- Byte `b` of a tile as a fetcher copy brings it. -/
def TileData.byte (x : TileData) (b : Nat) : Nat :=
  if x.tag = 6 then
    if b < 2048 then x.elems.getD (2 * b) 0 + 16 * x.elems.getD (2 * b + 1) 0
    else x.scales.getD ((b - 2048) / 2) 0 / 256 ^ (b % 2) % 256
  else
    let w := eltBytes x.tag
    x.elems.getD (b / w) 0 / 256 ^ (b % w) % 256

/-- A tile read from its bytes. -/
def tileOf (tag : Nat) (rd : Nat → Nat) : TileData :=
  let w := eltBytes tag
  if tag = 6 then
    { tag := 6, elems := (List.range 4096).map fun i => rd (i / 2) / 16 ^ (i % 2) % 16
      scales := (List.range 128).map fun i => rd (2048 + 2 * i) + 256 * rd (2049 + 2 * i) }
  else { tag := tag, elems := (List.range 4096).map fun i => (List.range w).foldl (fun v k => v + rd (i * w + k) * 256 ^ k) 0 }

/-- The staging area's byte at a place of its ring. -/
def Core.stagedByte (c : Core) (i : Nat) : Nat := (c.wbuf.byte (stagingBase + i % stagingSize)).toNat

/-- The tile that a fetcher copy has left at a place of the ring. -/
def Core.stagedTile (c : Core) (tag at' : Nat) : TileData := tileOf tag fun b => c.stagedByte (at' + b)

/-- A place in the ring for a copy of a tile: the next one (08 R192).  Prefetched tiles that no operation uses give way,
the oldest first, where the area would hold more than its length. -/
def Core.stageRoom (c : Core) (tag : Nat) : Core :=
  let held (l : List Staged) : Nat := (l.map fun p => tileBytes p.tag).foldl (· + ·) 0
  let drops := (List.range (c.staged.length + 1)).find? fun k => decide (held (c.staged.drop k) + tileBytes tag ≤ stagingSize)
  { c with staged := c.staged.drop (drops.getD c.staged.length), stage := (c.stage + tileBytes tag) % stagingSize }

/-- An issued M operation holds a KIND 0 handle whose LOC is 0 or 1 (08 R192). -/
def Core.stagingHeld (c : Core) : Bool :=
  (c.matOps.flatMap MatOp.operands ++ (c.relax.map RelaxRun.operands).getD []).any fun o => o.desc.isSome

/-- A program copy's sector waits while an operand fetch has still to read bytes that it overwrites, and in the staging area
while an issued M operation's tiles pass through it (08 R191, R192). -/
def State.fetchWaits (s : State) (t : Transfer) (k : Nat) : Bool :=
  t.kind = .program &&
  ((!s.core.unread.isEmpty && s.core.crosses ((s.rangeLocs t.dst t.written k).map fun l => (l, 1))) ||
   (t.dst.desc.kind = .wbuf && s.core.stagingHeld && (t.dst.from' t.written).inside k ≠ 0 &&
      decide (stagingBase < (t.dst.off.getD 0) + t.written + k)))

/-- A fetcher copy's region meets an absent page or storage past its table (08 R190, 15 R268): its trap. -/
def State.fetcherStop (s : State) (n : Nat) (t : Transfer) : Option TrapReq :=
  match s.touchSpans true t.src.tid t.src.desc (regionElts t.src.desc t.srcA 64 64) [] with
  | .absent c r e =>
    let at' := aSet (aSet t.srcA 0 (aCoord t.srcA 0 + c)) 1 (aCoord t.srcA 1 + r)
    some (s.copyFault n t false t.src at' e (((storeOff t.src.desc (aCoord at')).map Prod.fst).getD 0))
  | .stop x => some x
  | _ => none

/-- The head of a channel replaced. -/
def State.putHead (s : State) (n : Nat) (t : Transfer) : State :=
  s.onCore fun c => c.onChan n fun ch => { ch with queue := t :: ch.queue.drop 1 }

/-- A sector of an operand's tile moves into the staging area; with the last one the tile has arrived (08 R190). -/
def State.fetcherMove (s : State) (n : Nat) (t : Transfer) (err : Bool) : State :=
  let core := BitVec.ofNat 8 s.core.id
  match (s.view t.bank).fetcherStop n t with
  | some x => (s.putHead n { t with stopped := 1 }).pend t.bank (x.of t.issue 6)
  | none =>
    let arrive (s : State) : State := s.schedule 0 (.operandFetch core (BitVec.ofNat 64 t.id) err)
    if err then
      let s := s.softErrorAt s.core.id (s.copyPlaces t).head?
      arrive (s.copyDone n t)
    else
      let d := t.src.desc
      let v := s.view t.bank
      let tile := v.plainTile t.src.tid d t.aux (aCoord t.srcA)
      let k := min 256 (t.len - t.written)
      let at' := t.dst.off.getD 0
      let w := (List.range k).foldl (fun (m : Memory) b =>
        m.setByte (stagingBase + (at' + t.written + b) % stagingSize) (BitVec.ofNat 8 (tile.byte (t.written + b)))) s.core.wbuf
      let s := (s.onCore fun c => { c with wbuf := w }).inBank t.bank fun s =>
        s.cacheSpans t.src.tid d ((regionElts d t.srcA 64 64).map fun e => e.2.2)
      let t := { t with written := t.written + k, stopped := 0 }
      let s := s.putHead n t
      if t.written = t.len then arrive (s.copyDone n t)
      else s.schedule 2 (.copySectorWrite core (BitVec.ofNat 2 n) false)

/-! ### Sectors (04 R93) -/

/-- Scratchpad banks that the engine side has used in this copy-domain cycle (04 R84). -/
def Core.engineBanks (c : Core) : List Nat := if c.engine.1 = c.cpy.cycles then c.engine.2 else []

/-- The engine side uses scratchpad banks in this copy-domain cycle. -/
def Core.useEngine (c : Core) (bs : List Nat) : Core := { c with engine := (c.cpy.cycles, c.engineBanks ++ bs) }

/-- The scratchpad banks of `n` bytes from an address (04 R84). -/
def banksOf (a n : Nat) : List Nat := ((List.range n).map fun k => (a + k) / 32 % 64).eraseDups

/-- Scratchpad banks of the core that places lie in (04 R84). -/
def spadBanks (core : Nat) (ls : List Loc) : List Nat :=
  ((ls.filter fun l => l.space = .spad core).map fun l => l.addr / 32 % 64).eraseDups

/-- How a copy's sector goes on: it waits, it stops with a trap, or it moves, with the rows that it contains (03 R66). -/
inductive Sector where
  | waits
  | stops (t : TrapReq)
  | moves (contained : List Nat)
  deriving DecidableEq, Repr

/-- The stop of one end of a copy's sector, where it has one. -/
def State.sectorTrap (s : State) (n : Nat) (t : Transfer) (wr : Bool) (x : Option ByteAt) : Option TrapReq :=
  let r := if wr then t.dst else t.src
  match x with
  | some (.absent e off) => some (s.copyFault n t wr r (if wr then t.dstA else t.srcA) e off)
  | some (.stop k) => some (protection r.tid k)
  | _ => none

/-- Slots of a sector's bytes that lie in absent pages of a cache tensor (03 R66). -/
def ByteAt.slot (x : Option ByteAt) : List Nat :=
  match x with
  | some (.contained k) => [k]
  | _ => []

/-- How the next sector of channel `n`'s transfer stands. -/
def State.sector (s : State) (n : Nat) (t : Transfer) (k : Nat) : Sector :=
  let v := s.view t.bank
  let claimed := (tilesOf (t.dst.from' t.written) k).any fun x =>
    s.core.rowClaims (x % 8) s.core.mat.cycles || s.core.matClaims (x % 8) s.core.mat.cycles
  if claimed || s.sectorShut t then .waits
  else
    let a := v.sectorStop t.src t.written k
    let b := v.sectorStop t.dst t.written k
    match v.sectorTrap n t false a <|> v.sectorTrap n t true b with
    | some x => .stops x
    | none => .moves (ByteAt.slot a ++ ByteAt.slot b)

/-- An uncorrectable error in a program copy (04 R100): an access of the group's cache tensor is contained, its sector left
unwritten; else the channel stops, and at a second failure gives the transfer up. -/
def State.copyFlaw (s : State) (n : Nat) (t : Transfer) (k : Nat) : State :=
  let s := s.softErrorAt s.core.id (s.copyPlaces t).head?
  match t.src.desc.kind with
  | .cache _ =>
    let s := s.contain (aCoord t.srcA 2) codeSoftError
    let t := { t with written := t.written + k, stopped := 0 }
    let s := s.putHead n t
    if t.written = t.len then s.copyDone n t else s.schedule 2 (.copySectorWrite (BitVec.ofNat 8 s.core.id) (BitVec.ofNat 2 n) false)
  | _ =>
    if t.stopped = 3 then (s.pend t.bank ((copyError n t.id true).of t.issue 6)).copyDone n t
    else (s.putHead n { t with stopped := 2 }).pend t.bank ((copyError n t.id false).of t.issue 6)

/-- COPY_SECTOR_WRITE (04 R93, 15 R268, 04 R100): one 256-byte sector of the channel's oldest transfer; `err`
says that an uncorrectable error met its read. -/
def execCopySectorWrite (core : BitVec 8) (chan : BitVec 2) (err : Bool) (s : State) : Out :=
  let s := s.focus core.toNat
  let n := chan.toNat
  match (s.core.chan n).queue.head? with
  | none => .next s
  | some t =>
    let again := Instr.copySectorWrite core chan err
    if t.kind = .copyAdd ∨ t.stopped = 1 ∨ t.stopped = 2 ∨ s.core.halted then .next s
    else if t.len ≤ t.written then .next (s.copyDone n t)
    else if t.kind = .fetcher ∨ t.kind = .prefetch then
      if s.sectorShut t then .next (s.schedule 1 again) else .next (s.fetcherMove n t err)
    else
      let k := min 256 (t.len - t.written)
      if s.fetchWaits t k then .next ((s.putHead n { t with waited := t.waited + 1 }).schedule 1 again)
      else match s.sector n t k with
      | .waits => .next (s.schedule 1 again)
      | .stops x => .next ((s.putHead n { t with stopped := 1 }).pend t.bank (x.of t.issue 6))
      | .moves slots =>
        let v := s.view t.bank
        let banks := spadBanks s.core.id (v.rangeLocs t.src t.written k ++ v.rangeLocs t.dst t.written k)
        -- a bank that the fetcher or a BLATCH uses in this cycle: the sector comes a copy-domain cycle later (04 R84)
        if banks.any s.core.engineBanks.contains then .next (s.schedule s.core.cpy.per again)
        else
          let s := if 0 < t.waited then s.traced 0 0x20 20 t.waited else s
          let s := (s.containAll codeCachePage slots).onCore fun c => c.useEngine banks
          if err then .next (s.copyFlaw n t k)
          else
            let s := s.inBank t.bank fun s => ((s.moveSector t k).cacheRange t.src t.written k).cacheRange t.dst t.written k
            let t := { t with written := t.written + k, stopped := 0, waited := 0 }
            let s := s.putHead n t
            if t.written = t.len then .next (s.copyDone n t) else .next (s.schedule 2 (.copySectorWrite core chan false))

/-- XTEST (25 R427). -/
def execXtest (p : PReg) (a : GReg) (c : BitVec 2) (s : State) : Out :=
  finish s do
    s.xFree
    let ch := s.core.chan c.toNat
    let x := s.g a
    let done := x.ult ch.mark
    let s := (s.xTake 1).writeP p done .cpy
    if done then
      match ch.past.find? (fun e => e.1 = x.toNat) with
      | some (_, t, path) => return s.adoptPoll 5 t path 1 (s.core.id * 4 + c.toNat)
      | none => return s
    else return s

/-! ### The broadcast bus (04 R95, R96, 21 R337) -/

/-- The executing core's freeze domain (02 R42). -/
def State.domainOf (s : State) (c : Core) : List Core :=
  match c.task with
  | some t => if t.bc then
      s.cores.filter fun d => match d.task with
        | some u => d.id = c.id || (u.launch = t.launch && clusterOf d.id = clusterOf c.id && d.running)
        | none => false
    else s.members c
  | none => [c]

/-- ILLEGAL_INSN of the slot being issued (06 R131). -/
def State.illegal (s : State) : TrapReq :=
  { cause := cIllegalInsn, cls := 1
    tval := BitVec.ofNat 64 (s.core.cur.pos + s.core.cur.words.getD s.core.cur.pos 0 * 2 ^ 32) }

/-- The checks common to BCAST and BLATCH, in order; answers the scratchpad address. -/
def State.busCheck (s : State) (a : AReg) : Chk Nat := do
  let bc := match s.core.task with
    | some t => t.bc
    | none => false
  need bc s.illegal
  -- a relaxation of a spanning group holds it (07 R173)
  s.xFree.before (if s.core.relax.any RelaxRun.span then .error (.hold 8 true none) else .ok ())
  let x := s.a a
  let c0 := aCoord x 0
  need (aTid x == 0xFFFF0000 && c0 % 256 == 0 && c0 ≤ 2096896 && aCoord x 1 == 0 && aCoord x 2 == 0 && aCoord x 3 == 0)
    (protection (aTid x) 14)
  s.partsThere ((blocksOf c0 256).map Part.spad)
  match (s.domainOf s.core).head? with
  | some d => need (d.divs.1 == s.core.divs.1) (violation 5)
  | none => .ok ()
  return c0

/-- BCAST (21 R337): the lowest core of the cycle drives. -/
def execBcast (a : AReg) (s : State) : Out :=
  finish s do
    let c0 ← s.busCheck a
    let k := clusterOf s.core.id
    need (!s.buses.any fun b => b.cluster = k && b.age = 0 && b.core ≠ s.core.id) (violation 3)
    let line : BusLine := { cluster := k, core := s.core.id, data := s.core.spad.read c0 256 }
    return ({ s with buses := line :: s.buses.filter fun b => !(b.cluster = k && b.age = 0) }).xTake 1

/-- The sectors of the present core's copies come a copy-domain cycle later (04 R84). -/
def State.delayCopies (s : State) : State :=
  let mine (i : Instr) : Bool := match i with
    | .copySectorWrite c _ _ => c.toNat = s.core.id
    | _ => false
  let later (cal : List Sched) (e : Sched) : List Sched := putSched { e with at' := e.at' + s.core.cpy.per } cal
  { s with calendar := (s.calendar.filter fun e => mine e.event).foldl later (s.calendar.filter fun e => !mine e.event) }

/-- BLATCH (21 R337): the bytes driven four bus cycles ago. -/
def execBlatch (a : AReg) (s : State) : Out :=
  finish s do
    let c0 ← s.busCheck a
    s.fetchFree [({ space := .spad s.core.id, addr := c0 }, 256)]
    match s.buses.find? (fun b => b.cluster = clusterOf s.core.id && b.age = 4) with
    | none => .error (.trap (violation 4))
    | some b =>
      let banks := banksOf c0 256
      -- a copy that has used one of its banks in this cycle gives way by one (04 R84)
      let s := if banks.any s.core.engineBanks.contains then s.delayCopies else s
      return (s.onCore fun c => { (c.useEngine banks) with spad := c.spad.write c0 b.data 256 }).xTake 1

/-! ### Rows at scheduled cycles (21 R348, 25 R400, R405) -/

/-- A row operation begun in the bundle being issued. -/
def State.rowOp (s : State) (k : RowKind) (t cyc : Nat) (src : Range) (a : BitVec 128) : RowOp :=
  { kind := k, bank := s.core.bank.id, bundle := s.core.bank.pc, slot := s.core.cur.pos, seq := s.core.accSeq
    issue := s.core.seq, tile := t, next := s.core.mat.cycles + cyc, since := s.now, src := src, areg := a
    fmode := s.core.bank.sys.fmode, path := s.core.path }

/-- A row operation put under way. -/
def State.addRows (s : State) (r : RowOp) : State :=
  s.onCore fun c => { c with rowOps := c.rowOps ++ [r], accSeq := c.accSeq + 1 }

/-- The row operation of a number. -/
def Core.rowOf (c : Core) (seq : Nat) : Option RowOp := c.rowOps.find? fun r => r.seq = seq

/-- A row operation replaced. -/
def Core.setRow (c : Core) (r : RowOp) : Core := { c with rowOps := c.rowOps.map fun q => if q.seq = r.seq then r else q }

/-- A row operation moves on to its next row, or ends after row 63. -/
def Core.nextRow (c : Core) (r : RowOp) : Core :=
  { c with rowOps := c.rowOps.filterMap fun q =>
      if q.seq = r.seq then if r.row = 63 then none else some { r with row := r.row + 1, next := r.next + 1, stopped := 0 } else some q }

/-- Elements of the next row of a TLDT's or TSTT's region by the entries that the operation holds, and the slots of those in
absent pages of a cache tensor (25 R400, R405, 03 R67). -/
def State.rowElts (s : State) (r : RowOp) (cols : Nat) : List Elt × List Nat :=
  (List.range cols).foldl (fun acc k => match storeOff r.src.desc (tileCoord (aCoord r.areg) k r.row) with
    | none => acc
    | some o =>
      let e : Elt := { idx := k, off := o.1, nib := o.2 }
      match s.placeElt r.spans true r.src.tid r.src.desc e with
      | (.at l, q) => (acc.1 ++ [{ e with loc := some l, rest := q }], acc.2)
      | (.contained slot, _) => (acc.1, if acc.2.contains slot then acc.2 else acc.2 ++ [slot])
      | _ => acc) ([], [])

/-- The places that a row operation's next row is read at. -/
def State.rowPlaces (s : State) (r : RowOp) : List Loc :=
  let s := s.view r.bank
  match r.kind with
  | .copyAdd => s.rangeLocs r.src (256 * r.row) 1 ++ s.rangeLocs r.src (256 * r.row + 255) 1
  | .load => (s.rowElts r 64).1.flatMap Elt.places
  | .store => []

/-- A TLDT's next row as a load, in the order of the core's accesses to its places (10 R202). -/
def State.rowAccess (s : State) (r : RowOp) : Access :=
  { seq := r.seq, kind := .load, issue := r.issue, areg := r.areg, tid := r.src.tid, desc := r.src.desc
    elems := ((s.view r.bank).rowElts r 64).1 }

/-- A row operation due in this matrix-domain cycle. -/
def Core.rowDue (c : Core) (r : RowOp) : Bool :=
  !r.paused && r.stopped ≠ 1 && r.stopped ≠ 2 && decide (r.next ≤ c.mat.cycles)

/-- The data of a row operation's next row is not there (04 R87): on its way since the operation's issue, shut in, behind a
link that is down or, for a TLDT, an access of the core that comes before it (10 R202, R214); or a COPYADD's channel is at
another transfer. -/
def State.rowLate (s : State) (r : RowOp) : Bool :=
  let c := s.core
  r.kind ≠ .store &&
  (((s.rowPlaces r).any fun l => (!l.isOwn c.id && decide (s.now < r.since + l.latency c.id)) || decide (0 < s.shut l) ||
      (s.deadLink c.id l).isSome) ||
    (r.kind = .copyAdd && (c.chan r.chan).queue.head?.map Transfer.id ≠ some r.id) ||
    (r.kind = .load && c.blocked r.bank (s.rowAccess r)))

/-- A row of a TSTT that is due meets a full store queue (25 R405). -/
def Core.rowFull (c : Core) (r : RowOp) : Bool := r.kind = .store && decide (32 ≤ (c.bankOf r.bank).storeEntries.length)

/-- The row that goes next: of the earliest cycle, and within it reads of tiles after writes (25 R405); none where it has to
wait. -/
def State.rowNext (s : State) : Option RowOp :=
  let key (r : RowOp) : Nat := 2 * r.next + (if r.kind = .store then 1 else 0)
  match (sortBy key (s.core.rowOps.filter s.core.rowDue)).head? with
  | some r => if s.rowLate r || s.core.rowFull r then none else some r
  | none => none

/-- A byte as a row operation reads it. -/
def State.rowByte (s : State) (r : RowOp) (l : Loc) : Nat :=
  match r.old.find? fun x => x.1 = l with
  | some x => x.2.toNat
  | none => (s.byteAt s.core.id r.bank l).toNat

/-- `n` bytes from a place as a row operation reads them. -/
def State.rowBytes (s : State) (r : RowOp) (l : Loc) (n : Nat) : Nat :=
  (List.range n).foldl (fun v i => v + s.rowByte r { l with addr := l.addr + i } * 256 ^ i) 0

/-- SOFT_ERROR_UNCORRECTED of a row's data: a COPYADD's is a copy's (04 R100); of a TLDT the spec states no trap, and the
model raises it as a copy's without a channel (DESIGN CHOICE, log 50). -/
def RowOp.flaw (r : RowOp) (again : Bool) : TrapReq :=
  match r.kind with
  | .copyAdd => copyError r.chan r.id again
  | _ => { cause := cSoftError, tval := if again then 4 else 0 }

/-- A COPYADD ends, its transfer complete. -/
def State.endAdd (s : State) (r : RowOp) : State :=
  let s := s.onCore fun c => { c with rowOps := c.rowOps.filter fun q => q.seq ≠ r.seq }
  match (s.core.chan r.chan).queue.head? with
  | some t => s.copyDone r.chan t
  | none => s

/-- An uncorrectable error in a row's data (04 R100): the row is read once more after the handler; failing again, a COPYADD
is given up, and a TLDT leaves the row as it is (log 50). -/
def State.rowFlaw (s : State) (r : RowOp) : State :=
  let s := s.softErrorAt s.core.id (s.rowPlaces r).head?
  if r.stopped = 3 then
    let s := s.pend r.bank ((r.flaw true).of r.issue 6)
    if r.kind = .copyAdd then s.endAdd r else s.onCore fun c => c.nextRow r
  else (s.onCore fun c => c.setRow { r with stopped := 2 }).pend r.bank ((r.flaw false).of r.issue 6)

/-- A row of a tile. -/
def tileRow (x : Words) (j : Nat) : Words := SMap.slice x (64 * j) (64 * j + 64) 0

/-- A tile with one row replaced. -/
def setRow (x : Words) (j : Nat) (row : Words) : Words :=
  SMap.splice 0 x (64 * j) (64 * j + 64) (SMap.slice row 0 64 (64 * j))

/-- The trap of a COPYADD's row that meets an absent page or storage past its table (21 R348, 15 R268). -/
def State.addStop (s : State) (r : RowOp) : Option TrapReq :=
  let v := s.view r.bank
  let t : Transfer :=
    { id := r.id, kind := .copyAdd, bank := r.bank, bundle := r.bundle, issue := r.issue, src := r.src, dst := r.src
      len := 16384, written := 256 * r.row, srcA := r.areg }
  v.sectorTrap r.chan t false (v.sectorStop r.src (256 * r.row) 256)

/-- A COPYADD's row is added (21 R348). -/
def State.addRow (s : State) (r : RowOp) (err : Bool) : State :=
  match s.addStop r with
  | some t => (s.onCore fun c => c.setRow { r with stopped := 1 }).pend r.bank (t.of r.issue 6)
  | none =>
    if err then s.rowFlaw r
    else
      let v := s.view r.bank
      let md := modesOf r.fmode
      let old := tileRow ((s.core.bankOf r.bank).readT r.tile) r.row
      let word (k : Nat) : Nat := (List.range 4).foldl (fun acc i => acc + (match v.rangeByte r.src (256 * r.row + 4 * k + i) with
        | .at l => s.rowByte r l
        | _ => 0) * 256 ^ i) 0
      let outs := (List.range 64).map fun k =>
        Fmt.fp32.addNum md (Fmt.fp32.valueDaz md.daz (old.at k).toNat) (Fmt.fp32.valueDaz md.daz (word k))
      let flags := flagsOf outs
      let snan := outs.any FpOut.snan
      let ex := flags &&& md.te &&& 31
      if snan ∨ ex ≠ 0 then
        (s.endAdd r).onCore fun c => c.onBankOf r.bank fun b => b.raiseFp s.now 3 r.bundle ex snan r.issue 6
      else
        let row : Words := SMap.tabulate 0 (List.range 64) fun k => BitVec.ofNat 32 (outs.getD k { bits := 0 }).bits
        let s := s.onCore fun c => c.onBankOf r.bank fun b =>
          { b with t := SMap.set [] b.t r.tile (setRow (b.readT r.tile) r.row row) }.commitFlags flags 0 0
        let s := s.inBank r.bank fun s => s.cacheRange r.src (256 * r.row) 256
        -- the transfer's progress (04 R93, R94)
        let s := s.onCore fun c => c.onChan r.chan fun ch =>
          { ch with queue := ch.queue.map fun t => if t.id = r.id then { t with written := 256 * (r.row + 1) } else t }
        if r.row = 63 then s.endAdd r else s.onCore fun c => c.nextRow r

/-- A TLDT's row is written (25 R400); the loads counter falls after row 63. -/
def State.loadRow (s : State) (r : RowOp) (err : Bool) : State :=
  if err then s.rowFlaw r
  else
    let es := ((s.view r.bank).rowElts r 64).1
    let elt (e : Elt) : Nat := (e.pieces r.src.desc.tag).foldr (fun p v => s.rowBytes r p.1 p.2 + 256 ^ p.2 * v) 0
    let row : Words := SMap.tabulate 0 (List.range 64) fun k => match es.find? fun e => e.idx = k with
      | some e => BitVec.ofNat 32 (elt e)
      | none => 0
    let s := s.onCore fun c => (c.onBankOf r.bank fun b =>
      { b with t := SMap.set [] b.t r.tile (setRow (b.readT r.tile) r.row row)
               loads := if r.row = 63 then b.loads - 1 else b.loads }).nextRow r
    if r.row = 63 then s.completed s.core.id [0, 5] r.path 6 0 else s

/-- A TSTT's row is read and pushed as stores (25 R405). -/
def State.storeRow (s : State) (r : RowOp) : State :=
  let n := s.core.id
  let d := r.src.desc
  let data := tileRow ((s.core.bankOf r.bank).readT r.tile) r.row
  let (es, slots) := (s.view r.bank).rowElts r (if d.tag = 0 then 256 else 64)
  let s := s.inBank r.bank fun s => s.containAll codeCachePage slots
  let b := s.core.bankOf r.bank
  let x : Access :=
    { seq := s.core.accSeq, kind := .row, bundle := r.bundle, slot := r.slot, issue := r.issue, areg := r.areg
      tid := r.src.tid, desc := d, elems := es, data := data, path := r.path, more := r.row ≠ 63 }
  let s := s.onCore fun c => { (c.nextRow r) with accSeq := c.accSeq + 1 }
  if es.all fun e => match e.loc with
      | some l => l.isOwn n
      | none => true then
    let s := (s.keepRows n r.bank r.issue x.pieces).storeElts n r.bank x
    if r.row = 63 then (s.onCore fun c => c.onBankOf r.bank fun b => { b with stores := b.stores - 1 }).completed n [1] r.path 6 0 else s
  else
    let held := b.stalled
    let s := s.onCore fun c => c.onBankOf r.bank fun b => { b with stq := b.stq ++ [{ x with held := held }] }
    if held then s else s.schedule (x.latency n / 2) (performEvent n r.bank x)

/-- The row due in its operation's own issue cycle moves in it (04 R87). -/
def State.firstRow (s : State) : State :=
  match s.rowNext with
  | some r => match r.kind with
    | .copyAdd => s.addRow r false
    | .load => s.loadRow r false
    | .store => s.storeRow r
  | none => s

/-- COPYADD (21 R348). -/
def execCopyadd (d : TReg) (a : AReg) (c : BitVec 6) (h : BitVec 2) (s : State) : Out :=
  finish s do
    let n := h.toNat
    let x := s.a a
    s.xFree.before do
      s.tilesFree true [d.val]
      s.copyRoom n
      let ds ← s.descA a (aTid x)
      let tag := s.core.bank.tagT d
      let own : Chk Unit := do
        need (tag == 1) (tagMismatch (d + 2 ^ 6 + tag * 2 ^ 8))
        need (ds.tag == 1) (tensorTag a ds)
        need (!s.core.collides (d % 8) (s.core.mat.cycles + c.toNat)) (violation 1)
      own.before do
        let src := rangeOf x ds
        s.checkRange src 16384 .read
        let id := (s.core.chan n).next.toNat
        let t : Transfer :=
          { id := id, kind := .copyAdd, bank := s.core.bank.id, bundle := s.core.bank.pc, issue := s.core.seq
            src := src, dst := { tid := 0, desc := {}, off := none }, len := 16384, srcA := x, path := s.core.path }
        let r := { s.rowOp .copyAdd d c.toNat src x with chan := n, id := id }
        return ((((s.cacheRange src 0 16384).queueCopy n t).addRows r).xTake 1).firstRow

/-- The 64 × 64 region of a TLDT or TSTT, its permission and the translation of its storage at issue: the
entries it will use (25 R400, R405). -/
def State.rowRegion (s : State) (x : BitVec 128) (d : Desc) (cols : Nat) (m : Mode) : Chk (List SpanEntry) := do
  let tid := aTid x
  let es := regionElts d x 64 cols
  if es.isEmpty then return []
  else
    s.permit tid d m
    let entries ← if d.kind = .table ∧ d.loc ≠ 2 ∧ d.loc ≠ 3 then
        let walk := (s.core.fetchedOf fetchSpans 0).isSome
        match s.touchSpans walk tid d es [] with
        | .stop t => .error (.trap t)
        | .missing => .error (.hold 13 false (some (.spanEntryFetch (BitVec.ofNat 8 s.core.id) (BitVec.ofNat 1 s.core.bank.id) 0)))
        | .absent c r e =>
          let at' := aSet (aSet x 0 (aCoord x 0 + c)) 1 (aCoord x 1 + r)
          let kind : Nat := if bitAt e.raw 0 then 5 else 2
          .error (.trap (s.pageFault false e (s.faultBytes (kind + s.core.cur.pos * 2 ^ 8 + (if m = .read then 0 else 2 ^ 11))
            s.core.bank.pc at' 0 0 0 0 e.idx (s.nrun d e) 0)))
        | .entries l => .ok l
      else .ok []
    s.raceCheck tid d (if m = .read then .read else .write)
      (es.filterMap fun e => match s.placeWith entries true tid d e.2.2 with
        | .at l => some l
        | _ => none)
    return entries

/-- TLDT (25 R400). -/
def execTldt (a : AReg) (k : TReg) (c : BitVec 6) (s : State) : Out :=
  finish s do
    let x := s.a a
    s.tilesFree true [k.val]
    backpressure 12 (63 ≤ s.core.bank.loads)
    let d ← s.descA a (aTid x)
    let own : Chk Unit := do
      need (d.tag == 1 || d.tag == 8) (tensorTag a d)
      need (!s.core.collides (k % 8) (s.core.mat.cycles + c.toNat)) (violation 2)
    own.before do
      let spans ← s.rowRegion x d 64 .read
      let r := { s.rowOp .load k c.toNat (rangeOf x d) x with spans := spans }
      let s := (s.cacheSpans (aTid x) d ((regionElts d x 64 64).map fun e => e.2.2)).addRows r
      return (s.onBank fun b => { b with loads := b.loads + 1, ttag := SMap.set 0 b.ttag k d.tag }).firstRow

/-- The places and bytes of the region of a TSTT (10 R201). -/
def State.regionPieces (s : State) (spans : List SpanEntry) (tid : Nat) (d : Desc) (es : List (Nat × Nat × Nat)) : List (Loc × Nat) :=
  es.flatMap fun e => match s.placeElt spans true tid d { idx := 0, off := e.2.2 } with
    | (.at l, q) => ({ idx := 0, off := e.2.2, loc := some l, rest := q } : Elt).pieces d.tag
    | _ => []

/-- TSTT (25 R405). -/
def execTstt (a : AReg) (k : TReg) (c : BitVec 6) (s : State) : Out :=
  finish s do
    let x := s.a a
    s.tilesFree false [k.val]
    backpressure 13 (31 ≤ s.core.bank.stores)
    let d ← s.descA a (aTid x)
    let tag := s.core.bank.tagT k
    let cols := if d.tag = 0 then 256 else 64
    (need (d.tag == tag || d.tag == 0) (tensorTag a d)).before do
      let spans ← s.rowRegion x d cols .write
      let ps := s.regionPieces spans (aTid x) d (regionElts d x 64 cols)
      s.storesApart ps
      let r := { s.rowOp .store k c.toNat (rangeOf x d) x with spans := spans }
      let s := ((s.noteStored ps).cacheSpans (aTid x) d ((regionElts d x 64 cols).map fun e => e.2.2)).addRows r
      return (s.onBank fun b => { b with stores := b.stores + 1 }).firstRow

/-- COPYADD_ROW (21 R348): a row is added in its scheduled cycle; `read` names the operation and says whether an uncorrectable error met
the row's data. -/
def execCopyaddRow (core : BitVec 8) (read : BitVec 48 × Bool) (s : State) : Out :=
  let s := s.focus core.toNat
  match s.core.rowOf read.1.toNat with
  | some r => .next (if s.core.rowDue r && !s.rowLate r then s.addRow r read.2 else s)
  | none => .next s

/-- TLDT_ROW (25 R400): a row is written in its scheduled cycle; `read` as for COPYADD_ROW. -/
def execTldtRow (core : BitVec 8) (read : BitVec 48 × Bool) (s : State) : Out :=
  let s := s.focus core.toNat
  match s.core.rowOf read.1.toNat with
  | some r => .next (if s.core.rowDue r && !s.rowLate r then s.loadRow r read.2 else s)
  | none => .next s

/-- TSTT_ROW (25 R405): a row is read in its scheduled cycle and pushed as stores. -/
def execTsttRow (core : BitVec 8) (seq : BitVec 48) (s : State) : Out :=
  let s := s.focus core.toNat
  match s.core.rowOf seq.toNat with
  | some r => .next (if s.core.rowDue r && !s.core.rowFull r then s.storeRow r else s)
  | none => .next s

end Sys2Proof.Machine
end

