-- ==== Sys2Proof/Machine/Matrix.lean ====
section
/-!
DEFINITION. The matrix array (08): MMA, its handles and operands, microprogram routines, and the routine
table.
-/
namespace Sys2Proof.Machine

/-! ### The arithmetic (05 R124, 08 R185) -/

/-- The modes the matrix engine works under: it ignores RM, FTZ and DAZ (05 R112). -/
def matModes (fmode : Word) : Modes :=
  let m := modesOf fmode
  { plain with snt := m.snt, e2s := m.e2s, te := m.te }

/-- An operand format the array takes (08 R185, R187). -/
def operandTag (t : Nat) : Bool := (2 ≤ t && t ≤ 7) || t == 9 || t == 11

/-- Whether a format takes integer rows: A and td of tag 8 (08 R185). -/
def isIntFormat (t : Nat) : Bool := t == 7 || t == 9 || t == 11

/-- The tag of A and td for a format of B. -/
def accTag (t : Nat) : Nat := if isIntFormat t then 8 else 1

/-- T of R185 for a format and shape. -/
def mmaTime (t : Nat) (shape : Nat) : Nat :=
  if field shape 0 7 = 0 ∨ field shape 7 7 = 0 ∨ field shape 14 7 = 0 then 1
  else if t = 2 ∨ t = 3 then 64
  else if t = 6 ∧ bitAt shape 24 then 16
  else 32

/-- floor(log2) of the greatest finite magnitude of a list, none when none is finite and non-zero. -/
def maxLog (xs : List Exact) : Option Int :=
  xs.foldl (fun a x => if x.isFinite && !x.isZero then
    match a with
    | some k => some (max k (log2Num x))
    | none => some (log2Num x) else a) none

/-- A row of A as the array uses it: the values, the exponent it was scaled by, and the flags of its
conversion. -/
structure ARow where
  vals : List Exact
  exp : Int := 0
  flags : Nat := 0
  snan : Bool := false
  deriving DecidableEq, Repr

/-- A value converted to a narrow format, RNE, without saturation. -/
def narrow (f : Fmt) (md : Modes) (x : Exact) : FpOut :=
  match x with
  | .fin n m e => f.round .rne false false n m e
  | .inf n => if f.noInf then { bits := f.defaultNan, flags := fOF } else { bits := f.signBit n + f.infBits }
  | .nan s => snanOut f md s 0

/-- aform (08 R185): a row of FP32 values converted to B's format. -/
def aform (md : Modes) (t : Nat) (a4 : Bool) (xs : List Nat) : ARow :=
  let vs := xs.map v32
  if t = 2 ∨ t = 3 then
    let f := tagFmt t
    let os := vs.map (narrow f md)
    { vals := os.map fun o => f.value o.bits, flags := flagsOf os, snan := os.any FpOut.snan }
  else if t = 6 ∧ a4 then
    let blk (k : Nat) := e2m1block md ((List.range 32).map fun i => vs.getD (32 * k + i) (.fin false 0 0))
    let dec (b : E2Block) : List Exact := b.codes.map fun c => e2m1value md.e2s c b.sc b.sp
    { vals := dec (blk 0) ++ dec (blk 1), flags := (blk 0).blockFlags ||| (blk 1).blockFlags
      snan := md.snt && vs.any Exact.isSnan }
  else
    let f := if t = 5 then Fmt.e5m2 else Fmt.e4m3
    let e : Int := match maxLog vs with
      | some k => k - (if t = 5 then 14 else 7)
      | none => 0
    let os := vs.map fun x => narrow f md (x.scale (-e))
    { vals := os.map fun o => f.value o.bits, exp := e, flags := flagsOf os, snan := os.any FpOut.snan }

/-- The exact sum of products scaled by 2^e and rounded once, each product first truncated to a multiple
of 2^(E - 36) where `trunc` holds (05 R124). -/
def blockExact (md : Modes) (trunc : Bool) (e : Int) (ps : List (Exact × Exact)) : FpOut :=
  let bad := ps.any fun p => (mulNum p.1 p.2).isNone || p.1.isNan || p.2.isNan
  let anyS := ps.any fun p => p.1.isSnan || p.2.isSnan
  let invalid := ps.any fun p => !p.1.isNan && !p.2.isNan && (mulNum p.1 p.2).isNone
  let prods := ps.map fun p => (mulNum p.1 p.2).getD (.nan false)
  let pinf := prods.any fun x => x = .inf false
  let ninf := prods.any fun x => x = .inf true
  if bad then snanOut Fmt.fp32 md anyS (if invalid then fNV else 0)
  else if pinf && ninf then Fmt.fp32.nanOut fNV
  else if pinf then { bits := Fmt.fp32.infBits }
  else if ninf then { bits := Fmt.fp32.signBit true + Fmt.fp32.infBits }
  else
    let lo : Int := prods.foldl (fun a x => match x with
      | .fin _ m f => if m = 0 then a else min a f
      | _ => a) 4096
    let u : Int := if trunc then match maxLog prods with
        | some k => k - 36
        | none => 0
      else lo
    let term (x : Exact) : Int := match x with
      | .fin n m f =>
        let mag : Nat := if u ≤ f then m * 2 ^ (f - u).toNat else m / 2 ^ (u - f).toNat
        if n then -(mag : Int) else mag
      | _ => 0
    let sum := prods.foldl (fun a x => a + term x) 0
    if sum = 0 then { bits := 0 }
    else Fmt.fp32.round .rne false false (sum < 0) sum.natAbs (u + e)

/-- A pairwise sum that keeps the flags (05 R123, R124). -/
def pairFlags (md : Modes) (xs : List FpOut) : FpOut :=
  let add (x y : FpOut) : FpOut :=
    let o := Fmt.fp32.addNum md (v32 x.bits) (v32 y.bits)
    { o with flags := o.flags ||| x.flags ||| y.flags, snan := o.snan || x.snan || y.snan }
  (pairwise add 7 xs).headD { bits := 0 }

/-- One K-block of R124 of a row of A and a column of B, scaled exactly by the row's exponent. -/
def kBlock (md : Modes) (t : Nat) (a : ARow) (b : List Exact) : FpOut :=
  let ps := a.vals.zip b
  if t = 2 ∨ t = 3 then pairFlags md (ps.map fun p => Fmt.fp32.mulNum md p.1 p.2)
  else blockExact md (t ≠ 6) a.exp ps

/-- A tile's element in B's formats: integer formats as integers. -/
def TileData.intAt (x : TileData) (k n : Nat) : Int :=
  let v := x.elems.getD (64 * k + n) 0
  if x.tag = 9 then (v : Int) else signed 8 v

/-- An element of B as a value. -/
def TileData.numAt (x : TileData) (md : Modes) (k n : Nat) : Exact :=
  let v := x.elems.getD (64 * k + n) 0
  if x.tag = 6 then
    let sc := x.scales.getD (2 * k + n / 32) 0
    e2m1value md.e2s v (sc % 256) (sc / 256)
  else (tagFmt x.tag).value v

/-- What a micro-op leaves: the new rows of its destination, and what they met. -/
structure MatOut where
  tile : Words := []
  tag : Nat := 1
  nv : Nat := 0
  ov : Nat := 0
  flags : Nat := 0
  snan : Bool := false
  /-- Rows contained: row and code (05 R122). -/
  contains : List (Nat × Nat) := []
  deriving DecidableEq, Repr

/-- A row's events that would trap: the breakwater code, 0 for none (05 R122). -/
def rowCode (md : Modes) (flags : Nat) (snan : Bool) : Nat :=
  let ex := flags &&& md.te
  if snan ∨ bitAt ex 0 then 4 else if bitAt ex 2 then 8 else 0

/-- The rows of an operation put together: each row's new elements by column, with their outcomes; under row
containment a row that would trap is left out. -/
def collectRows (md : Modes) (contain : Bool) (old : Words) (tag : Nat)
    (rows : List (Nat × List (Nat × FpOut))) : MatOut :=
  rows.foldl (fun acc r =>
    let flags := flagsOf (r.2.map Prod.snd) &&& (fNV + fOF + fSNAN)
    let snan := r.2.any fun c => c.2.snan
    let code := rowCode md flags snan
    if contain ∧ code ≠ 0 then { acc with contains := acc.contains ++ [(r.1, code)] }
    else
      let cols := r.2.foldl (fun (m : Words) c => SMap.set 0 m (64 * r.1 + c.1) (BitVec.ofNat 32 c.2.bits)) acc.tile
      { acc with tile := cols, flags := acc.flags ||| flags, snan := acc.snan || snan
                 nv := acc.nv + (r.2.filter fun c => bitAt c.2.flags 0).length
                 ov := acc.ov + (r.2.filter fun c => bitAt c.2.flags 2).length })
    { tile := old, tag := tag }

/-- One MMA over tiles as they stand (08 R185): `mode` is F, `mask` the rows that take part. -/
def mmaRows (fmode : Word) (contain : Bool) (mask : List Bool) (mode shape : Nat) (td ta : Words) (b : TileData) : MatOut :=
  let md := matModes fmode
  let m := field shape 0 7
  let n := field shape 7 7
  let k := field shape 14 7
  let z := mode % 2 = 1
  let trans := mode / 2 = 1
  let aAt (i j : Nat) : Nat := (ta.at (if trans then 64 * j + i else 64 * i + j)).toNat
  let rows := (List.range m).filter fun i => mask.getD i true
  let tag := accTag b.tag
  let cols := List.range n
  collectRows md contain td tag (rows.map fun i =>
    (i, if isIntFormat b.tag then
      cols.map fun j =>
        let s := (List.range k).foldl (fun (acc : Int) q =>
          let a := aAt i q % 256
          acc + (if b.tag = 9 then (a : Int) else signed 8 a) * b.intAt q j) 0
        let old : Int := if z then 0 else ((td.at (64 * i + j)).toNat : Int)
        (j, { bits := unsignedOf 32 (old + s) })
    else
      let a := aform md b.tag (bitAt shape 24) ((List.range 64).map fun q => if q < k then aAt i q else 0)
      cols.map fun j =>
        let col := (List.range 64).map fun q => if q < k then b.numAt md q j else .fin false 0 0
        let s := kBlock md b.tag a col
        let old := if z then Exact.fin false 0 0 else v32 (td.at (64 * i + j)).toNat
        let o := if k = 0 then { bits := if z then 0 else (td.at (64 * i + j)).toNat }
          else Fmt.fp32.addNum md old (v32 s.bits)
        (j, { o with flags := o.flags ||| s.flags ||| (a.flags &&& (fNV + fOF + fSNAN)), snan := o.snan || s.snan || a.snan })))

/-- A UEW function's element (08 R195); RMAX and RSUM work on whole rows. -/
def uewElt (md : Modes) (f a b : Nat) : FpOut :=
  match f with
  | 0 => Fmt.fp32.addNum md (v32 a) (v32 b)
  | 1 => Fmt.fp32.addNum md (v32 a) (v32 b).negate
  | 2 => Fmt.fp32.mulNum md (v32 a) (v32 b)
  | 3 => sfn .sigm md a
  | 4 => sfn .tanh md a
  | 6 => sfn .exp2 md a
  | 9 => Fmt.fp32.maxmin md true a b
  | _ => { bits := a }

/-- A UEW micro-op over tiles as they stand. -/
def uewRows (fmode : Word) (contain : Bool) (mask : List Bool) (f : Nat) (td ta tb : Words) : MatOut :=
  let md := matModes fmode
  let rows := (List.range 64).filter fun i => mask.getD i true
  collectRows md contain td 1 (rows.map fun i =>
    let row (x : Words) : List Nat := (List.range 64).map fun j => (x.at (64 * i + j)).toNat
    (i, if f = 7 ∨ f = 8 then
      let leaf := (row ta).map fun x => ({ bits := x } : FpOut)
      let op (x y : FpOut) : FpOut :=
        let o := if f = 7 then Fmt.fp32.maxmin md true x.bits y.bits else Fmt.fp32.addNum md (v32 x.bits) (v32 y.bits)
        { o with flags := o.flags ||| x.flags ||| y.flags, snan := o.snan || x.snan || y.snan }
      let r := (pairwise op 6 leaf).headD { bits := 0 }
      (List.range 64).map fun j => (j, r)
    else
      ((row ta).zip (row tb)).mapIdx fun j p => (j, uewElt md f p.1 p.2)))

/-! ### Handles (08 R189, R190) -/

/-- MSETH's packing; none where the register cannot be held. -/
def packHandle (a : BitVec 128) : Option Nat :=
  let tid := aTid a
  let c (j : Nat) := aCoord a j
  if tid < 2 ^ 20 then
    if c 0 % 64 = 0 ∧ c 1 % 64 = 0 ∧ c 2 ≤ 63 ∧ c 3 = 0 then
      some (tid + c 0 / 64 * 2 ^ 22 + c 1 / 64 * 2 ^ 40 + c 2 * 2 ^ 58)
    else none
  else if tid = 0xFFFF0003 ∨ tid = 0xFFFF0002 then
    if c 0 % 16 = 0 ∧ c 1 = 0 ∧ c 2 = 0 ∧ c 3 = 0 then
      some ((if tid = 0xFFFF0003 then 1 else 2) * 2 ^ 20 + c 0 / 16 * 2 ^ 22)
    else none
  else none

/-- KIND of a handle. -/
def hKind (h : Nat) : Nat := field h 20 2
/-- Table id of a handle of KIND 0. -/
def hTid (h : Nat) : Nat := field h 0 20
/-- The directory's byte address of a handle of KIND 1 or 2. -/
def hDir (h : Nat) : Nat := field h 22 36 * 16

/-- The address register of tile (jb, kb) of a handle of KIND 0: `jb` steps in c1, `kb` in c0. -/
def hTile (h jb kb : Nat) : BitVec 128 :=
  aSet (aSet (aSet (BitVec.ofNat 128 (hTid h)) 0 (64 * field h 22 18 + 64 * kb)) 1 (64 * field h 40 18 + 64 * jb)) 2 (field h 58 6)

/-- A tile's tensor as its handle reaches it: a tile whose origin lies beyond 24 bits of a coordinate is out of range. -/
def hDesc (h jb kb : Nat) (d : Desc) : Desc :=
  if 2 ^ 18 ≤ field h 22 18 + kb ∨ 2 ^ 18 ≤ field h 40 18 + jb then { d with ext0 := 0 } else d

/-- MSETP (22 R360). -/
def execMsetp (k : MReg) (a : GReg) (s : State) : Out :=
  finish s do
    s.mFree
    return (s.writeM k (s.g a)).mTake 1

/-- MSETH (22 R359). -/
def execMseth (k : MReg) (a : AReg) (s : State) : Out :=
  finish s do
    s.mFree
    match packHandle (s.a a) with
    | some h => return (s.writeM k (BitVec.ofNat 64 h)).mTake 1
    | none => .error (.trap (protection (aTid (s.a a)) 6))

/-! ### Operand tiles (04 R88, 08 R190-R192) -/

/-- A zero-run row of a compressed tile: at most `k` pairs from byte `p` (04 R88). -/
def zeroRun (rd : Nat → Nat) (w p : Nat) : Nat → List Nat → List Nat
  | 0, acc => acc
  | k + 1, acc =>
    zeroRun rd w (p + 1 + w) k (acc ++ List.replicate (rd p % 64) 0 ++
      [(List.range w).foldl (fun v i => v + rd (p + 1 + i) * 256 ^ i) 0])

/-- An R88 tile of a memory, given its bytes from the header on: none for a reserved or unaccepted form. -/
def expandTile (rd : Nat → Nat) : TileData × Bool :=
  let tag := rd 0 % 16
  let cmp := rd 0 / 16 % 4
  let w := eltBytes tag
  let val (p : Nat) : Nat := (List.range w).foldl (fun v i => v + rd (p + i) * 256 ^ i) 0
  let ok := operandTag tag && cmp ≠ 3 && !(tag = 6 && cmp ≠ 0)
  if !ok then ({ tag := tag, elems := [] }, false)
  else if tag = 6 then
    ({ tag := 6
       elems := (List.range 4096).map fun i => rd (16 + i / 2) / 16 ^ (i % 2) % 16
       scales := (List.range 128).map fun i => rd (16 + 2048 + 2 * i) + 256 * rd (16 + 2048 + 2 * i + 1) }, true)
  else if cmp = 0 then ({ tag := tag, elems := (List.range 4096).map fun i => val (16 + i * w) }, true)
  else if cmp = 1 then
    let g := 2 * w + 1
    ({ tag := tag
       elems := (List.range 1024).flatMap fun q =>
         let p := 16 + q * g
         let md := rd (p + 2 * w)
         let i0 := md % 4
         let i1 := md / 4 % 4
         (List.range 4).map fun j => if j = i1 then val (p + w) else if j = i0 then val p else 0
       packed := true }, true)
  else
    ({ tag := tag
       elems := (List.range 64).flatMap fun j =>
         let p := rd (16 + 2 * j) + 256 * rd (17 + 2 * j)
         let row := zeroRun rd w (p + 1) (min 64 (rd p)) []
         (List.range 64).map fun i => row.getD i 0
       packed := true }, true)

/-- The tile of a directory entry: bytes past the memory read as zero (08 R190). -/
def dirTile (rd : Nat → Nat) (size dir entry : Nat) : TileData × Bool :=
  let at' (a : Nat) : Nat := if a < size then rd a else 0
  let p := dir + 4 * entry
  let off := (at' p + 256 * at' (p + 1) + 65536 * at' (p + 2) + 16777216 * at' (p + 3)) * 16
  expandTile fun i => at' (off + i)

/-- Elements of a tile's region that are in range, as places; storage beyond its table is reason 5. -/
def State.tilePlaces (s : State) (tid : Nat) (d : Desc) (a : BitVec 128) : Chk (List Loc) := do
  let es := regionElts d a 64 64
  let p ← s.placeAll true tid d (es.map fun e => { idx := 0, off := e.2.2 })
  return p.elts.filterMap Elt.loc

/-- The bytes of a directory's tile, from its start: what its form takes (04 R88). -/
def tileLen (rd : Nat → Nat) : Nat :=
  let w := eltBytes (rd 0 % 16)
  match rd 0 / 16 % 4 with
  | 0 => if rd 0 % 16 = 6 then 2320 else 16 + 4096 * w
  | 1 => 16 + 1024 * (2 * w + 1)
  | 2 => (List.range 64).foldl (fun m j => let p := rd (16 + 2 * j) + 256 * rd (17 + 2 * j); max m (p + 1 + min 64 (rd p) * (w + 1))) 144
  | _ => 16

/-- Byte offset of the tile that a directory's entry names (08 R190). -/
def dirOffset (rd : Nat → Nat) (dir entry : Nat) : Nat :=
  let p := dir + 4 * entry
  (rd p + 256 * rd (p + 1) + 65536 * rd (p + 2) + 16777216 * rd (p + 3)) * 16

/-- Each row's bytes of an R88 tile, from its start; an E2M1 row's scales come with the last row. -/
def tileRows (rd : Nat → Nat) : List (Nat × Nat × Nat) :=
  let w := eltBytes (rd 0 % 16)
  let rows (f : Nat → Nat × Nat) : List (Nat × Nat × Nat) := (List.range 64).map fun j => (j, f j)
  match rd 0 / 16 % 4 with
  | 0 => if rd 0 % 16 = 6 then rows (fun j => (16 + 32 * j, 32)) ++ [(63, 2064, 256)] else rows fun j => (16 + 64 * w * j, 64 * w)
  | 1 => rows fun j => (16 + 16 * (2 * w + 1) * j, 16 * (2 * w + 1))
  | 2 => rows fun j => let p := rd (16 + 2 * j) + 256 * rd (17 + 2 * j); (p, 1 + min 64 (rd p) * (w + 1))
  | _ => []

/-- The blocks of the weight buffer that a directory's tile takes (15 R278). -/
def dirParts (rd : Nat → Nat) (dir entry : Nat) : List Part :=
  let p := dir + 4 * entry
  let off := dirOffset rd dir entry
  ((blocksOf p 4 ++ blocksOf off (tileLen fun i => rd (off + i))).filter fun k => decide (k < 32)).map Part.wbuf

/-- Adjoining pieces of storage put together. -/
def joinPieces (ps : List (Loc × Nat)) : List (Loc × Nat) :=
  (ps.foldl (fun acc p => match acc with
    | q :: r => if { q.1 with addr := q.1.addr + q.2 } = p.1 then (q.1, q.2 + p.2) :: r else p :: acc
    | [] => [p]) []).reverse

/-- Each row's bytes of a tensor's tile. -/
def State.tensorRows (s : State) (tid : Nat) (d : Desc) (a : BitVec 128) : List (Nat × Loc × Nat) :=
  (List.range 64).flatMap fun j =>
    (joinPieces ((List.range 64).flatMap fun i => match storeOff d (tileCoord (aCoord a) i j) with
      | none => []
      | some o => match s.placeElt [] true tid d { idx := i, off := o.1, nib := o.2 } with
        | (.at l, q) => ({ idx := i, off := o.1, nib := o.2, loc := some l, rest := q } : Elt).pieces d.tag
        | _ => [])).map fun p => (j, p)

/-- An operand checked and, where it lies in the core's own memories, the weight store or another
scratchpad, read, as the operation issues (08 R190-R192); one that a fetcher copy must bring from HBM or the host names its
tensors.  A format that no copy is made for is met at once (08 R187). -/
def State.localOperand (s : State) (h jb kb entry : Nat) : Chk Operand := do
  let op : Operand := { handle := h, ko := entry, jb := jb, kb := kb }
  let whole (x : TileData × Bool) : TileData := if x.2 then x.1 else { x.1 with elems := [] }
  match hKind h with
  | 0 =>
    let tid := hTid h
    let d0 ← s.desc tid
    let aux ← if d0.tag = 6 then s.desc d0.aux else pure {}
    let d := hDesc h jb kb d0
    let aux := hDesc h jb kb aux
    let a := hTile h jb kb
    let locs ← s.tilePlaces tid d a
    if !(regionElts d a 64 64).isEmpty then s.permit tid d .read
    s.raceCheck tid d .read locs
    s.partsThere (locParts s.core.id (eltBytes d.tag) locs)
    let op := { op with tag := d.tag }
    if !operandTag d.tag then return { op with tile := some { tag := d.tag, elems := [] } }
    else if d.loc = 2 then
      return { op with tile := some (s.plainTile tid d aux (aCoord a)), bytes := s.tensorRows tid d a }
    else if d.loc = 3 then return { op with tile := some (s.plainTile tid d aux (aCoord a)) }
    else return { op with desc := some (d, aux) }
  | 1 =>
    let rd (i : Nat) : Nat := (s.core.wbuf.byte i).toNat
    s.partsThere (dirParts rd (hDir h) entry)
    let off := dirOffset rd (hDir h) entry
    let t := whole (dirTile rd 1048576 (hDir h) entry)
    return { op with tag := t.tag, tile := some t
                     bytes := (tileRows fun i => rd (off + i)).map fun r => (r.1, { space := .wbuf, addr := off + r.2.1 }, r.2.2) }
  | 2 =>
    s.permit 0xFFFF0002 { kind := .wstore, loc := 3 } .read
    let die := dieOf s.core.id
    let t := whole (dirTile (fun i => (s.wstore.byte (wsKey die i)).toNat) (2 ^ 29) (hDir h) entry)
    return { op with tag := t.tag, tile := some t }
  | _ => .error (.trap (protection (hTid h) 6))

/-- The operation of the present core that a fetcher copy is for: its bank, bundle, number and path. -/
abbrev Asker := Nat × Nat × Nat × Path

/-- A fetcher copy of an operand's tile put on X3, with a place in the staging area (08 R190, R192). -/
def State.queueFetch (s : State) (who : Asker) (kind : CopyKind) (o : Operand) : Operand × State :=
  match o.desc with
  | none => (o, s)
  | some (d, aux) =>
    let a := hTile o.handle o.jb o.kb
    let id := (s.core.chan 3).next.toNat
    let at' := s.core.stage
    let t : Transfer :=
      { id := id, kind := kind, bank := who.1, bundle := who.2.1, issue := who.2.2.1, src := rangeOf a d
        dst := { tid := 0xFFFF0003, desc := { kind := .wbuf, ext0 := 1048576, loc := 4 }, off := some at' }
        len := tileBytes d.tag, srcA := a, dstA := BitVec.ofNat 128 o.handle, path := who.2.2.2, aux := aux }
    let s := s.onCore fun c => ((c.stageRoom d.tag).onChan 3 fun ch => { ch with next := ch.next + 1, queue := ch.queue ++ [t] }).onBankOf who.1
      fun b => { b with copies := b.copies + 1 }
    ({ o with id := some id, at' := at' }, s.chanGo s.core.id 3 64)

/-- X3 and the copies counter of a bank have room for another copy (04 R93, 06 R141). -/
def Core.fetchRoom (c : Core) (i : Nat) : Bool := (c.chan 3).queue.length < 16 && (c.bankOf i).copies < 63

/-- Copies of operands that still want one, as far as there is room. -/
def State.queueOperands (s : State) (who : Asker) : List Operand → List Operand × State
  | [] => ([], s)
  | o :: r =>
    if o.desc.isSome && o.id.isNone && o.tile.isNone && s.core.fetchRoom who.1 then
      let (o, s) := s.queueFetch who .fetcher o
      let (r, s) := State.queueOperands s who r
      (o :: r, s)
    else
      let (r, s) := State.queueOperands s who r
      (o :: r, s)

/-- An operand as an MMA or MCALL issues, a prefetched tile serving it where it is the origin's. -/
def State.fetchOperand (s : State) (h jb kb entry : Nat) (usePref : Bool) : Chk (Operand × State) := do
  let op ← s.localOperand h jb kb entry
  if op.desc.isNone then return (op, s)
  else
    match if usePref then s.core.staged.find? (fun p => p.handle = h ∧ p.bank = s.core.bank.id) else none with
    | some p =>
      let s := s.onCore fun c => { c with staged := c.staged.filter fun q => q.id ≠ p.id }
      return ({ op with id := some p.id, at' := p.at', tile := p.tile, failed := p.failed }, s)
    | none =>
      return (op, s.cacheSpans (hTid h) (op.desc.map Prod.fst |>.getD {}) ((regionElts (op.desc.map Prod.fst |>.getD {}) (hTile h jb kb) 64 64).map fun e => e.2.2))

/-- Whether a fetched tile is of a form the array takes: an unaccepted one keeps no elements. -/
def TileData.ok (t : TileData) : Bool := operandTag t.tag && !t.elems.isEmpty

/-- The deferred TAG_MISMATCH of an operand named through a handle (05 R103, 08 R187). -/
def handleTag (m tag : Nat) : TrapReq :=
  { cause := cTagMismatch, tval := BitVec.ofNat 64 (32 + m + tag * 256), cls := 4, rank := 5 }

/-- An uncorrectable error in an operand fetch (04 R100). -/
def operandError : TrapReq := { cause := cSoftError, tval := 0, rank := 5 }

/-! ### The decompressor (04 R88) -/

/-- Freezes of the array's beats from beat `j` on of a tile that the decompressor expands a row a cycle, up to eight rows
ahead: `done` rows are expanded, `used` read.  Answers beats and matrix-domain cycles. -/
def lagFrom (beats : Nat) : Nat → Nat → Nat → Nat → List (Nat × Nat)
  | 0, _, _, _ => []
  | k + 1, j, done, used =>
    let want := min 64 (ceilDiv ((j + 1) * 64) beats)
    let have' := min 64 (min (used + 8) (done + 1))
    let rest := lagFrom beats k (j + 1) (max have' want) want
    if have' < want then (j, want - have') :: rest else rest

/-- The freezes of an operand's use (04 R88): tiles of the weight buffer and the weight store pass through the decompressor;
`ahead` matrix-domain cycles pass before their use. -/
def Core.lagOf (c : Core) (o : Operand) (ahead : Nat) : List (Nat × Nat) :=
  if (hKind o.handle = 1 || hKind o.handle = 2) && 1 < o.beats then
    (lagFrom o.beats o.beats 0 (min 8 ahead) 0).map fun x => (o.start + 1 + x.1, x.2 * c.mat.per)
  else []

/-! ### Running an operation -/

/-- A tile as an operation in flight sees it: its own results, what it read at issue, the register. -/
def MatOp.tile (o : MatOp) (b : Bank) (t : Nat) : Words × Nat :=
  match (o.results ++ o.snap).find? (fun r => r.1 = t) with
  | some r => r.2
  | none => (b.readT t, b.tagT t)

/-- A micro-op's results enter those of its operation. -/
def MatOp.take (o : MatOp) (t : Nat) (r : MatOut) : MatOp :=
  { o with results := (t, r.tile, r.tag) :: o.results.filter (fun x => x.1 ≠ t)
           nv := o.nv + r.nv, ov := o.ov + r.ov, flags := o.flags ||| r.flags, snan := o.snan || r.snan }

/-- The row mask of slot block q (03 R65). -/
def State.rowMask (s : State) (q : Nat) : List Bool := (List.range 64).map fun i => s.rowLive (64 * q + i)

/-- Contained rows of a slot block (03 R66). -/
def State.containRows (s : State) (q : Nat) (l : List (Nat × Nat)) : State :=
  l.foldl (fun s c => s.contain (64 * q + c.1) c.2) s

/-- The slots that take part, as an operation issues (03 R65). -/
def State.rowsLive (s : State) : List Bool := (List.range 256).map s.rowLive

/-- The rows of an MMA or UMMA: those of the operation, and of its shape word's slot block, masked at issue (22 R357). -/
def MatOp.rowsOf (o : MatOp) (shape : Nat) : List Bool :=
  if bitAt shape 21 then (o.mask.zip (o.live.drop (64 * field shape 22 2))).map fun p => p.1 && p.2 else o.mask

/-- Slot block of the rows of an operation: its shape word's, or a routine's m0's. -/
def MatOp.block (o : MatOp) (shape : Nat) : Nat :=
  if bitAt shape 21 then field shape 22 2 else field (o.ms.getD 0 0) 6 2

/-- Row containment applies to an operation's attributed rows (05 R122). -/
def MatOp.containing (o : MatOp) (shape : Nat) : Bool :=
  o.rcont && (bitAt shape 21 || (o.routine && bitAt (o.ms.getD 0 0) 5))

/-- One UMMA or MMA of an operation whose operand is there. -/
def State.runMma (s : State) (o : MatOp) (td ta mode shape : Nat) (b : TileData) : State × MatOp :=
  let bank := s.core.bankOf o.bank
  let r := mmaRows o.fmode (o.containing shape) (o.rowsOf shape) mode shape (o.tile bank td).1 (o.tile bank ta).1 b
  (s.containRows (o.block shape) r.contains, o.take td r)

/-- Change the operation of a number. -/
def State.setOp (s : State) (o : MatOp) : State :=
  s.onCore fun c => { c with matOps := c.matOps.map fun p => if p.seq = o.seq then o else p }

/-- An MMA whose operand has come: its result is formed, or its deferred TAG_MISMATCH (08 R187). -/
def State.runSingle (s : State) (o : MatOp) (td ta mode mb : Nat) : State :=
  match o.operands.head?.bind Operand.tile with
  | none => s
  | some b =>
    let aTag := (o.tile (s.core.bankOf o.bank) ta).2
    if !b.ok ∨ aTag ≠ accTag b.tag then
      s.setOp { o with fetching := false, error := some (handleTag mb b.tag) }
    else
      let (s, o) := s.runMma o td ta mode (o.ms.getD (mb + 1) 0) b
      s.setOp { o with fetching := false }

/-- MMA_COMPLETE as an event. -/
def mmaEvent (core seq : Nat) : Instr := .mmaComplete (BitVec.ofNat 8 core) (BitVec.ofNat 48 seq)

/-- Traps of a shape word (08 R187): reserved bits and counts. -/
def shapeOk (sh : Nat) : Bool := sh / 2 ^ 25 == 0 && field sh 0 7 ≤ 64 && field sh 7 7 ≤ 64 && field sh 14 7 ≤ 64

/-- Beats of an M slot's code (21 R357). -/
def beatsOf (e : BitVec 5) : Nat := if e = 0 then 1 else 8 * e.toNat

/-- The matrix registers as a list, read at issue. -/
def State.mRegs (s : State) : List Nat := (List.range 8).map fun k => (s.core.bank.readM k).toNat

/-- The tile operations counter may rise (06 R141). -/
def State.tileRoom (s : State) : Chk Unit := backpressure 15 (31 ≤ s.core.bank.tiles)

/-- A matrix operation begins. -/
def State.begin (s : State) (o : MatOp) : State :=
  (s.onCore fun c => { c with matOps := c.matOps ++ [o] }).onBank fun b => { b with tiles := b.tiles + 1 }

/-- The format of an operand as far as its issue tells it: the descriptor's, or that of the directory's first tile; a
handle that names none is PROTECTION (08 R187, R191). -/
def State.handleFormat (s : State) (h : Nat) : Chk (Except TrapReq Nat) :=
  match hKind h with
  | 0 => match s.desc (hTid h) with
    | .ok x => .ok (.ok x.tag)
    | .error (.trap t) => .ok (.error t)
    | .error x => .error x
  | 1 => .ok (.ok (dirTile (fun i => (s.core.wbuf.byte i).toNat) 1048576 (hDir h) 0).1.tag)
  | 2 => .ok (.ok (dirTile (fun i => (s.wstore.byte (wsKey (dieOf s.core.id) i)).toNat) (2 ^ 29) (hDir h) 0).1.tag)
  | _ => .ok (.error (protection (hTid h) 6))

/-- An operation that a deferred trap ends leaves the array: its tiles are unchanged, the tile-operation counter falls, and
the trap comes at the next bundle to issue (08 R187, 04 R100). -/
def State.dropOp (s : State) (o : MatOp) (t : TrapReq) : State :=
  (s.onCore fun c => { (c.onBankOf o.bank fun b => { b with tiles := b.tiles - 1 }) with
    matOps := c.matOps.filter fun q => q.seq ≠ o.seq
    due := c.due.filter fun d => d.dom ≠ .mat || d.seq ≠ o.seq }).pend o.bank (t.of o.seq 5)

/-- What an MMA checks in the order of 08 R187: `dr` is its operand's format, as far as its issue tells it. -/
def State.mmaChecks (s : State) (mode : Nat) (d a : TReg) (h sh beats : Nat) (dr : Except TrapReq Nat) : Chk Unit := do
  let aTag := s.core.bank.tagT a
  let dTag := s.core.bank.tagT d
  match dr.toOption with
  | some t =>
    if operandTag t then
      if hKind h = 0 then need (aTag == accTag t) (tagMismatch (a + 2 ^ 6 + aTag * 2 ^ 8))
      if mode % 2 = 0 then need (dTag == accTag t) (tagMismatch (d + 2 ^ 6 + dTag * 2 ^ 8))
  | none => pure ()
  need (shapeOk sh) (violation 7)
  match dr.toOption with
  | some t => if operandTag t then need (mmaTime t sh ≤ beats) (violation 9)
  | none => pure ()
  need (!s.core.rowClaims (d % 8) (s.core.mat.cycles + beats + 5)) (violation 17)
  need (!(bitAt sh 21 && s.bgrp.isNone)) (requestFault 1)
  match dr with
  | .error t => .error (.trap t)
  | .ok _ => pure ()

/-- The four MMA forms; `mode` is F (22 R357, 08 R184-R187). -/
def mma (mode : Nat) (d a : TReg) (b : MReg) (e : BitVec 5) (s : State) : Chk State :=
  s.mFree.before do
    s.tilesFree false [a.val]
    s.tilesFree true [d.val]
    s.tileRoom
    let h := (s.core.bank.readM b).toNat
    let mb := b.val
    let sh := (s.core.bank.readM (mb + 1)).toNat
    let beats := beatsOf e
    let dr ← s.handleFormat h
    let now := s.core.mat.cycles
    (s.mmaChecks mode d a h sh beats dr).before do
      let (op, s) ← s.fetchOperand h 0 0 0 true
      if op.desc.isSome && op.id.isNone then s.copyRoom 3
      let bank := s.core.bank
      let op := { op with start := now, beats := mmaTime op.tag sh }
      let (ops, s) := s.queueOperands (bank.id, bank.pc, s.core.seq, s.core.path) [op]
      let aTag := bank.tagT a
      let dTag := bank.tagT d
      let o : MatOp :=
        { bank := bank.id, bundle := bank.pc, seq := s.core.seq, ms := s.mRegs, fmode := bank.sys.fmode
          mask := List.replicate 64 true, live := if bitAt sh 21 then s.rowsLive else [], rcont := s.rcont, dests := [(d, now + beats + 5)], due := now + beats + 6
          snap := [(a.val, bank.readT a, aTag), (d.val, bank.readT d, dTag)], fetching := op.tile.isNone
          operands := ops, path := s.core.path, todo := [.mma d a b e], base := mode }
      let s := ((s.begin o).mTake beats).onCore fun c => { c with lag := c.lag ++ c.lagOf op 0 }
      let s := s.dueIn .mat (beats + 6) (mmaEvent s.core.id o.seq)
      let s := if op.failed then s.dropOp o operandError else s.runSingle o d a mode mb
      -- an operand of an unaccepted form: the trap falls due at the next bundle to issue
      match s.core.matOps.find? (fun p => p.seq = o.seq) with
      | some p => match p.error with
        | some t => return (s.dropOp o t).onCore fun c => { c with lag := c.lag.filter fun x => decide (x.1 ≤ now) }
        | none => return s
      | none => return s

/-- MMA. -/
def execMma (d a : TReg) (b : MReg) (e : BitVec 5) (s : State) : Out := finish s (mma 0 d a b e s)
/-- MMA.Z. -/
def execMmaZ (d a : TReg) (b : MReg) (e : BitVec 5) (s : State) : Out := finish s (mma 1 d a b e s)
/-- MMA.T. -/
def execMmaT (d a : TReg) (b : MReg) (e : BitVec 5) (s : State) : Out := finish s (mma 2 d a b e s)
/-- MMA.ZT. -/
def execMmaZt (d a : TReg) (b : MReg) (e : BitVec 5) (s : State) : Out := finish s (mma 3 d a b e s)

/-- Results of the array commit whole (05 R120), with their flags and counts; or their trap falls due. -/
def MatOp.put (o : MatOp) (now : Nat) (b : Bank) : Bank :=
  let ex := o.flags &&& (modesOf o.fmode).te &&& 5
  if o.snan ∨ ex ≠ 0 then b.raiseFp now 2 o.bundle ex o.snan o.seq 5
  else (o.results.foldl (fun b r => b.setTile r.1 r.2.1 r.2.2) b).commitFlags o.flags o.nv o.ov

/-- An operation's end: what it has not committed yet commits, or the trap that abandoned it falls due (08 R196). -/
def MatOp.commit (o : MatOp) (now : Nat) (b : Bank) : Bank :=
  let b := { b with tiles := b.tiles - 1 }
  match o.error with
  | some t => { b with pending := b.pending ++ [t.of o.seq 5] }
  | none => o.put now b

/-- An operation leaves the array: its result commits and the tile-operation counter falls. -/
def State.complete (s : State) (seq : Nat) : State :=
  match s.core.matOps.find? (fun o => o.seq = seq) with
  | none => s
  | some o =>
    let s := s.onCore fun c => { (c.onBankOf o.bank (o.commit s.now)) with matOps := c.matOps.filter fun p => p.seq ≠ seq }
    s.completed s.core.id [3] o.path 5 s.core.id

/-- MMA_COMPLETE (08 R185, 06 R140): td completes at issue + beats + 6. -/
def execMmaComplete (core : BitVec 8) (seq : BitVec 48) (s : State) : Out :=
  .next ((s.focus core.toNat).complete seq.toNat)

/-- Operands that wait for a copy get one, as far as X3 has room (08 R190). -/
def State.fetchMore (s : State) : State :=
  let step (s : State) (seq : Nat) : State := match s.core.matOps.find? fun o => o.seq = seq with
    | none => s
    | some o =>
      let (ops, s) := s.queueOperands (o.bank, o.bundle, o.seq, o.path) o.operands
      s.setOp { o with operands := ops }
  let s := (s.core.matOps.map MatOp.seq).foldl step s
  match s.core.relax with
  | none => s
  | some r =>
    let (ops, s) := s.queueOperands (r.bank, r.bundle, r.seq, r.path) r.operands
    s.onCore fun c => { c with relax := some { r with operands := ops } }

/-- A tile of W that a relaxation awaits has come, or its fetch has failed (07 R155, 04 R100). -/
def State.relaxOperand (s : State) (k : Nat) (err : Bool) : State :=
  match s.core.relax with
  | none => s
  | some r =>
    let fill (p : Operand) : Operand :=
      if p.id = some k then { p with tile := some (s.core.stagedTile p.tag p.at') } else p
    let r := if err ∧ r.operands.any (fun p => p.id = some k) then { r with trap := some operandError } else r
    s.onCore fun c => { c with relax := some { r with operands := r.operands.map fill } }

/-- OPERAND_FETCH (08 R186, R190): the tile that X3 transfer `id` brings has arrived; operations that wait
for it go on.  `err` says that an uncorrectable error met it (04 R100). -/
def execOperandFetch (core : BitVec 8) (id : BitVec 64) (err : Bool) (s : State) : Out :=
  let s := s.focus core.toNat
  let k := id.toNat
  let got (p : Staged) : Staged := if p.id = k then { p with tile := some (s.core.stagedTile p.tag p.at'), failed := err } else p
  let s := (s.onCore fun c => { c with staged := c.staged.map got }).fetchMore
  let s := s.relaxOperand k err
  match s.core.matOps.find? (fun o => o.operands.any fun p => p.id = some k) with
  | none => .next s
  | some o =>
    let fill (p : Operand) : Operand :=
      if p.id = some k then { p with tile := some (s.core.stagedTile p.tag p.at'), failed := err } else p
    let o := { o with operands := o.operands.map fill }
    let o := { o with fetching := o.operands.any fun p => p.tile.isNone }
    let s := s.setOp o
    match o.routine, o.todo with
    | false, [.mma d a b _] => .next (if err then s.dropOp o operandError else s.runSingle o d a o.base b.val)
    -- a routine is abandoned at the micro-op that uses the operand (08 R196)
    | _, _ => .next s

/-- MPREF (22 R358, 08 R192). -/
def execMpref (k : MReg) (s : State) : Out :=
  finish s do
    s.mFree.before do
      let h := (s.core.bank.readM k).toNat
      let s := s.mTake 1
      if hKind h ≠ 0 then return s
      else match s.desc (hTid h) with
        | .error (.hold c a q) => .error (.hold c a q)
        | .error _ => return s
        | .ok d0 =>
          let d := hDesc h 0 0 d0
          if d.loc ≠ 0 ∧ d.loc ≠ 1 then return s
          else match s.tilePlaces (hTid h) d (hTile h 0 0), s.permit (hTid h) d .read with
            | .ok _, .ok _ =>
              let (op, s) ← s.fetchOperand h 0 0 0 false
              if op.desc.isNone then return s
              else
                s.copyRoom 3
                let bank := s.core.bank
                let (op, s) := s.queueFetch (bank.id, bank.pc, s.core.seq, s.core.path) .prefetch op
                match op.id with
                | none => return s
                | some id =>
                  return s.onCore fun c =>
                    { c with staged := c.staged ++ [{ handle := h, bank := c.bank.id, id := id, tag := op.tag, at' := op.at' }] }
            | _, _ => return s

/-! ### Microprograms (08 R193-R198) -/

/-- The class of formats a UMMA's FN names: none for a reserved FN (08 R195). -/
def fnClass (f : Nat) : Option (List Nat) :=
  if f = 2 ∨ f = 3 then some [2, 3]
  else if f = 4 ∨ f = 5 then some [4, 5]
  else if f = 6 then some [6]
  else if f = 7 ∨ f = 9 ∨ f = 11 then some [7, 9, 11]
  else none

/-- A microword, where it is one the array runs (08 R195, R197): none for a reserved UOP or FN, or H = 0. -/
def microOk (w : Nat) : Option Instr :=
  match decodeMicroword w with
  | some (.umma d a b h m f k) => if (fnClass f.toNat).isSome && h ≠ 0 then some (.umma d a b h m f k) else none
  | some (.uew d a b h m f k) => if f.toNat ≤ 9 then some (.uew d a b h m f k) else none
  | x => x

/-- A UMMA's word. -/
def wUmma (d a h m f k : Nat) : Nat := 2 ^ 28 + d * 2 ^ 23 + a * 2 ^ 18 + h * 2 ^ 11 + m * 2 ^ 9 + f * 2 ^ 5 + k
/-- A UEW's word. -/
def wUew (f d a b : Nat) : Nat := 2 * 2 ^ 28 + d * 2 ^ 23 + a * 2 ^ 18 + b * 2 ^ 13 + f * 2 ^ 5

/-- Firmware GEMM entries (08 R198): n products into b16. -/
def gemmWords (f n : Nat) : List Nat :=
  (List.range n).map (fun k => wUmma 16 k 1 (if k = 0 then 1 else 0) f k) ++ [0]

/-- Firmware entries 64-69 (08 R198): FP64 slice products of s slices, the sum of order o in b(14 + o). -/
def sliceWords (n : Nat) : List Nat :=
  ((List.range n).flatMap fun i => (List.range (i + 1)).map fun q =>
    -- order i + 2: A slice q + 1 with B slice i + 1 - q
    wUmma (16 + i) q 1 (if q = 0 then 1 else 0) 11 (i - q)) ++ [0]

/-- The GRU cell's listing (08 R198) for a format FN. -/
def gruWords (f : Nat) : List Nat :=
  [wUmma 4 0 1 1 f 0, wUew 0 4 4 1, wUew 3 4 4 0, wUmma 5 0 2 1 f 0, wUew 0 5 5 2, wUew 3 5 5 0,
   wUmma 6 0 3 1 f 0, wUew 2 6 6 4, wUew 0 6 6 3, wUew 4 6 6 0, wUew 1 4 0 6, wUew 2 4 5 4, wUew 0 0 6 4, 0]

/-- The LSTM cell of the firmware (08 R198): gates i, f, g, o at KO 0-3 of m2, inputs b2-b5. -/
def lstmWords (f : Nat) : List Nat :=
  [wUmma 6 0 1 1 f 0, wUmma 7 0 1 1 f 1, wUmma 8 0 1 1 f 2, wUmma 9 0 1 1 f 3,
   wUew 0 6 6 2, wUew 0 7 7 3, wUew 0 8 8 4, wUew 0 9 9 5, wUew 3 6 6 0, wUew 3 7 7 0, wUew 4 8 8 0, wUew 3 9 9 0,
   wUew 2 6 6 8, wUew 2 7 7 1, wUew 0 1 7 6, wUew 4 8 1 0, wUew 2 0 9 8, 0]

/-- The attention block of the firmware (08 R198): its seven steps. -/
def attentionWords (f : Nat) : List Nat :=
  [wUmma 11 0 1 1 f 0, wUew 7 12 11 0, wUew 9 12 8 12, wUew 1 11 11 12, wUew 6 11 11 0, wUew 1 13 8 12, wUew 6 13 13 0,
   wUew 2 9 9 13, wUew 8 8 11 0, wUew 0 9 9 8, wUew 2 10 10 13, wUmma 10 11 2 0 f 0, wUew 5 8 12 0, 0]

/-- The firmware's words of a library entry and its BEATS, none where the entry is invalid (08 R198). -/
def libraryWords (i : Nat) : Option (List Nat × Nat) :=
  if i ≤ 15 then some (gemmWords 2 (i + 1), 64 * (i + 1))
  else if i ≤ 31 then some (gemmWords 4 (i - 15), 32 * (i - 15))
  else if i ≤ 47 then some (gemmWords 6 (i - 31), 16 * (i - 31))
  else if i ≤ 63 then some (gemmWords 7 (i - 47), 32 * (i - 47))
  else if i ≤ 69 then some (sliceWords (i - 60), 16 * (i - 60) * (i - 59))
  else if i = 80 then some (attentionWords 2, 768)
  else if i = 81 then some (attentionWords 4, 704)
  else if i = 96 then some (gruWords 2, 832)
  else if i = 97 then some (gruWords 4, 736)
  else if i = 98 then some (lstmWords 2, 1088)
  else if i = 99 then some (lstmWords 4, 960)
  else none

/-- Where the firmware puts a library entry's words: 128 microwords each (log 12). -/
def libraryStart (i : Nat) : Nat := 128 * i

/-- A microword of the store: the firmware's below 16,384 (08 R197). -/
def Core.microword (c : Core) (i : Nat) : Nat :=
  if i < 16384 then match libraryWords (i / 128) with
    | some (ws, _) => ws.getD (i % 128) 0
    | none => 0
  else SMap.get 0 c.micro i

/-- A routine as MCALL runs it: its micro-ops, BEATS, RMASK and WMASK. -/
structure Routine where
  ops : List Instr
  beats : Nat
  rmask : Nat
  wmask : Nat
  start : Nat
  last : Nat
  deriving DecidableEq, Repr

/-- The scan of the microwords from an index to UEND (08 R197): the micro-ops, or the offending index. -/
def Core.scan (c : Core) : Nat → Nat → List Instr → Except Nat (List Instr × Nat)
  | 0, i, _ => .error (min i 32767)
  | k + 1, i, acc =>
    if 32767 < i then .error 32767
    else match microOk (c.microword i) with
      | none => .error i
      | some .uend => .ok (acc, i)
      | some x => Core.scan c k (i + 1) (acc ++ [x])

/-- A micro-op's time as the scan takes it (08 R197). -/
def scanTime (i : Instr) : Nat :=
  match i with
  | .umma _ _ _ _ _ f _ => if f.toNat = 2 ∨ f.toNat = 3 then 64 else 32
  | .uew _ _ _ _ _ _ _ => 64
  | _ => 0

/-- Relative tiles a micro-op reads and writes: an accumulating UMMA reads its destination, a binary UEW
its second source. -/
def microTiles (i : Instr) : List Nat × List Nat :=
  match i with
  | .umma d a _ _ m _ _ => (if m.toNat % 2 = 0 then [d.val, a.val] else [a.val], [d.val])
  | .uew d a b _ _ f _ => (if [0, 1, 2, 9].contains f.toNat then [a.val, b.val] else [a.val], [d.val])
  | _ => ([], [])

/-- A mask of tile numbers. -/
def maskOf (l : List Nat) : Nat := (l.eraseDups.map fun t => 2 ^ t).foldl (· + ·) 0

/-- A routine from its micro-ops. -/
def routineOf (ops : List Instr) (start last : Nat) : Routine :=
  let reads := (ops.map microTiles).flatMap Prod.fst
  let writes := (ops.map microTiles).flatMap Prod.snd
  { ops := ops, beats := (ops.map scanTime).foldl (· + ·) 0, rmask := maskOf (reads ++ writes), wmask := maskOf writes
    start := start, last := last }

/-- The routine of a table entry (08 R194, R198): none where V = 0.  Entries from 256 on are kept as the
start of their words; zero is invalid. -/
def Core.routine (c : Core) (i : Nat) : Option Routine :=
  if i < 256 then match libraryWords i with
    | some (ws, beats) =>
      match c.scan (ws.length + 1) (libraryStart i) [] with
      | .ok (ops, last) => some { routineOf ops (libraryStart i) last with beats := beats }
      | .error _ => none
    | none => none
  else match SMap.get 0 c.routines i with
    | 0 => none
    | n + 1 => match c.scan 32768 n [] with
      | .ok (ops, last) => some (routineOf ops n last)
      | .error _ => none

/-- A micro-op's time at an MCALL's issue (08 R195): a UMMA's T for its shape word. -/
def microTime (ms : List Nat) (lib : Nat) (i : Instr) : Nat :=
  match i with
  | .umma _ _ _ h _ f _ => mmaTime f.toNat (ms.getD (2 * h.toNat + 1) 0)
  -- the attention block's stated BEATS leave no time for its last step (log 12)
  | .uew _ _ _ _ _ f _ => if (lib = 80 ∨ lib = 81) ∧ f = 5 then 0 else 64
  | _ => 0

/-- Cumulated times of micro-ops. -/
def runningTimes : Nat → List Nat → List Nat
  | _, [] => []
  | t, x :: r => (t + x) :: runningTimes (t + x) r

/-- The shape words and handles of a routine's UMMAs, as read at issue. -/
def ummaWords (ms : List Nat) (ops : List Instr) : List (Nat × Nat × Nat) :=
  ops.filterMap fun i => match i with
    | .umma _ _ _ h _ _ k => some (ms.getD (2 * h.toNat) 0, ms.getD (2 * h.toNat + 1) 0, k.toNat)
    | _ => none

/-- The operands of a routine's UMMAs, each fetched once. -/
def State.fetchAll (s : State) : List (Nat × Nat × Nat) → List Operand → Chk (List Operand × State)
  | [], acc => .ok (acc, s)
  | (h, _, ko) :: r, acc => do
    if acc.any fun o => o.handle = h ∧ o.ko = ko then State.fetchAll s r acc
    else
      let (o, s) ← s.fetchOperand h ko 0 ko (ko = 0)
      State.fetchAll s r (acc ++ [o])

/-- When each operand's use by a routine begins: the first UMMA that names it, after `t` cycles, and that UMMA's time. -/
def useOf (ms : List Nat) (lib h ko : Nat) : Nat → List Instr → Nat × Nat
  | _, [] => (0, 1)
  | t, i :: r => match i with
    | .umma _ _ _ x _ _ k => if ms.getD (2 * x.toNat) 0 = h ∧ k.toNat = ko then (t, microTime ms lib i) else useOf ms lib h ko (t + microTime ms lib i) r
    | _ => useOf ms lib h ko (t + microTime ms lib i) r

/-- What an MCALL checks in the order of 08 R193, its entry valid; `occ` is its occupancy, `total` its routine's time. -/
def State.mcallChecks (s : State) (beats occ total : Nat) (words : List (Nat × Nat × Nat)) (writes : List (Nat × Nat)) : Chk Unit := do
  let m0 := (s.mRegs).getD 0 0
  need (m0 / 256 == 0 && words.all fun w => shapeOk w.2.1) (violation 7)
  need (beats ≤ occ && total ≤ occ) (violation 9)
  need (!writes.any fun w => s.core.rowClaims (w.1 % 8) w.2) (violation 17)
  need (!(s.bgrp.isNone && (bitAt m0 5 || words.any fun w => bitAt w.2.1 21))) (requestFault 1)
  match words.find? fun w => hKind w.1 = 3 with
  | some w => .error (.trap (protection (hTid w.1) 6))
  | none => pure ()

/-- MCALL (22 R355, 08 R193). -/
def execMcall (r : BitVec 12) (b : BitVec 6) (s : State) : Out :=
  finish s do
    let some e := s.core.routine r.toNat | .error (.trap s.illegal)
    s.mFree.before do
      s.tileRoom
      let ms := s.mRegs
      let m0 := ms.getD 0 0
      let base := m0 % 32
      let tiles := (List.range 32).filter fun x => bitAt e.wmask x
      let reads := (List.range 32).filter fun x => bitAt e.rmask x
      s.tilesFree false (reads.map fun t => (base + t) % 32)
      s.tilesFree true (tiles.map fun t => (base + t) % 32)
      let occ := if b = 0 then e.beats else 4 * b.toNat
      let words := ummaWords ms e.ops
      let times := e.ops.map (microTime ms r.toNat)
      let cum := runningTimes 0 times
      let total := cum.getLast?.getD 0
      let now := s.core.mat.cycles
      let writes := (e.ops.zip cum).flatMap fun p => (microTiles p.1).2.map fun t => ((base + t) % 32, now + p.2 - 1)
      (s.mcallChecks e.beats occ total words writes).before do
        let (ops, s) ← s.fetchAll words []
        -- the first copy finds room at issue; the others follow as X3 has room
        if ops.any fun o => o.desc.isSome && o.id.isNone then s.copyRoom 3
        let bank := s.core.bank
        let ops := ops.map fun o => let u := useOf ms r.toNat o.handle o.ko 0 e.ops; { o with start := now + u.1, beats := u.2 }
        let (ops, s) := s.queueOperands (bank.id, bank.pc, s.core.seq, s.core.path) ops
        let o : MatOp :=
          { bank := bank.id, bundle := bank.pc, seq := s.core.seq, routine := true, todo := e.ops ++ [.uend], base := base
            library := r.toNat, ms := ms, fmode := bank.sys.fmode
            mask := if bitAt m0 5 then s.rowMask (field m0 6 2) else List.replicate 64 true, rcont := s.rcont
            live := if words.any fun w => bitAt w.2.1 21 then s.rowsLive else []
            dests := writes, reads := reads.map fun t => (base + t) % 32, due := now + occ + 6
            fetching := ops.any fun p => p.tile.isNone, operands := ops, path := s.core.path }
        let s := ((s.begin o).mTake occ).onCore fun c => { c with lag := c.lag ++ ops.flatMap fun p => c.lagOf p (p.start - now) }
        -- each micro-op takes its time after the one before it, and its tile is there in the cycle after its last
        let s := (e.ops.zip cum).foldl (fun s p => s.dueIn .mat p.2 p.1) s
        let s := s.dueIn .mat total .uend
        return s.dueIn .mat (occ + 6) (.mcallComplete (BitVec.ofNat 8 s.core.id) (BitVec.ofNat 48 o.seq))

/-- The routine in flight whose next micro-op runs. -/
def Core.running' (c : Core) : Option MatOp := c.matOps.find? fun o => o.routine && !o.todo.isEmpty

/-- Scratch tiles of the library routines whose microword order the spec does not give, from the routine's base (log 12). -/
def scratchTiles (library : Nat) : List Nat :=
  if library = 80 ∨ library = 81 then [11, 12, 13] else if library = 98 ∨ library = 99 then [6, 7, 8, 9] else []

/-- The scratch tiles of a library routine hold free values in the rows that take part (log 12, 08 R195). -/
def MatOp.scratched (o : MatOp) (b : Bank) : Bank :=
  (scratchTiles o.library).foldl (fun b x =>
    let t := (o.base + x) % 32
    let old := b.readT t
    b.setTile t (SMap.tabulate 0 (List.range 4096) fun i =>
      if o.mask.getD (i / 64) true then Config.scratch (o.seq * 32 + t) i else old.at i) 1) b

/-- A routine is abandoned at a micro-op (08 R196): what earlier micro-ops wrote stands, the tile-operation counter
falls, and the trap comes at the next bundle to issue. -/
def State.abandon (s : State) (o : MatOp) (t : TrapReq) : State :=
  let o := { o with todo := [], error := some t }
  ((s.setOp o).onCore fun c => { (c.onBankOf o.bank o.scratched) with
    due := c.due.filter fun d => d.dom ≠ .mat || d.seq ≠ o.seq }).complete o.seq

/-- A micro-op's tile commits in the last cycle of its time (04 R85); one that raises is left as it was (05 R120). -/
def State.microDone (s : State) (o : MatOp) : State :=
  (s.setOp { o with results := [], flags := 0, nv := 0, ov := 0, snan := false }).onCore fun c => c.onBankOf o.bank (o.put s.now)

/-- UMMA (08 R195): the next micro-op of the routine in flight multiplies a tile by the operand its
parameter registers name. -/
def execUmma (d a _b : TReg) (h m : BitVec 2) (f : BitVec 4) (k : BitVec 5) (s : State) : Out :=
  match s.core.running' with
  | none => .next s
  | some o =>
    let o := { o with todo := o.todo.drop 1 }
    let td := (o.base + d.val) % 32
    let ta := (o.base + a.val) % 32
    let bank := s.core.bankOf o.bank
    let hm := 2 * h.toNat
    match o.operands.find? fun p => p.handle = o.ms.getD hm 0 ∧ p.ko = k.toNat with
    | none => .next (s.setOp o)
    | some p =>
      match p.tile with
      | none => .next (s.setOp o)
      | some b =>
        let tileBad (t : Nat) : TrapReq :=
          { cause := cTagMismatch, cls := 4, rank := 5, tval := BitVec.ofNat 64 (t + 64 + (o.tile bank t).2 * 256) }
        if p.failed then .next (s.abandon o operandError)
        else if !b.ok ∨ !((fnClass f.toNat).getD []).contains b.tag then .next (s.abandon o (handleTag hm b.tag))
        else if (o.tile bank ta).2 ≠ accTag b.tag then .next (s.abandon o (tileBad ta))
        else if m.toNat % 2 = 0 ∧ (o.tile bank td).2 ≠ accTag b.tag then .next (s.abandon o (tileBad td))
        else
          let (s, o) := s.runMma o td ta m.toNat (o.ms.getD (hm + 1) 0) b
          .next (s.microDone o)

/-- UEW (08 R195): the next micro-op of the routine in flight applies a function to the elements. -/
def execUew (d a b : TReg) (_h _m : BitVec 2) (f : BitVec 4) (_k : BitVec 5) (s : State) : Out :=
  match s.core.running' with
  | none => .next s
  | some o =>
    let o := { o with todo := o.todo.drop 1 }
    let bank := s.core.bankOf o.bank
    let t (x : TReg) : Nat := (o.base + x.val) % 32
    let srcs := if [0, 1, 2, 9].contains f.toNat then [t a, t b] else [t a]
    match srcs.find? fun x => (o.tile bank x).2 ≠ 1 with
    | some x =>
      .next (s.abandon o { cause := cTagMismatch, cls := 4, rank := 5
                           tval := BitVec.ofNat 64 (x + 64 + (o.tile bank x).2 * 256) })
    | none =>
      let r := uewRows o.fmode (o.containing 0) o.mask f.toNat (o.tile bank (t d)).1 (o.tile bank (t a)).1 (o.tile bank (t b)).1
      let s := s.containRows (o.block 0) r.contains
      .next (s.microDone (o.take (t d) r))

/-- UEND (08 R196): the routine ends; the array idles out the occupancy. -/
def execUend (s : State) : Out :=
  match s.core.running' with
  | none => .next s
  | some o => .next (s.setOp { o with todo := [] })

/-- MCALL_COMPLETE (08 R193, 06 R140): the destination tiles complete at issue + beats + 6. -/
def execMcallComplete (core : BitVec 8) (seq : BitVec 48) (s : State) : Out :=
  let s := s.focus core.toNat
  match s.core.matOps.find? (fun o => o.seq = seq.toNat) with
  | some o => .next ((s.onCore fun c => c.onBankOf o.bank o.scratched).complete seq.toNat)
  | none => .next s

/-- MUWR (22 R363, 08 R197). -/
def execMuwr (a b : GReg) (s : State) : Out :=
  finish s do
    need s.sup s.privilege
    let x := (s.g a).toNat
    let y := (s.g b).toNat
    let mode := x / 2 ^ 62
    -- a routine reads its microwords as it runs: what changes them or an entry waits for its end
    s.mFree.before (if (mode = 0 ∨ mode = 2) ∧ s.core.matOps.any MatOp.routine then .error (.hold 16 true none) else .ok ())
    let p8 : TrapReq := protection (x % 2 ^ 32) 8
    let put (s : State) : State := s.mTake 1
    match mode with
    | 0 =>
      need (field x 15 47 == 0 && 16384 ≤ x % 32768) p8
      let i := x % 32768
      let covers (n : Nat) : Bool := match s.core.routine n with
        | some r => r.start ≤ i && i ≤ r.last
        | none => false
      let hit := s.core.routines.filter fun e => !covers e.1
      return put (s.onCore fun c => { c with micro := SMap.set 0 c.micro i (y % 2 ^ 32), routines := hit })
    | 1 =>
      need (field x 12 50 == 0 && 256 ≤ x % 4096) p8
      let i := x % 4096
      let start := y % 32768
      -- the bundle after it waits one control-domain cycle for each microword scanned
      let wait (last : Nat) (s : State) : State := s.onCore fun c => { c with stall := (last + 1 - start, 16) }
      match s.core.scan 32768 start [] with
      | .error bad =>
        -- V = 0 is left behind, and the trap is raised
        let s := s.onCore fun c => { c with routines := SMap.erase c.routines i }
        return wait bad (s.takeTrap (protection bad 9))
      | .ok (_, last) =>
        return put (wait last (s.onCore fun c => { c with routines := SMap.set 0 c.routines i (start + 1) }))
    | 2 =>
      need (field x 12 50 == 0 && 256 ≤ x % 4096) p8
      return put (s.onCore fun c => { c with routines := SMap.erase c.routines (x % 4096) })
    | _ => .error (.trap p8)

end Sys2Proof.Machine
end

