-- ==== Sys2Proof/Machine/Relax.lean ====
section
/-!
DEFINITION. The relaxations: RELAX (07) and its adjoint RELAXB (08 R180-R183), iteration by iteration.
-/
namespace Sys2Proof.Machine

/-! ### Arithmetic of one element (07 R157, R158, 08 R181) -/

/-- Constants of 07 R158: log2 e, ln 2, 0.797885, 0.044715, 0.134145 and 0.5, 1, 20 in FP32. -/
def kLog2e : Nat := 0x3FB8AA3B
def kLn2 : Nat := 0x3F317218
def kGeluA : Nat := 0x3F4C4231
def kGeluB : Nat := 0x3D372713
def kGeluC : Nat := 0x3E095D4F
def kHalf : Nat := 0x3F000000
def kOne : Nat := 0x3F800000
def kTwenty : Nat := 0x41A00000

/-- A value above a number; false of a NaN. -/
def gt32 (x y : Nat) : Bool := !(v32 x).isNan && !(v32 y).isNan && cmpNum (v32 x) (v32 y) = .gt

/-- Two outcomes' events together, with the first one's result. -/
def FpOut.with (o p : FpOut) : FpOut := { o with flags := o.flags ||| p.flags, snan := o.snan || p.snan }

/-- f(y) of 07 R158 for the function code, with the events of its steps (07 R171). -/
def actF (f y : Nat) : FpOut :=
  match f with
  | 0 => { bits := y }
  | 1 => { bits := if (v32 y).isNan then Fmt.fp32.defaultNan else if gt32 y 0 then y else 0 }
  | 2 => sfn .tanh plain y
  | 3 => sfn .sigm plain y
  | 4 => sfn .gelu plain y
  | 5 => sfn .silu plain y
  | _ =>
    if gt32 y kTwenty then { bits := y }
    else
      let t := Fmt.fp32.mulNum plain (v32 y) (v32 kLog2e)
      let e := (sfn .exp2 plain t.bits).with t
      if gt32 (kTwenty + 2 ^ 31) y then e
      else
        let u := (Fmt.fp32.addNum plain (v32 kOne) (v32 e.bits)).with e
        let l := (sfn .log2 plain u.bits).with u
        (Fmt.fp32.mulNum plain (v32 l.bits) (v32 kLn2)).with l

/-- f'(y) of 07 R158: operations left to right as written. -/
def actDeriv (f y : Nat) : Nat :=
  match f with
  | 0 => kOne
  | 1 => if gt32 y 0 then kOne else 0
  | 2 =>
    let t := sfn32 .tanh y
    sub32 kOne (mul32 t t)
  | 3 =>
    let s := sfn32 .sigm y
    sub32 s (mul32 s s)
  | 4 =>
    let t := sfn32 .tanh (mul32 kGeluA (add32 y (mul32 (mul32 (mul32 kGeluB y) y) y)))
    let u := mul32 (mul32 (mul32 (mul32 kHalf y) (sub32 kOne (mul32 t t))) kGeluA) (add32 kOne (mul32 (mul32 kGeluC y) y))
    add32 (mul32 kHalf (add32 kOne t)) u
  | 5 =>
    let s := sfn32 .sigm y
    add32 s (mul32 (mul32 y s) (sub32 kOne s))
  | _ => sfn32 .sigm y

/-- The blocks of 64 of a row. -/
def blocks64 (l : List Nat) : List (List Nat) :=
  (List.range (l.length / 64)).map fun b => (l.drop (64 * b)).take 64

/-- The order of every sum (07 R160). -/
def blockSum (l : List Nat) : Nat := pairSum32 ((blocks64 l).map pairSum32)

/-- A dot product (07 R160). -/
def dot32 (a b : List Nat) : Nat := blockSum ((a.zip b).map fun p => mul32 p.1 p.2)

/-- A norm of a row (07 R160). -/
def rowNorm (two : Bool) (d : List Nat) : Nat :=
  if two then sqrt32 (blockSum (d.map fun x => mul32 x x))
  else if d.any fun x => (v32 x).isNan then Fmt.fp32.defaultNan
  else (d.map fun x => x % 2 ^ 31).foldl max 0

/-- The residual test (07 R159). -/
def passes (atol rtol : Nat) (x : List Nat) (rho nz : Nat) : Bool :=
  let lim := add32 atol (mul32 rtol nz)
  x.all (fun v => (v32 v).isFinite) && !(v32 rho).isNan && !(v32 lim).isNan && cmpNum (v32 rho) (v32 lim) ≠ .gt

/-! ### The acceleration solve (07 R164) -/

/-- An entry of a matrix kept as a table. -/
def mat16 (m : SMap Nat) (a b : Nat) : Nat := SMap.get 0 m (16 * a + b)
/-- Set an entry. -/
def mat16Set (m : SMap Nat) (a b v : Nat) : SMap Nat := SMap.set 0 m (16 * a + b) v

/-- The Cholesky factor from column `a` on, `k` columns left; none for the fallback. -/
def cholesky (A : SMap Nat) (h : Nat) : Nat → Nat → SMap Nat → Option (SMap Nat)
  | 0, _, L => some L
  | k + 1, a, L =>
    let d := (List.range a).foldl (fun s c => sub32 s (mul32 (mat16 L a c) (mat16 L a c))) (mat16 A a a)
    if !gt32 d 0 ∨ d = Fmt.fp32.infBits then none
    else
      let r := sqrt32 d
      let L := mat16Set L a a r
      let L := (List.range (h - (a + 1))).foldl (fun L i =>
        let b := a + 1 + i
        let s := (List.range a).foldl (fun s c => sub32 s (mul32 (mat16 L b c) (mat16 L a c))) (mat16 A b a)
        mat16Set L b a (div32 s r)) L
      cholesky A h k (a + 1) L

/-- The solution by forward and back substitution; none for the fallback. -/
def cholSolve (A : SMap Nat) (v : List Nat) (h : Nat) : Option (List Nat) := do
  let L ← cholesky A h h 0 []
  let sum (l : List Nat) (t : Nat → Nat) : Nat := l.foldl (fun s c => add32 s (t c)) 0
  let y := (List.range h).foldl (fun (y : List Nat) a =>
    y ++ [div32 (sub32 (v.getD a 0) (sum (List.range a) fun c => mul32 (mat16 L a c) (y.getD c 0))) (mat16 L a a)]) []
  let g := (List.range h).reverse.foldl (fun (g : List Nat) a =>
    -- `g` holds gamma from a + 1 on
    let s := sum (List.range (h - (a + 1))) fun i => mul32 (mat16 L (a + 1 + i) a) (g.getD i 0)
    div32 (sub32 (y.getD a 0) s) (mat16 L a a) :: g) []
  if g.all fun x => (v32 x).isFinite then some g else none

/-- What the acceleration of a row gives: the new x with the outcomes of its mixing, gamma, the fallback. -/
structure Mixed where
  x : List FpOut
  gamma : List Nat := []
  fb : Bool := false
  deriving DecidableEq, Repr

/-- The mixing of a row that holds `h` entries, oldest first (07 R164). -/
def mixRow (md : Modes) (ahl : Nat) (x r : List Nat) (dg dr : List (List Nat)) : Mixed :=
  let h := dg.length
  let same : List FpOut := x.map fun v => { bits := v }
  if h = 0 then { x := same }
  else
    let row (l : List (List Nat)) (a : Nat) : List Nat := l.getD a []
    let A : SMap Nat := (List.range h).foldl (fun m a => (List.range h).foldl (fun m b =>
      mat16Set m a b (dot32 (row dr a) (row dr b))) m) []
    let top := (List.range h).foldl (fun t a => (Fmt.fp32.maxmin plain true t (mat16 A a a)).bits) (mat16 A 0 0)
    let lam := mul32 ahl top
    let A := (List.range h).foldl (fun m a => mat16Set m a a (add32 (mat16 m a a) lam)) A
    let v := dr.map fun d => dot32 d r
    match cholSolve A v h with
    | none => { x := same, gamma := List.replicate h 0, fb := true }
    | some g =>
      let mix (j : Nat) (x0 : Nat) : FpOut :=
        (List.range h).foldl (fun (o : FpOut) a =>
          let t := Fmt.fp32.mulNum md (v32 (g.getD a 0)) (v32 ((row dg a).getD j 0))
          let u := Fmt.fp32.addNum md (v32 o.bits) (v32 t.bits).negate
          { u with flags := u.flags ||| t.flags ||| o.flags, snan := u.snan || t.snan || o.snan }) { bits := x0 }
      { x := x.mapIdx mix, gamma := g }

/-! ### One iteration (07 R159, 08 R181) -/

/-- One row before an iteration, over the whole width. -/
structure RowIn where
  z : List Nat
  /-- The injection, or the gradient. -/
  u : List Nat
  /-- The derivatives, of RELAXB. -/
  fd : List Nat := []
  deriving DecidableEq, Repr

/-- The format of W, from its first tile (07 R154). -/
def RelaxRun.fmt (r : RelaxRun) : Nat := (r.operands.head?.map Operand.tag).getD 4

/-- The tile (jb, kb) of W that a core's operands hold. -/
def RelaxRun.wTile (r : RelaxRun) (jb kb : Nat) : TileData :=
  match (r.operands.find? fun p => p.ko = jb * (r.nc * r.cores.length) + kb).bind Operand.tile with
  | some t => t
  | none => { tag := 4, elems := [] }

/-- The relaxation of the core that holds column or row block `b` of the width. -/
def ownerOf (runs : List RelaxRun) (nc b : Nat) : Option RelaxRun := runs[b / nc]?

/-- A block of 64 values that multiply q's block `kb` for output `j`: row j of W, or of its transpose. -/
def wColumn (md : Modes) (runs : List RelaxRun) (nc : Nat) (back : Bool) (j kb : Nat) : List Exact :=
  let o := if back then kb else j / 64
  match ownerOf runs nc o with
  | none => []
  | some r =>
    let t := if back then r.wTile (kb % nc) (j / 64) else r.wTile (j / 64 % nc) kb
    (List.range 64).map fun q => if back then t.numAt md q (j % 64) else t.numAt md (j % 64) q

/-- What an iteration gives one row before acceleration: x and y over the whole width, with the outcome of
each element. -/
structure RowStep where
  x : List FpOut
  y : List Nat
  deriving DecidableEq, Repr

/-- The row as a core's operands multiply it: its blocks in the form for the format of that core's W, with the events of
the conversion (07 R157). -/
structure RowForm where
  md : Modes
  fmt : Nat
  blocks : List ARow
  deriving DecidableEq, Repr

/-- A core's form of a row. -/
def RelaxRun.form (r : RelaxRun) (p : List Nat) : RowForm :=
  let md := matModes r.fmode
  { md := md, fmt := r.fmt, blocks := (blocks64 p).map fun b => aform md r.fmt false b }

/-- The update of one row (07 R157-R159, 08 R181): every core multiplies the whole row in the form of its own W
(07 R177). -/
def rowStep (runs : List RelaxRun) (r : RelaxRun) (i : RowIn) : RowStep :=
  let md := matModes r.fmode
  let n := i.z.length
  let c := sub32 kOne r.beta
  let ps : List FpOut :=
    if r.back then (i.fd.zip i.z).map fun p => Fmt.fp32.mulNum md (v32 p.1) (v32 p.2) else i.z.map fun x => { bits := x }
  let forms := runs.map fun q => q.form (ps.map FpOut.bits)
  -- the blocks that output `j` takes: those of its own core, or each of the core that holds its rows of W
  let blocksFor (j : Nat) : List (RowForm × ARow) := (List.range (n / 64)).filterMap fun kb =>
    forms[(if r.back then kb else j / 64) / r.nc]?.bind fun f => f.blocks[kb]?.map fun a => (f, a)
  -- an event of the conversion is an event of every element that takes the block
  let conv (l : List (RowForm × ARow)) : FpOut :=
    { bits := 0, flags := flagsOf ps ||| l.foldl (fun f q => f ||| (q.2.flags &&& (fNV + fOF + fSNAN))) 0
      snan := ps.any FpOut.snan || l.any fun q => q.2.snan }
  let dotOf (j : Nat) : FpOut :=
    let l := blocksFor j
    ((l.mapIdx fun kb a => kBlock a.1.md a.1.fmt a.2 (wColumn a.1.md runs r.nc r.back j kb)).foldl (fun acc b =>
      ((Fmt.fp32.addNum md (v32 acc.bits) (v32 b.bits)).with acc).with b) { bits := 0 }).with (conv l)
  let elt (j : Nat) : FpOut × Nat :=
    let z := i.z.getD j 0
    let u := i.u.getD j 0
    let d := dotOf j
    let m1 := Fmt.fp32.mulNum md (v32 c) (v32 z)
    if r.back then
      let m2 := Fmt.fp32.mulNum md (v32 r.beta) (v32 d.bits)
      let s := Fmt.fp32.addNum md (v32 m1.bits) (v32 m2.bits)
      let x := Fmt.fp32.addNum md (v32 s.bits) (v32 u)
      ((((x.with s).with m2).with m1).with d, d.bits)
    else
      let y := Fmt.fp32.addNum md (v32 d.bits) (v32 u)
      let a := actF r.f y.bits
      let m2 := Fmt.fp32.mulNum md (v32 r.beta) (v32 a.bits)
      let x := Fmt.fp32.addNum md (v32 m1.bits) (v32 m2.bits)
      (((((x.with m2).with a).with m1).with y).with d, y.bits)
  let es := (List.range n).map elt
  { x := es.map Prod.fst, y := es.map Prod.snd }

/-! ### Rows in tiles (07 R154) -/

/-- A row of a block of tiles on one core. -/
def blockRow (b : Bank) (nc t i : Nat) : List Nat :=
  (List.range nc).flatMap fun c =>
    let x := b.readT (t + i / 64 * nc + c)
    (List.range 64).map fun j => (x.at (64 * (i % 64) + j)).toNat

/-- A row of a block of tiles written; the tags are unchanged. -/
def Bank.setBlockRow (b : Bank) (nc t i : Nat) (v : List Nat) : Bank :=
  (List.range nc).foldl (fun b c =>
    let k := t + i / 64 * nc + c
    let row : Words := SMap.tabulate 0 (List.range 64) fun j => BitVec.ofNat 32 (v.getD (64 * c + j) 0)
    { b with t := SMap.set [] b.t k (setRow (b.readT k) (i % 64) row) }) b

/-- First tile of history block `k` (07 R164). -/
def RelaxRun.histBlock (r : RelaxRun) (k : Nat) : Nat := 32 - r.histTiles + k * r.nr * r.nc

/-! ### Issue (07 R155, R161, R170, R370, R371) -/

/-- The row table's entry of a row as it stands in the scratchpad. -/
def State.tableEntry (s : State) (r : RelaxRun) (i : Nat) : Nat := s.core.spad.read (r.rtab + 8 * i) 8

/-- A row's liveness at issue (07 R161, R170). -/
def State.rowStarts (s : State) (r : RelaxRun) (i : Nat) : Bool :=
  (if r.rag then s.rowLive (64 * (r.q + i / 64) + i % 64) else i < r.nrow) &&
    (!r.cont || field (s.tableEntry r i) 16 3 == 1)

/-- A live row as the relaxation begins. -/
def State.startRow (s : State) (r : RelaxRun) (i : Nat) : RelaxRow :=
  let e := s.tableEntry r i
  let z := blockRow s.core.bank r.nc r.tz i
  if r.cont then
    { row := i, iter := field e 0 16, rho := field e 32 32, fb := bitAt e 23, hist := min (field e 19 4) r.ahd
      ran := true, z := z }
  else { row := i, z := z }

/-- The blocks fit and share no tile (07 R155, TVAL 6). -/
def RelaxRun.blocksOk (r : RelaxRun) : Bool :=
  let all := r.tiles ++ r.block r.tu
  r.histTiles ≤ 32 && all.all (· < 32) && all.eraseDups.length = all.length

/-- The parameter word is in range (07 R155, TVAL 7). -/
def RelaxRun.paramOk (r : RelaxRun) (bc : Bool) : Bool :=
  r.par / 2 ^ 42 == 0 && (r.rag || (r.nrow != 0 && r.nrow ≤ 64 * r.nr)) && (!r.rag || r.q + r.nr ≤ 4) &&
    (!r.rte || r.rtab + 512 * r.nr ≤ 2097152) && (!r.cont || r.rte) && (!r.span || bc)

/-- The cores that relax together with the present one, in position order (07 R177). -/
def State.relaxCores (s : State) (span : Bool) : List Nat :=
  match s.core.task with
  | some t => if span ∧ 1 < t.size then (List.range t.size).map (t.first + ·) else [s.core.id]
  | none => [s.core.id]

/-- An operation's record as read at issue. -/
def State.newRelax (s : State) (back : Bool) (tz tu mw f : Nat) (sv : Bool) : RelaxRun :=
  let b := s.core.bank
  let y := b.sys
  let par := (b.readM (mw + 1)).toNat
  { bank := b.id, bundle := b.pc, seq := s.core.seq, back := back, tz := tz, tu := tu, mw := mw, f := f, sv := sv
    par := par, handle := (b.readM mw).toNat, fmode := y.fmode, itl := field y.itl.toNat 0 16, atol := field y.atol.toNat 0 32
    rtol := field y.rtol.toNat 0 32, beta := field y.beta.toNat 0 32, ahd := field y.ahd.toNat 0 4
    ahl := field y.ahl.toNat 0 32, pol := bitAt y.rxpol.toNat 0, nrm := bitAt y.rxnrm.toNat 0
    cores := s.relaxCores (bitAt par 4), issued := s.now, path := s.core.path }

/-- The first core of a relaxation, on which its events run. -/
def RelaxRun.leader (r : RelaxRun) : Nat := r.cores.headD 0

/-- RELAX_ITERATION of a core. -/
def relaxEvent (n : Nat) : Instr := .relaxIteration (BitVec.ofNat 8 n)

/-- A relaxation's change on one core. -/
def State.onRelax (s : State) (n : Nat) (f : RelaxRun → RelaxRun) : State :=
  s.onCoreOf n fun c => { c with relax := c.relax.map f }

/-- A relaxation's change on each of its cores. -/
def State.onRelaxAll (s : State) (cores : List Nat) (f : RelaxRun → RelaxRun) : State :=
  cores.foldl (fun s n => s.onRelax n f) s

/-- The relaxations of a list of cores. -/
def State.runsOf (s : State) (l : List Nat) : List RelaxRun := l.filterMap fun n => (s.coreOf n).relax

/-- What happens at another core, the present one staying as it is. -/
def State.atCore (s : State) (n : Nat) (f : State → State) : State := (f (s.focus n)).focus s.core.id

/-- The kinds of RELAX record (07 R175): issue, an iteration's end, a repack, a wait, the completion. -/
inductive RelaxMark where | issue | iteration | repack | wait | done
  deriving DecidableEq, Repr

/-- A RELAX record of core `n` (07 R175, 12 R241): PID[2:0] its kind, PID[31:3] the bundle address / 4, the passes or the
cause (DESIGN CHOICE, log 50), WAITLEN the reference cycles of a wait. -/
def State.relaxRecord (s : State) (n : Nat) (k : RelaxMark) (datum len : Nat) : State :=
  let code := match k with
    | .issue => 1
    | .iteration => 2
    | .repack => 3
    | .wait => 4
    | .done => 5
  s.atCore n fun s => s.traced 3 0x24 ((code + 8 * datum) % 2 ^ 32) len

/-- The parts of a relaxation begin, the first of them now, each counted in its domain (07 R179); `n` leads. -/
def State.runParts (s : State) (n : Nat) (parts : List (Dom × Nat)) : State :=
  match (s.coreOf n).relax with
  | none => s
  | some r =>
    let p := parts.headD (.mat, 0)
    let s := r.cores.foldl (fun s k => s.onCoreOf k fun c =>
      { c with relax := c.relax.map fun q => { q with parts := parts, began := (c.clock p.1).cycles } }) s
    s.atCore n fun s => s.dueIn p.1 p.2 (if r.phase = 2 then .relaxComplete (BitVec.ofNat 8 n) else relaxEvent n)

/-- Fields that the cores of a spanning group must have alike (07 R178). -/
def RelaxRun.agree (a b : RelaxRun) : Bool :=
  a.back = b.back && a.f = b.f && a.sv = b.sv && a.nr = b.nr && a.nc = b.nc && a.rag = b.rag && a.q = b.q &&
    a.nrow = b.nrow && a.cont = b.cont && a.itl = b.itl && a.atol = b.atol && a.rtol = b.rtol && a.beta = b.beta &&
    a.ahd = b.ahd && a.ahl = b.ahl && a.pol = b.pol && a.nrm = b.nrm

/-- A relaxation ends without results on one core (07 R155, R178): the counter falls, a trap falls due. -/
def State.abandonRelax (s : State) (t : TrapReq) (n : Nat) : State :=
  s.onCoreOf n fun c => match c.relax with
    | none => c
    | some r =>
      { (c.onBankOf r.bank fun b => { b with tiles := b.tiles - 1, pending := b.pending ++ [t.of r.seq 5] }) with
        relax := none
        due := c.due.filter fun d => d.event ≠ relaxEvent n ∧ d.event ≠ .relaxComplete (BitVec.ofNat 8 n) }

/-- Rows still live. -/
def RelaxRun.live (r : RelaxRun) : List RelaxRow := r.rows.filter fun x => x.st = 1

/-- The live rows packed into passes in ascending order (07 R163). -/
def RelaxRun.pack (r : RelaxRun) : RelaxRun :=
  let l := r.live.map RelaxRow.row
  { r with packed := l, passes := ceilDiv l.length 64 }

/-- Matrix-domain cycles of the start (07 R179). -/
def RelaxRun.startTime (r : RelaxRun) : Nat := 16 + 16 * r.nr * r.nc

/-- The exchange starts: agreement, the common live set, the start part (07 R177-R179). -/
def State.startRelax (s : State) (cores : List Nat) : State :=
  let runs := s.runsOf cores
  match runs with
  | [] => s
  | r :: rest =>
    if !rest.all r.agree then cores.foldl (fun s n => s.abandonRelax { violation 8 with rank := 5 } n) s
    else
      let live (i : Nat) : Bool := runs.all fun q => q.rows.any fun x => x.row = i
      let s := s.onRelaxAll cores fun q => { ({ q with rows := q.rows.filter fun x => live x.row } : RelaxRun).pack with started := true }
      -- the wait for the last core to issue
      let s := if 1 < cores.length then cores.foldl (fun s n => match (s.coreOf n).relax with
          | some q => if q.issued < s.now then s.relaxRecord n .wait 8 (s.now - q.issued) else s
          | none => s) s
        else s
      s.runParts r.leader [(.mat, r.startTime)]

/-- What a relaxation checks as it issues, in the order of 06 R132 (07 R155, 08 R182). -/
def State.relaxChecks (s : State) (r : RelaxRun) (dr : Except TrapReq (Option Desc)) : Chk Unit := do
  let b := s.core.bank
  let tagged := (r.block r.tz ++ r.block r.tu ++ (if r.back then r.block r.td else [])).filter (· < 32)
  match tagged.find? fun t => b.tagT t ≠ 1 with
  | some t => .error (.trap (tagMismatch (t + 2 ^ 6 + b.tagT t * 2 ^ 8)))
  | none => pure ()
  match dr with
  | .ok (some x) => need ([2, 4, 6].contains x.tag) (tagMismatch (32 + r.mw + x.tag * 2 ^ 8))
  | _ => pure ()
  need r.blocksOk (violation 6)
  need (r.paramOk (match s.core.task with
    | some t => t.bc
    | none => false)) (violation 7)
  need (!(r.rag && s.bgrp.isNone)) (requestFault 1)
  match dr with
  | .error t => .error (.trap t)
  | .ok _ => pure ()

/-- The tensor of a handle of W as its issue tells it. -/
def State.relaxDesc (s : State) (h : Nat) : Chk (Except TrapReq (Option Desc)) :=
  match hKind h with
  | 0 => match s.desc (hTid h) with
    | .ok x => .ok (.ok (some x))
    | .error (.trap t) => .ok (.error t)
    | .error x => .error x
  | 3 => .ok (.error (protection (hTid h) 6))
  | _ => .ok (.ok none)

/-- The watch for a core of the group that does not issue (07 R178). -/
def State.watchRelax (s : State) (leader n : Nat) : State :=
  let e : Instr := .relaxAbsentCore (BitVec.ofNat 8 leader)
  if s.calendar.any fun x => x.event = e then s else s.exactly n e

/-- RELAX and RELAXB as they issue (07 R370, 08 R373). -/
def relaxIssue (back : Bool) (tz tu mw f : Nat) (sv : Bool) (s : State) : Chk State :=
  s.mFree.before do
    let r := s.newRelax back tz tu mw f sv
    s.tilesFree true ((r.tiles ++ r.block r.tu).filter (· < 32))
    s.tileRoom
    let dr ← s.relaxDesc r.handle
    (s.relaxChecks r dr).before do
      let rows := ((List.range (64 * r.nr)).filter (s.rowStarts r)).map (s.startRow r)
      let nb := r.nc * r.cores.length
      -- the reads of a weight store wait for its windows as the iterations make them, not here
      let quiet := { s with windows := [] }
      let ops ← if rows.isEmpty then pure [] else
        (List.range (r.nc * nb)).mapM fun k => quiet.localOperand r.handle (k / nb) (k % nb) k
      if ops.any fun o => o.desc.isSome then s.copyRoom 3
      let s := s.onBank fun b =>
        { b with tiles := b.tiles + 1, sys := if r.cont then b.sys else { b.sys with itc := 0 } }
      -- the use of the operands begins with the first iteration
      let ops := ops.map fun o => { o with start := s.core.mat.cycles + 2 ^ 40 }
      let stream := hKind r.handle = 2 || (match dr with
        | .ok (some d) => d.loc = 3
        | _ => false)
      let s := (s.onCore fun c => { c with relax := some { r with rows := rows, operands := ops, stream := stream } }).fetchMore
      let s := s.relaxRecord s.core.id .issue (r.bundle / 4) 0
      if r.cores.all fun n => match (s.coreOf n).relax with
          | some q => !q.started && q.cores = r.cores
          | none => false then return s.startRelax r.cores
      else
        -- the first of a spanning group to issue starts the watch for an absent core
        return s.watchRelax r.leader (2 ^ 20)

/-- RELAX (23 R370). -/
def execRelax (tz tu : TReg) (mw : MReg) (sv : BitVec 1) (f : BitVec 3) (s : State) : Out :=
  finish s (relaxIssue false tz tu mw f.toNat (sv == 1) s)

/-- RELAXB (23 R373). -/
def execRelaxb (tz tg : TReg) (mw : MReg) (s : State) : Out :=
  finish s (relaxIssue true tz tg mw 0 false s)

/-- RELAX_ABSENT_CORE (07 R178): a core of the group issued no matching instruction within 2^20 reference cycles of the
first that did. -/
def execRelaxAbsentCore (core : BitVec 8) (s : State) : Out :=
  match (s.cores.filterMap Core.relax).filter fun r => r.leader = core.toNat && !r.started with
  | [] => .next s
  | r :: rest =>
    let first := rest.foldl (fun t q => min t q.issued) r.issued
    if s.now < first + 2 ^ 20 then .next (s.watchRelax core.toNat (first + 2 ^ 20 - s.now))
    else .next (r.cores.foldl (fun s n => s.abandonRelax { cause := cWatchdog, rank := 5 } n) s)

/-! ### Iterations (07 R159-R165, R168-R172) -/

/-- Matrix-domain cycles that an operand takes in a pass (07 R179, 08 R183). -/
def RelaxRun.tileTime (r : RelaxRun) (o : Operand) : Nat :=
  (if r.fmt = 2 then 64 else 32) + (if r.back ∧ (o.tile.map TileData.packed).getD false then 8 else 0)

/-- The operands with the cycles of a pass at which the array comes to them. -/
def RelaxRun.schedule (r : RelaxRun) : List (Operand × Nat) :=
  let go := r.operands.foldl (fun (acc : List (Operand × Nat) × Nat) o => ((o, acc.2) :: acc.1, acc.2 + r.tileTime o)) ([], 0)
  go.1.reverse

/-- Matrix-domain cycles of one pass (07 R179, 08 R183). -/
def RelaxRun.passTime (r : RelaxRun) : Nat := (r.operands.map r.tileTime).foldl (· + ·) 24

/-- The parts of one iteration (07 R179, 08 R183). -/
def RelaxRun.iterParts (r : RelaxRun) : List (Dom × Nat) :=
  let g := r.cores.length
  let p := r.passes
  let m := r.ahd
  let words := (if r.back then 64 * g * r.nc * r.nc else 64 * r.nc) + 2 + (if 0 < m then m + 1 else 0)
  [(.mat, p * r.passTime)] ++
    (if 0 < m then [(Dom.vec, p * (r.nc * (m + 1) * (m + 2) + 8 * m * m + 16))] else []) ++
    (if 1 < g then [(Dom.ctl, p * g * words)] else [])

/-- Live rows of the pass under way; outside an iteration there is none (02 R44, 07 R163). -/
def Core.passLive (c : Core) (r : RelaxRun) : Nat :=
  match r.phase, r.parts with
  | 1, (d, k) :: _ =>
    let pass := ((c.clock d).cycles - r.began) * r.passes / max 1 k
    (((r.packed.drop (64 * min pass (r.passes - 1))).take 64).filter fun i => r.live.any fun x => x.row = i).length
  | _, _ => 0

/-- A relaxation comes to a tile that it streams from the weight store (04 R90, 07 R179). -/
def Core.streams (c : Core) : Bool :=
  match c.relax with
  | none => false
  | some r => match r.phase, r.parts with
    | 1, (.mat, _) :: _ =>
      let m := (c.mat.cycles - r.began) % max 1 r.passTime
      r.stream && r.schedule.any fun p => p.2 = m
    | _, _ => false

/-- An iteration's product begins on a core: when the array comes to each operand, and where the decompressor falls
behind it (04 R88). -/
def Core.beginProduct (c : Core) : Core :=
  match c.relax with
  | none => c
  | some r =>
    let now := c.mat.cycles
    let first := r.operands.any fun o => decide (now < o.start)
    let place (p : Operand × Nat) : Operand :=
      if first then { p.1 with start := now + p.2, beats := if r.fmt = 2 then 64 else 32 } else p.1
    let lags := (List.range r.passes).flatMap fun k => r.schedule.flatMap fun p =>
      c.lagOf { p.1 with start := now + k * r.passTime + p.2, beats := if r.fmt = 2 then 64 else 32 } (if p.2 = 0 then 8 else 0)
    { c with relax := some { r with operands := r.schedule.map place }, lag := c.lag ++ lags }

/-- A row's breakwater bit has cleared since the relaxation issued (07 R167). -/
def State.rowGone (s : State) (r : RelaxRun) (i : Nat) : Bool :=
  r.rag && (let q := 64 * (r.q + i / 64) + i % 64; s.isCleared q || r.cleared.contains q)

/-- Tiles that completion writes (07 R179): state tiles with a row to write, and their derivative tiles. -/
def State.writtenTiles (s : State) (r : RelaxRun) : List Nat :=
  if !r.write then []
  else (List.range r.nr).flatMap fun k =>
    if r.rows.any fun x => x.row / 64 = k && (x.st = 1 || x.st = 2) && !s.rowGone r x.row then
      (List.range r.nc).flatMap fun c => (r.tz + k * r.nc + c) :: (if r.sv then [r.td + k * r.nc + c] else [])
    else []

/-- The relaxation goes into its finish (07 R179): 32 cycles, then 16 for each tile written. -/
def State.finishRelax (s : State) (n : Nat) (cores : List Nat) : State :=
  let s := cores.foldl (fun s k => s.atCore k fun s => s.onCore fun c =>
    { c with relax := c.relax.map fun r => { r with phase := 2, out := s.writtenTiles r, wrote := 0 } }) s
  s.runParts n [(.mat, 32)]

/-- The system registers of the bank a core's relaxation belongs to. -/
def State.onRelaxSys (s : State) (n : Nat) (f : SysRegs → SysRegs) : State :=
  s.onCoreOf n fun c => match c.relax with
    | none => c
    | some r => c.onBankOf r.bank fun b => { b with sys := f b.sys }

/-- ITC of a relaxation's context. -/
def State.itcOf (s : State) (r : RelaxRun) (n : Nat) : Nat := field ((s.coreOf n).bankOf r.bank).sys.itc.toNat 0 16

/-- A row's entry of the row table (07 R162). -/
def RelaxRow.entry (x : RelaxRow) (itc : Nat) : Nat :=
  let it := if x.st = 2 then x.iter else itc
  it % 65536 + x.st * 2 ^ 16 + min x.hist 8 * 2 ^ 19 + (if x.fb then 2 ^ 23 else 0) + x.rho * 2 ^ 32

/-- The row table written: rows not live at issue take ST 0, or keep their entries in a continuation
(07 R162, R170). -/
def RelaxRun.writeTable (r : RelaxRun) (itc : Nat) (m : Memory) : Memory :=
  (List.range (64 * r.nr)).foldl (fun m i => match r.rows.find? fun x => x.row = i with
    | some x => m.write (r.rtab + 8 * i) (x.entry itc) 8
    | none => if r.cont then m else m.write (r.rtab + 8 * i) 0 8) m

/-- Between iterations: end, apply the limit, or begin the next (07 R168, R169, R172, R370); a checkpoint finishes it
here (07 R174). -/
def State.decideRelax (s : State) (n : Nat) (r : RelaxRun) : State :=
  if r.rows.isEmpty then
    let s := r.cores.foldl (fun s k => s.onRelaxSys k fun y => { y with rsd := 0, rxlive := 0 }) s
    s.finishRelax n r.cores
  else if r.live.isEmpty then s.finishRelax n r.cores
  else if r.itl ≤ s.itcOf r n then
    if r.pol ∧ r.rag then
      -- the contain policy: code NONCONVERGED
      let s := r.cores.foldl (fun s k => s.atCore k fun s => match s.core.relax with
        | none => s
        | some q => q.live.foldl (fun s (x : RelaxRow) => s.contain (64 * (q.q + x.row / 64) + x.row % 64) 1) s) s
      let s := r.cores.foldl (fun s k => (s.onRelaxSys k fun y => { y with rxlive := 0 }).onRelax k fun q =>
        { q with rows := q.rows.map fun x => if x.st = 1 then { x with st := 3 } else x }) s
      s.finishRelax n r.cores
    else
      let s := s.onRelaxAll r.cores fun q =>
        { q with trap := some { cause := cNonconvergence, rank := 5
                                tval := BitVec.ofNat 64 (q.bundle + (if q.back then 2 ^ 40 else 0)) } }
      s.finishRelax n r.cores
  else if r.cores.any fun k => (s.coreOf k).preempt.any fun p => !p.kill then
    (s.onRelaxAll r.cores fun q => { q with pausing := true }).finishRelax n r.cores
  else
    let s := s.onRelaxAll r.cores fun q => { q with phase := 1 }
    (r.cores.foldl (fun s k => s.onCoreOf k Core.beginProduct) s).runParts n r.iterParts

/-- What an iteration gives one live row on all cores together. -/
structure RowDone where
  row : Nat
  x : List Nat
  y : List Nat
  outs : List FpOut
  rho : Nat
  slack : Bool
  hist : Nat
  gamma : List Nat
  fb : Bool
  /-- History rows to write: block number and values over the whole width. -/
  writes : List (Nat × List Nat)
  deriving DecidableEq, Repr

/-- The width-long row of a block kept in the tiles of the cores. -/
def State.wideRow (s : State) (runs : List RelaxRun) (cores : List Nat) (t : RelaxRun → Nat) (i : Nat) : List Nat :=
  (cores.zip runs).flatMap fun p => blockRow ((s.coreOf p.1).bankOf p.2.bank) p.2.nc (t p.2) i

/-- Ring entry `a`, the oldest first, of a row that holds `h` entries in iteration `k`: (k - h - 1 + a) mod m (07 R164). -/
def ringEntry (m k h a : Nat) : Nat := (k + a + (h + 1) * (m - 1)) % m

/-- Iteration `k` of one row. -/
def State.relaxRow (s : State) (runs : List RelaxRun) (r : RelaxRun) (k : Nat) (x0 : RelaxRow) : RowDone :=
  let md := matModes r.fmode
  let i := x0.row
  let wide (t : RelaxRun → Nat) : List Nat := s.wideRow runs r.cores t i
  let z := runs.flatMap fun q => ((q.rows.find? fun x => x.row = i).map RelaxRow.z).getD []
  let st := rowStep runs r { z := z, u := wide RelaxRun.tu, fd := if r.back then wide RelaxRun.td else [] }
  let x := st.x.map FpOut.bits
  let m := r.ahd
  let hblk (b : Nat) : List Nat := wide fun q => q.histBlock b
  let res := (x.zip z).map fun p => sub32 p.1 p.2
  let fresh := 0 < m && 2 ≤ k && x0.ran
  let e := if m = 0 then 0 else (k - 2) % m
  let newG := if fresh then (x.zip (hblk 0)).map fun p => sub32 p.1 p.2 else []
  let newR := if fresh then (res.zip (hblk 1)).map fun p => sub32 p.1 p.2 else []
  let h := if fresh then min (x0.hist + 1) m else x0.hist
  let entry (b : Nat) (new : List Nat) (a : Nat) : List Nat :=
    if fresh ∧ ringEntry m k h a = e then new else hblk (b + ringEntry m k h a)
  let mixed : Mixed := if m = 0 then { x := st.x } else
    let o := mixRow md r.ahl x res ((List.range h).map (entry 2 newG)) ((List.range h).map (entry (m + 2) newR))
    { o with x := (o.x.zip st.x).map fun p => p.1.with p.2 }
  let xs := mixed.x.map FpOut.bits
  let d := (xs.zip z).map fun p => sub32 p.1 p.2
  let rho := rowNorm r.nrm d
  let nz := rowNorm r.nrm xs
  { row := i, x := xs, y := st.y, outs := mixed.x, rho := rho, slack := passes r.atol r.rtol xs rho nz, hist := h
    gamma := mixed.gamma, fb := mixed.fb
    writes := if m = 0 then [] else
      [(0, x), (1, res)] ++ (if fresh then [(2 + e, newG), (m + 2 + e, newR)] else []) }

/-- The largest residual, NaN if any was, and the first row that gave it (07 R156, R165). -/
def worstRow (l : List RowDone) : Nat × Option RowDone :=
  match l.find? fun d => (v32 d.rho).isNan with
  | some d => (Fmt.fp32.defaultNan, some d)
  | none =>
    l.foldl (fun acc d => match acc.2 with
      | none => (d.rho, some d)
      | some _ => if acc.1 < d.rho then (d.rho, some d) else acc) (0, none)

/-- One core's part of a row-wide list. -/
def sliceOf (p n : Nat) (l : List Nat) : List Nat := (l.drop (p * n)).take n

/-- A core's row after an iteration. -/
def RelaxRow.after (x : RelaxRow) (p n k : Nat) (d : RowDone) (contained : Bool) : RelaxRow :=
  let outs := (d.outs.drop (p * n)).take n
  let hits (bit : Nat) (old : List Nat) : List Nat :=
    (old ++ (List.range n).filter fun j => bitAt (outs.getD j { bits := 0 }).flags bit).eraseDups
  { x with st := if contained then 4 else if d.slack then 2 else 1
           iter := k, rho := d.rho, fb := d.fb, hist := d.hist, ran := true
           z := sliceOf p n d.x, y := sliceOf p n d.y, nv := hits 0 x.nv, ov := hits 2 x.ov
           flags := x.flags ||| (flagsOf outs &&& (fNV + fOF + fSNAN)) }

/-- The enabled events of a row on core position `p`: exception bits, and a signalling NaN. -/
def RowDone.events (d : RowDone) (te p n : Nat) : Nat × Bool :=
  let outs := (d.outs.drop (p * n)).take n
  (flagsOf outs &&& te &&& 5, outs.any FpOut.snan)

/-- The trap of the rows' enabled events on core position `p` (07 R171). -/
def RelaxRun.eventTrap (q : RelaxRun) (done : List RowDone) (p : Nat) : Option TrapReq :=
  let evs := done.map fun d => d.events (modesOf q.fmode).te p (64 * q.nc)
  let ex := evs.foldl (fun a e => a ||| e.1) 0
  let tval := BitVec.ofNat 64 (q.bundle + ex * 2 ^ 40 + 2 * 2 ^ 45)
  if evs.any Prod.snd then some { cause := cSnan, tval := tval, rank := 5, fp := some 0 }
  else if ex ≠ 0 then some { cause := cFpException, tval := tval, rank := 5, fp := some 0 }
  else none

/-- An iteration ends: its values are formed and reported, its events and its row decisions taken
(07 R159, R161, R163-R165, R171). -/
def State.iterate (s : State) (n : Nat) (r : RelaxRun) : State :=
  let runs := s.runsOf r.cores
  let k := s.itcOf r n + 1
  let w := 64 * r.nc
  let done := r.live.map (s.relaxRow runs r k)
  let eventsOf (d : RowDone) : List (Nat × Bool) := runs.mapIdx fun p q => d.events (modesOf q.fmode).te p w
  let bad (d : RowDone) : Bool := (eventsOf d).any fun e => e.1 ≠ 0 || e.2
  let contain := r.rag && s.rcont
  let stop := !contain && done.any bad
  let isContained (d : RowDone) : Bool := contain && bad d
  -- the reports (07 R156)
  let (rsd, top) := worstRow done
  let gamma := (top.map RowDone.gamma).getD []
  let left := (done.filter fun d => !d.slack && !isContained d).length
  let ahc : SMap Word := SMap.tabulate 0 (List.range 8) fun a => BitVec.ofNat 64 (gamma.getD a 0)
  let s := r.cores.foldl (fun s c => (s.onRelaxSys c fun y =>
    { y with rsd := BitVec.ofNat 64 rsd, itc := BitVec.ofNat 64 (k % 65536), rxlive := BitVec.ofNat 64 left, ahc := ahc }).relaxRecord
      c .iteration r.passes 0) s
  if stop then
    let s := (List.range r.cores.length).foldl (fun s p => s.onRelax (r.cores.getD p 0) fun q =>
      { q with write := false, trap := q.eventTrap done p }) s
    s.finishRelax n r.cores
  else
    let s := done.foldl (fun s d =>
      if isContained d then
        let nan := (eventsOf d).any fun e => e.2 || bitAt e.1 0
        s.contain (64 * (r.q + d.row / 64) + d.row % 64) (if nan then 4 else 8)
      else s) s
    -- rows, and the history in the tiles
    let s := (List.range r.cores.length).foldl (fun s p =>
      let step (x : RelaxRow) : RelaxRow := match done.find? (fun d => d.row = x.row) with
        | some d => x.after p w k d (isContained d)
        | none => { x with ran := false }
      s.onCoreOf (r.cores.getD p 0) fun core => match core.relax with
        | none => core
        | some q =>
          let core := core.onBankOf q.bank fun b => done.foldl (fun b d =>
            d.writes.foldl (fun b h => b.setBlockRow q.nc (q.histBlock h.1) d.row (sliceOf p w h.2)) b) b
          { core with relax := some { q with phase := 0, rows := q.rows.map step } }) s
    let fits := ceilDiv left 64
    if left ≠ 0 ∧ k % 4 = 0 ∧ fits < r.passes then
      let s := s.onRelaxAll r.cores RelaxRun.pack
      (r.cores.foldl (fun s c => s.relaxRecord c .repack fits 0) s).runParts n [(.mat, 32)]
    else match (s.coreOf n).relax with
      | some r => s.decideRelax n r
      | none => s

/-- The trap of a W tile no relaxation takes (07 R155): the first tile's format, or a later one's. -/
def RelaxRun.tileTrap (r : RelaxRun) : Option TrapReq :=
  let bad (t : TileData) : Bool := t.elems.isEmpty || !([2, 4, 6].contains t.tag) || t.tag ≠ r.fmt
  (r.operands.filterMap Operand.tile).findSome? fun t => if bad t then some (handleTag r.mw t.tag) else none

/-- A relaxation that a checkpoint stopped is taken up again with the save area's rows as a continuation (07 R170, R174). -/
def State.takeUp (s : State) (n : Nat) (r : RelaxRun) : State :=
  let s := r.cores.foldl (fun s k => s.atCore k fun s =>
    let row (q : RelaxRun) (x : RelaxRow) : RelaxRow :=
      if x.st = 1 ∧ q.rag ∧ !s.rowLive (64 * (q.q + x.row / 64) + x.row % 64) then { x with st := 4 } else x
    s.onCore fun c => { c with relax := c.relax.map fun q =>
      { ({ q with rows := q.rows.map (row q) } : RelaxRun).pack with phase := 0, pausing := false, paused := false } }) s
  s.runParts n [(.mat, r.startTime)]

/-- RELAX_ITERATION (07 R159): a part of the relaxation has passed; when it was an iteration's last, the
iteration's effects take place, once every tile of W has come. -/
def execRelaxIteration (core : BitVec 8) (s : State) : Out :=
  let s := s.focus core.toNat
  let n := s.core.id
  match s.core.relax with
  | none => .next s
  | some r =>
    if r.paused then .next (s.takeUp n r)
    else
      let runs := s.runsOf r.cores
      match if r.phase = 1 then runs.findSome? RelaxRun.trap else none with
      | some t => .next (r.cores.foldl (fun s c => s.abandonRelax t c) s)
      | none =>
        match r.parts with
        | _ :: p :: rest => .next (s.runParts n (p :: rest))
        | _ =>
          if r.phase = 0 then .next (s.decideRelax n r)
          else if runs.any fun q => q.operands.any fun o => o.tile.isNone then .next (s.dueIn .mat 1 (relaxEvent n))
          else match runs.findSome? RelaxRun.tileTrap with
            | some t => .next (r.cores.foldl (fun s c => s.abandonRelax t c) s)
            | none => .next (s.iterate n r)

/-! ### Completion (07 R162, R166, R167, R171) -/

/-- Rows into the state tiles, with the derivatives of RELAX.SV, and what the elements counted (07 R166, R171). -/
def RelaxRun.putRows (r : RelaxRun) (kept : List RelaxRow) (b : Bank) : Bank :=
  let sum (f : RelaxRow → Nat) : Nat := (kept.map f).foldl (· + ·) 0
  let b := kept.foldl (fun (b : Bank) (x : RelaxRow) => b.setBlockRow r.nc r.tz x.row x.z) b
  let b := if r.sv then
      let b := kept.foldl (fun (b : Bank) (x : RelaxRow) =>
        if x.y.isEmpty then b else b.setBlockRow r.nc r.td x.row (x.y.map (actDeriv r.f))) b
      { b with ttag := r.derivs.foldl (fun m t => SMap.set 0 m t 1) b.ttag }
    else b
  b.commitFlags (kept.foldl (fun f (x : RelaxRow) => f ||| x.flags) 0)
    (sum fun x => x.nv.length - x.past.1) (sum fun x => x.ov.length - x.past.2)

/-- What a relaxation writes on the present core as it completes (07 R166, R167): rows that were not contained, the row
table, the ITERS fields. -/
def State.writeRelax (s : State) (r : RelaxRun) (itc : Nat) : State :=
  if !r.write then s else
  let slotOf (x : RelaxRow) : Nat := 64 * (r.q + x.row / 64) + x.row % 64
  let s := s.onCore fun c => c.onBankOf r.bank (r.putRows (r.rows.filter fun (x : RelaxRow) => x.st = 1 || x.st = 2))
  let s := if r.rte then s.onCore fun c => { c with spad := r.writeTable itc c.spad } else s
  match r.rag, s.bgrp with
  | true, some b => r.rows.foldl (fun (s : State) (x : RelaxRow) =>
      let it := min 65535 (if x.st = 2 then x.iter else itc)
      s.onGroup b fun g => g.write
        { slot := slotOf x, rqid := s.mapRqid (slotOf x), words := [(2, 65535 * 2 ^ 24, it * 2 ^ 24)] }) s
  | _, _ => s

/-- A relaxation commits on one core (07 R166); at a checkpoint it stays, to be taken up at the resume (07 R174). -/
def State.commitRelax (s : State) (n : Nat) : State :=
  s.atCore n fun s => match s.core.relax with
  | none => s
  | some r =>
    let itc := s.itcOf r n
    let r := { r with rows := r.rows.map fun (x : RelaxRow) => if x.st ≠ 3 ∧ s.rowGone r x.row then { x with st := 4 } else x }
    let s := s.writeRelax r itc
    if r.pausing then
      let counted (x : RelaxRow) : RelaxRow := if x.st = 1 ∨ x.st = 2 then { x with past := (x.nv.length, x.ov.length) } else x
      s.onCore fun c => { c with relax := some { r with rows := r.rows.map counted, paused := true, parts := [], phase := 0 } }
    else
      let s := s.onCore fun c => { (c.onBankOf r.bank fun b =>
        let b := { b with tiles := b.tiles - 1 }
        match r.trap with
        | none => b
        | some t =>
          if t.fp.isSome then b.raiseFp s.now 2 r.bundle (field t.tval.toNat 40 5) (t.cause = cSnan) r.seq 5
          else { b with pending := b.pending ++ [t.of r.seq 5] }) with relax := none }
      (s.relaxRecord n .done 0 0).completed n [3] r.path 5 n

/-- One cycle of the completion's writes on a core: the next tile's bank is free for it (07 R166). -/
def Core.writeOut (c : Core) : Core :=
  match c.relax with
  | none => c
  | some r => match r.out[r.wrote / 16]? with
    | none => c
    | some t => if c.rowClaims (t % 8) c.mat.cycles then c else { c with relax := some { r with wrote := r.wrote + 1 } }

/-- RELAX_COMPLETE (07 R166): a tile takes 16 cycles in which no row claims its bank's port; when all are written the
relaxation commits. -/
def execRelaxComplete (core : BitVec 8) (s : State) : Out :=
  let s := s.focus core.toNat
  match s.core.relax with
  | none => .next s
  | some r =>
    let more (s : State) : Bool := (s.runsOf r.cores).any fun q => decide (q.wrote < 16 * q.out.length)
    if more s then
      .next ((r.cores.foldl (fun s n => s.onCoreOf n Core.writeOut) s).dueIn .mat 1 (.relaxComplete core))
    else .next (r.cores.foldl State.commitRelax s)

end Sys2Proof.Machine
end

