-- ==== Sys2Proof/Machine/Sha.lean ====
section
/-!
DEFINITION. SHA-256 (FIPS 180-4; PRESUMED, log 14: the spec names the function and does not define it), which
SIG (05 R111) and the attestation (20 R319) take.
-/
namespace Sys2Proof.Machine

/-- The initial hash value. -/
def shaInit : List Lane := [0x6A09E667, 0xBB67AE85, 0x3C6EF372, 0xA54FF53A, 0x510E527F, 0x9B05688C, 0x1F83D9AB, 0x5BE0CD19]

/-- The round constants. -/
def shaK : List Lane :=
  [0x428A2F98, 0x71374491, 0xB5C0FBCF, 0xE9B5DBA5, 0x3956C25B, 0x59F111F1, 0x923F82A4, 0xAB1C5ED5] ++
  [0xD807AA98, 0x12835B01, 0x243185BE, 0x550C7DC3, 0x72BE5D74, 0x80DEB1FE, 0x9BDC06A7, 0xC19BF174] ++
  [0xE49B69C1, 0xEFBE4786, 0x0FC19DC6, 0x240CA1CC, 0x2DE92C6F, 0x4A7484AA, 0x5CB0A9DC, 0x76F988DA] ++
  [0x983E5152, 0xA831C66D, 0xB00327C8, 0xBF597FC7, 0xC6E00BF3, 0xD5A79147, 0x06CA6351, 0x14292967] ++
  [0x27B70A85, 0x2E1B2138, 0x4D2C6DFC, 0x53380D13, 0x650A7354, 0x766A0ABB, 0x81C2C92E, 0x92722C85] ++
  [0xA2BFE8A1, 0xA81A664B, 0xC24B8B70, 0xC76C51A3, 0xD192E819, 0xD6990624, 0xF40E3585, 0x106AA070] ++
  [0x19A4C116, 0x1E376C08, 0x2748774C, 0x34B0BCB5, 0x391C0CB3, 0x4ED8AA4A, 0x5B9CCA4F, 0x682E6FF3] ++
  [0x748F82EE, 0x78A5636F, 0x84C87814, 0x8CC70208, 0x90BEFFFA, 0xA4506CEB, 0xBEF9A3F7, 0xC67178F2]

/-- Bytes of a number, the least significant first. -/
def bytesLe (x : Nat) : Nat → List Nat
  | 0 => []
  | k + 1 => x % 256 :: bytesLe (x / 256) k

/-- Bytes of a number, the most significant first. -/
def bytesBe (x k : Nat) : List Nat := (bytesLe x k).reverse

/-- A number from bytes, the least significant first. -/
def ofBytesLe : List Nat → Nat
  | [] => 0
  | b :: r => b + 256 * ofBytesLe r

/-- A number from bytes, the most significant first. -/
def ofBytesBe (l : List Nat) : Nat := ofBytesLe l.reverse

/-- The padded message. -/
def shaPad (l : List Nat) : List Nat :=
  l ++ [128] ++ List.replicate ((119 - l.length % 64) % 64) 0 ++ bytesBe (8 * l.length) 8

/-- The words of one block, its schedule growing by `k` words; the newest word first. -/
def shaSchedule : Nat → List Lane → List Lane
  | 0, w => w
  | k + 1, w =>
    let x := w.getD 14 0
    let y := w.getD 1 0
    let s0 := x.rotateRight 7 ^^^ x.rotateRight 18 ^^^ (x >>> 3)
    let s1 := y.rotateRight 17 ^^^ y.rotateRight 19 ^^^ (y >>> 10)
    shaSchedule k ((w.getD 15 0 + s0 + w.getD 6 0 + s1) :: w)

/-- One round on the working variables a to h. -/
def shaRound (v : List Lane) (kw : Lane × Lane) : List Lane :=
  match v with
  | [a, b, c, d, e, f, g, h] =>
    let s1 := e.rotateRight 6 ^^^ e.rotateRight 11 ^^^ e.rotateRight 25
    let ch := (e &&& f) ^^^ (~~~e &&& g)
    let t1 := h + s1 + ch + kw.1 + kw.2
    let s0 := a.rotateRight 2 ^^^ a.rotateRight 13 ^^^ a.rotateRight 22
    let maj := (a &&& b) ^^^ (a &&& c) ^^^ (b &&& c)
    [t1 + s0 + maj, a, b, c, d + t1, e, f, g]
  | x => x

/-- One block of 64 bytes. -/
def shaBlock (h : List Lane) (blk : List Nat) : List Lane :=
  let w0 := (List.range 16).map fun i => BitVec.ofNat 32 (ofBytesBe ((blk.drop (4 * i)).take 4))
  let w := (shaSchedule 48 w0.reverse).reverse
  let v := (shaK.zip w).foldl shaRound h
  (h.zip v).map fun p => p.1 + p.2

/-- All blocks, at most `k` of them. -/
def shaBlocks : Nat → List Lane → List Nat → List Lane
  | 0, h, _ => h
  | k + 1, h, l => if l.isEmpty then h else shaBlocks k (shaBlock h (l.take 64)) (l.drop 64)

/-- SHA-256 of a list of bytes: the digest's 32 bytes. -/
def sha256 (l : List Nat) : List Nat :=
  let p := shaPad l
  (shaBlocks (p.length / 64) shaInit p).flatMap fun w => bytesBe w.toNat 4

end Sys2Proof.Machine
end

