-- ==== Sys2Proof/Machine/SysRegs.lean ====
section
/-!
DEFINITION. The system registers (06 R145): their access, what a read returns and does, what a write does
(22 R356, R361, 24 R395).
-/
namespace Sys2Proof.Machine

/-! ### Access (06 R145) -/

/-- Access from user and from supervisor mode: 0 none, 1 readable, 2 readable and writable; none for a reserved
number. -/
def srAccess (n : Nat) : Option (Nat × Nat) :=
  if n = 0x010 ∨ n = 0x011 ∨ n = 0x013 ∨ n = 0x014 then some (2, 2)
  else if n = 0x012 then some (1, 1)
  else if n = 0x100 ∨ n = 0x101 then some (1, 1)
  else if 0x102 ≤ n ∧ n ≤ 0x107 then some (2, 2)
  else if 0x108 ≤ n ∧ n ≤ 0x110 then some (1, 1)
  else if n = 0x111 ∨ n = 0x112 then some (2, 2)
  else if 0x200 ≤ n ∧ n ≤ 0x20B then some (1, 1)
  else if n = 0x210 then some (1, 1)
  else if n = 0x211 then some (1, 2)
  else if n = 0x300 ∨ n = 0x301 then some (1, 1)
  else if n = 0x302 ∨ n = 0x303 then some (1, 2)
  else if n = 0x400 ∨ n = 0x401 then some (1, 2)
  else if 0x402 ≤ n ∧ n ≤ 0x405 then some (1, 1)
  else if 0x500 ≤ n ∧ n ≤ 0x503 then some (0, 2)
  else if n = 0x504 then some (0, 1)
  else if n = 0x505 then some (0, 2)
  else if n = 0x510 then some (1, 1)
  else if 0x511 ≤ n ∧ n ≤ 0x515 then some (1, 2)
  else if 0x600 ≤ n ∧ n ≤ 0x604 then some (1, 1)
  else if n = 0x605 ∨ n = 0x606 then some (1, 2)
  else if n = 0x700 ∨ n = 0x701 then some (2, 2)
  else if n = 0x702 then some (1, 1)
  else none

/-! ### Live registers -/

/-- Period of the weight store's refresh windows in a band, 0 for none (04 R90). -/
def windowPeriod (band : Nat) : Nat := if band = 0 then 0 else if band = 1 then 160000 else 40000

/-- The first counter value above `x - 1` at which a window of die `d` starts (04 R90). -/
def nextWindow (p d x : Nat) : Nat := x + (p - (x + p - d * p / 4 % p) % p) % p

/-- WSWIN as a core of die `d` reads it (04 R91).  With no windows (PER 0, ACT 0) NEXT reads 0: the spec gives it no value
then (DESIGN CHOICE, log 50). -/
def State.wswin (s : State) (d : Nat) : Nat :=
  let x := s.counter d
  let p := windowPeriod s.cryo.rband
  let per : Nat := if p = 0 then 0 else if p = 160000 then 1 else 2
  let ends := SMap.get 0 s.windows d
  if s.now < ends then 2 ^ 63 + per * 2 ^ 60 + (x + (ends - s.now) - 2500) % 2 ^ 48
  else per * 2 ^ 60 + (if p = 0 then 0 else nextWindow p d x % 2 ^ 48)

/-- The warmest reading, and the lowest zone that has it (19 R301). -/
def Cryo.warmest (c : Cryo) : Nat × Nat :=
  let top := c.temps.foldl max 0
  (top, (c.temps.findIdx? (· = top)).getD 0)

/-- TBAND (19 R301). -/
def Cryo.tband (c : Cryo) : Nat :=
  c.band + c.warmest.2 * 2 ^ 4 + c.warmest.1 % 65536 * 2 ^ 16 + c.chg % 65536 * 2 ^ 32

/-- CRYOST (19 R299): STATE reads WARM in warm mode. -/
def Cryo.cryost (c : Cryo) : Nat :=
  (if c.wm then 0 else c.state) + c.prev * 2 ^ 4 + (if c.state = 8 then c.hreas else 0) * 2 ^ 8 + (if c.wm then 2 ^ 12 else 0)
    + (List.range 4).foldl (fun a z => a + c.valves.getD z 0 * 2 ^ (16 + 8 * z)) 0

/-- CLKD (19 R308). -/
def Core.clkd (c : Core) : Nat :=
  c.divs.1 + c.divs.2.1 * 2 ^ 4 + c.divs.2.2.1 * 2 ^ 8 + c.divs.2.2.2 * 2 ^ 12 + c.stretch * 2 ^ 16 + (if c.fl then 2 ^ 20 else 0)

/-- CTXB (15 R257). -/
def Core.ctxb (c : Core) : Nat :=
  let other : Nat := match c.other.use with
    | .empty => 0
    | .preloaded => 1
    | .supervisor => 2
    | .task => 3
  c.bank.id + (if c.bank.use = .supervisor then 2 else 0) + 4 * other

/-- WPTRn (04 R94). -/
def Channel.wptr (c : Channel) : Nat :=
  match c.queue.head? with
  | some t => t.written % 2 ^ 32 + t.id % 2 ^ 32 * 2 ^ 32
  | none => c.next.toNat % 2 ^ 32 * 2 ^ 32

/-- The value of a system register as MFS reads it (22 R356): reserved fields read 0. -/
def State.readSr (s : State) (n : Nat) : Word :=
  let r := s.core.bank.sys
  let w (x : Nat) : Word := BitVec.ofNat 64 x
  if n = 0x010 then r.fmode
  else if n = 0x011 then r.fflags
  else if n = 0x012 then r.sig
  else if n = 0x013 then r.mxnv
  else if n = 0x014 then r.mxof
  else if n = 0x100 then r.rsd
  else if n = 0x101 then r.itc
  else if n = 0x102 then r.itl
  else if n = 0x103 then r.atol
  else if n = 0x104 then r.rtol
  else if n = 0x105 then r.beta
  else if n = 0x106 then r.ahd
  else if n = 0x107 then r.ahl
  else if 0x108 ≤ n ∧ n ≤ 0x10F then SMap.get 0 r.ahc (n - 0x108)
  else if n = 0x110 then r.rxlive
  else if n = 0x111 then r.rxpol
  else if n = 0x112 then r.rxnrm
  else if 0x200 ≤ n ∧ n ≤ 0x203 then (s.core.chan (n - 0x200)).mark
  else if 0x204 ≤ n ∧ n ≤ 0x207 then w (s.core.chan (n - 0x204)).wptr
  else if 0x208 ≤ n ∧ n ≤ 0x20B then (s.core.chan (n - 0x208)).next
  else if n = 0x210 then w (s.wswin (dieOf s.core.id))
  else if n = 0x211 then if SMap.get false s.wen (dieOf s.core.id) then 1 else 0
  else if n = 0x300 then s.core.sllen
  else if n = 0x301 then s.core.slhop
  else if n = 0x302 then r.slbase
  else if n = 0x303 then r.slctl
  else if n = 0x400 then w (r.limit + s.core.elim * 2 ^ 16)
  else if n = 0x401 then s.core.frzc
  else if n = 0x402 then w s.core.clkd
  else if n = 0x403 then w s.cryo.tband
  else if n = 0x404 then w s.cryo.floor
  else if n = 0x405 then w s.cryo.cryost
  else if n = 0x500 then r.tcause
  else if n = 0x501 then r.tpc
  else if n = 0x502 then r.tval
  else if n = 0x503 then r.tvec
  else if n = 0x504 then r.frec
  else if n = 0x505 then r.retryh
  else if n = 0x510 then w s.core.ctxb
  else if n = 0x511 then r.missc
  else if n = 0x512 then r.prew
  else if n = 0x513 then r.killt
  else if n = 0x514 then r.ttbase
  else if n = 0x600 then r.wid
  else if n = 0x601 then r.lseed
  else if n = 0x602 then r.taskix
  else if n = 0x603 then r.bgrp
  else if n = 0x604 then r.rqcur
  else if n = 0x605 then s.rqbaseSeen
  else if n = 0x606 then s.ptbase
  else if n = 0x700 then r.svoc
  else if n = 0x701 then r.sctrim
  else if n = 0x702 then r.sstat
  else 0

/-! ### What a read does (04 R94, 10 R211, 12 R235, 17 R284, 19 R308) -/

/-- The acquire of a TIDEMARK read: the transfer reported is the last one below the mark. -/
def State.tidemarkRead (s : State) (n : Nat) : State :=
  match (s.core.chan n).past.head? with
  | some (_, t, p) => s.adoptPoll 6 t p 1 (s.core.id * 4 + n)
  | none => s

/-- The acquire of a WPTR read: the transfer reported is the oldest incomplete one. -/
def State.wptrRead (s : State) (n : Nat) : State :=
  match (s.core.chan n).queue.head? with
  | some t => if 0 < t.written then s.adoptPoll 6 s.now t.path 1 (s.core.id * 4 + n) else s
  | none => s

/-- A read of SSTAT clears its fields. -/
def State.sstatRead (s : State) : State := s.onSys fun r => { r with sstat := 0 }

/-- A read of CLKD clears FL. -/
def State.clkdRead (s : State) : State := s.onCore fun c => { c with fl := false }

/-- What reading a register does beside returning its value.  The acquire of SLCTL (12 R240) needs nothing here:
the walk's entries stand in memory before BUSY clears. -/
def State.readEffect (s : State) (n : Nat) : State :=
  if 0x200 ≤ n ∧ n ≤ 0x203 then s.tidemarkRead (n - 0x200)
  else if 0x204 ≤ n ∧ n ≤ 0x207 then s.wptrRead (n - 0x204)
  else if n = 0x402 then s.clkdRead
  else if n = 0x702 then s.sstatRead
  else s

/-! ### SIG (05 R111) -/

/-- `k` bytes of a memory from an address. -/
def Memory.bytes (m : Memory) (a k : Nat) : List Nat := (List.range k).map fun i => (m.byte (a + i)).toNat

/-- SIG of a bank's FMODE under the executing task. -/
def State.sigValue (s : State) (b : Bank) : Word :=
  let t := s.core.task.getD {}
  let msg := bytesLe b.sys.fmode.toNat 8 ++ sha256 (s.hbm.bytes t.image t.imlen) ++ bytesLe b.sys.lseed.toNat 8 ++
    (List.range 6).map fun i => t.fw.getD i 0
  BitVec.ofNat 64 (ofBytesLe ((sha256 msg).take 8))

/-- The digest is begun anew: SIG is not ready until SIG_READY, at most 256 cycles on. -/
def State.sigBegin (s : State) : State :=
  (s.onBank fun b => { b with sigBusy := true }).upTo 256
    (.sigReady (BitVec.ofNat 8 s.core.id) (BitVec.ofNat 1 s.core.bank.id))

/-- SIG_READY (05 R111): the digest is ready, unless a later change of FMODE has begun another. -/
def execSigReady (core : BitVec 8) (bank : BitVec 1) (s : State) : Out :=
  let s := s.focus core.toNat
  let i := bank.toNat
  if s.calendar.any fun e => e.event = .sigReady core bank then .next s
  else
    let b := s.core.bankOf i
    .next (s.onCore fun c => c.onBankOf i fun b' => { b' with sigBusy := false, sys := { b'.sys with sig := s.sigValue b } })

/-! ### What a write does (22 R361) -/

/-- A write that would place a reserved value in a defined field (00 R7). -/
def srReserved (n : Nat) (x : Word) : Bool :=
  let v := x.toNat
  let f32 := v % 2 ^ 32
  if n = 0x010 then !(4 ≤ field v 16 4 && field v 16 4 ≤ 9)
  else if n = 0x102 then v % 65536 == 0
  else if n = 0x103 ∨ n = 0x104 ∨ n = 0x107 then 0x7F800000 ≤ f32
  else if n = 0x105 then !(1 ≤ f32 && f32 ≤ 0x3F800000)
  else if n = 0x106 then 8 < v % 16
  else if n = 0x503 then v % 4 != 0
  else if n = 0x700 then f32 == 0
  else if n = 0x701 then bitAt v 0 && !(1 ≤ field v 2 4 && field v 2 4 ≤ 12)
  else false

/-- The bits of a mask taken from the new value, the others kept. -/
def under (old x mask : Word) : Word := (old &&& ~~~mask) ||| (x &&& mask)

/-- A write of FMODE (05 R109-R111). -/
def State.writeFmode (s : State) (x : Word) : State :=
  (s.onSys fun r => { r with fmode := under r.fmode x 0x1F0FFF#64 }).sigBegin

/-- A write of WSCTL (04 R89): the change is requested, and the writing core's next bundle waits for it. -/
def State.writeWsctl (s : State) (x : Word) : State :=
  let d := dieOf s.core.id
  { s with wenNext := s.wenNext ++ [({ die := d, core := s.core.id, wen := bitAt x.toNat 0, at' := s.now } : WenWrite)] }.schedule 1 (.wenChange (BitVec.ofNat 2 d))

/-- A write of RQBASE (03 R51): BASE is discarded while EN is 1; the other cores see it within 64 reference cycles. -/
def State.writeRqbase (s : State) (x : Word) : State :=
  { s with rqbase := under s.rqbase x (if bitAt s.rqbase.toNat 0 then 1#64 else 0xFFFC000001#64)
           rqOld := some (s.rqbase, s.core.id, s.now + (64 - s.lates.headD 0 % 64)), lates := s.lates.tail }

/-- A write of PTBASE (20 R322): the cached port-table entries go. -/
def State.writePtbase (s : State) (x : Word) : State :=
  { s with ptbase := under s.ptbase x 0xFFFFFFF001#64, ports := [] }

/-- A write of SCINV (04 R82): cached descriptors and span entries of an id, or all, are invalidated in both
banks' ports; pinned entries stay; the next bundle waits until it is done. -/
def State.writeScinv (s : State) (all : Bool) (tid : Nat) : State :=
  let keep (t : Nat) : Bool := !all && t != tid
  let clear (b : Bank) : Bank :=
    { b with descs := b.descs.filter fun e => keep e.1, spans := b.spans.filter fun e => keep e.tid }
  (s.onCore fun c => { c with bank := clear c.bank, other := clear c.other, scinv := true }).upTo 64
    (.scinvComplete (BitVec.ofNat 8 s.core.id))

/-- A system register written under the access rules (22 R361). -/
def State.writeSr (s : State) (n : Nat) (x : Word) : State :=
  let sys (f : SysRegs → SysRegs) : State := s.onSys f
  let low (k : Nat) : Word := BitVec.ofNat 64 (x.toNat % 2 ^ k)
  if n = 0x010 then s.writeFmode x
  else if n = 0x011 then sys fun r => { r with fflags := low 6 }
  else if n = 0x013 then sys fun r => { r with mxnv := x }
  else if n = 0x014 then sys fun r => { r with mxof := x }
  else if n = 0x102 then sys fun r => { r with itl := low 16 }
  else if n = 0x103 then sys fun r => { r with atol := low 32 }
  else if n = 0x104 then sys fun r => { r with rtol := low 32 }
  else if n = 0x105 then sys fun r => { r with beta := low 32 }
  else if n = 0x106 then sys fun r => { r with ahd := low 4 }
  else if n = 0x107 then sys fun r => { r with ahl := low 32 }
  else if n = 0x111 then sys fun r => { r with rxpol := low 1 }
  else if n = 0x112 then sys fun r => { r with rxnrm := low 1 }
  else if n = 0x211 then s.writeWsctl x
  else if n = 0x302 then sys fun r => { r with slbase := x &&& 0xFFFFFFFFC0#64 }
  else if n = 0x303 then sys fun r =>
    let y := under r.slctl x 0xF1#64
    { r with slctl := if bitAt x.toNat 1 then y &&& ~~~2#64 else y }
  else if n = 0x400 then sys fun r => { r with limit := x.toNat % 4096 }
  else if n = 0x401 then s.onCore fun c => { c with frzc := x }
  else if n = 0x500 then sys fun r => { r with tcause := x &&& 0x380FF#64 }
  else if n = 0x501 then sys fun r => { r with tpc := x &&& 0x800000FFFFFFFFFF#64 }
  else if n = 0x502 then sys fun r => { r with tval := x }
  else if n = 0x503 then sys fun r => { r with tvec := low 40 }
  else if n = 0x505 then sys fun r => { r with retryh := under r.retryh x 0xFFFC00007F#64 }
  else if n = 0x511 then sys fun r => { r with missc := x }
  else if n = 0x512 then sys fun r => { r with prew := low 32 }
  else if n = 0x513 then sys fun r => { r with killt := low 8 }
  else if n = 0x514 then sys fun r => { r with ttbase := x &&& 0xFFFFF0FFFFFFFFC0#64 }
  else if n = 0x515 then s.writeScinv (bitAt x.toNat 32) (x.toNat % 2 ^ 32)
  else if n = 0x605 then s.writeRqbase x
  else if n = 0x606 then s.writePtbase x
  else if n = 0x700 then sys fun r => { r with svoc := low 32 }
  else if n = 0x701 then sys fun r => { r with sctrim := x &&& 0x3FFFFFFD#64 }
  else s

/-! ### The instructions -/

/-- SIG not ready freezes its reader (05 R111). -/
def State.sigWait (s : State) (n : Nat) : Chk Unit :=
  if n = 0x012 ∧ s.core.bank.sigBusy then .error (.hold 15 false none) else .ok ()

/-- Access codes of a register in the present mode, or ILLEGAL_INSN. -/
def State.srMode (s : State) (n : Nat) : Chk Nat :=
  match srAccess n with
  | some (u, p) => .ok (if s.sup then p else u)
  | none => .error (.trap s.illegal)

/-- A reserved value in an MTS or SWAPS (00 R7): ILLEGAL_INSN at issue. -/
def State.srValue (s : State) (n acc : Nat) (x : Word) : Chk Unit :=
  need (!(acc = 2 && srReserved n x)) { s.illegal with cls := 6 }

/-- MFS (22 R356). -/
def execMfs (d : GReg) (sr : BitVec 12) (s : State) : Out :=
  finish s do
    let n := sr.toNat
    let a ← s.srMode n
    need (1 ≤ a) s.privilege
    s.sigWait n
    return (s.writeG d (s.readSr n) 2).readEffect n

/-- MTS (22 R361). -/
def execMts (a : GReg) (sr : BitVec 12) (s : State) : Out :=
  finish s do
    let n := sr.toNat
    let m ← s.srMode n
    need (s.sup || m = 2) s.privilege
    s.srValue n m (s.g a)
    return if m = 2 then s.writeSr n (s.g a) else s

/-- SWAPS (24 R395). -/
def execSwaps (d : GReg) (sr : BitVec 12) (s : State) : Out :=
  finish s do
    let n := sr.toNat
    let m ← s.srMode n
    need (s.sup || m = 2) s.privilege
    s.srValue n m (s.g d)
    s.sigWait n
    let x := s.g d
    let s := (s.writeG d (s.readSr n) 2).readEffect n
    return if m = 2 then s.writeSr n x else s

/-! ### The same effects, and their completions, as events -/

/-- FMODE_WRITE (05 R110, R111). -/
def execFmodeWrite (core : BitVec 8) (x : BitVec 64) (s : State) : Out := .next ((s.focus core.toNat).writeFmode x)

/-- WSCTL_WRITE (04 R89). -/
def execWsctlWrite (core : BitVec 8) (x : BitVec 64) (s : State) : Out := .next ((s.focus core.toNat).writeWsctl x)

/-- Accesses of a core that a change of WEN waits for (04 R89): copies into or out of the weight store, operand fetches
from it, the weights a relaxation streams from it. -/
def Core.usesStore (c : Core) : Bool :=
  (c.chans.any fun ch => ch.2.queue.any fun t => t.src.desc.loc = 3 || t.dst.desc.loc = 3) ||
  ((c.matOps.flatMap MatOp.operands ++ (c.relax.map RelaxRun.operands).getD []).any fun o =>
    o.tile.isNone && o.desc.any fun d => d.1.loc = 3) ||
  (c.unread.any fun b => match b.1.space with
    | .wstore _ => true
    | _ => false) || c.relax.any RelaxRun.stream

/-- Those of a die that have not completed. -/
def State.wsCopies (s : State) (die : Nat) : Bool := s.cores.any fun c => dieOf c.id = die && c.usesStore

/-- WEN_CHANGE (04 R89): the change takes effect once the accesses before it have completed; of two writers the later's
value stands, in one reference cycle the higher core's. -/
def execWenChange (die : BitVec 2) (s : State) : Out :=
  let d := die.toNat
  let mine := s.wenNext.filter fun w => w.die = d
  if mine.isEmpty then .next s
  else if s.wsCopies d then .next (s.schedule 1 (.wenChange die))
  else
    let last := (sortBy (fun w : WenWrite => 256 * w.at' + w.core) mine).getLast?
    .next { s with wenNext := s.wenNext.filter fun w => w.die ≠ d
                   wen := match last with
                     | some w => SMap.set false s.wen d w.wen
                     | none => s.wen }

/-- RQBASE_WRITE (03 R51). -/
def execRqbaseWrite (x : BitVec 64) (s : State) : Out := .next (s.writeRqbase x)

/-- PTBASE_WRITE (20 R322). -/
def execPtbaseWrite (x : BitVec 64) (s : State) : Out := .next (s.writePtbase x)

/-- SCINV_ALL (04 R82). -/
def execScinvAll (core : BitVec 8) (s : State) : Out := .next ((s.focus core.toNat).writeScinv true 0)

/-- SCINV_TID (04 R82). -/
def execScinvTid (core : BitVec 8) (tid : BitVec 32) (s : State) : Out :=
  .next ((s.focus core.toNat).writeScinv false tid.toNat)

/-- SCINV_COMPLETE (04 R82): the bundle after the MTS may issue, once no later invalidation is under way. -/
def execScinvComplete (core : BitVec 8) (s : State) : Out :=
  if s.calendar.any fun e => e.event = .scinvComplete core then .next s
  else .next (s.onCoreOf core.toNat fun c => { c with scinv := false })

/-- TIDEMARK_READ (10 R211). -/
def execTidemarkRead (core : BitVec 8) (chan : BitVec 2) (s : State) : Out :=
  .next ((s.focus core.toNat).tidemarkRead chan.toNat)

/-- WPTR_READ (10 R211). -/
def execWptrRead (core : BitVec 8) (chan : BitVec 2) (s : State) : Out :=
  .next ((s.focus core.toNat).wptrRead chan.toNat)

/-- SLCTL_READ (12 R240): the acquire of the walk's entries, which stand in memory before BUSY clears. -/
def execSlctlRead (core : BitVec 8) (s : State) : Out := .next ((s.focus core.toNat).readEffect 0x303)

/-- SSTAT_READ (17 R284). -/
def execSstatRead (core : BitVec 8) (s : State) : Out := .next (s.focus core.toNat).sstatRead

/-- CLKD_READ (19 R308). -/
def execClkdRead (core : BitVec 8) (s : State) : Out := .next (s.focus core.toNat).clkdRead

end Sys2Proof.Machine
end

