-- ==== Sys2Proof/Machine/Sampler.lean ====
section
/-!
DEFINITION. The S slot: the candidate register file, draws, stop strings and accepted runs (17 R282-R297,
24 R379-R394).
-/
namespace Sys2Proof.Machine

/-! ### Naming a request (17 R282, R283) -/

/-- A record selected for an S-slot instruction: its group, slot and expected RQID, and the occupant where it
matches. -/
structure Named where
  grp : Nat
  slot : Nat
  rqid : Nat
  seat : Option Seat
  deriving DecidableEq, Repr

/-- The record of a slot and RQID. -/
def State.named (s : State) (b slot rqid : Nat) : Named :=
  { grp := b, slot := slot, rqid := rqid
    seat := match (s.group b).seat slot with
      | some r => if r.rqid = rqid then some r else none
      | none => none }

/-- A selector in a g register, with the checks of 17 R282. -/
def State.selector (s : State) (x : Nat) : Chk Named := do
  let b ← s.needGroup
  let slot := x % 256
  let g := s.group b
  need (slot < g.nslot || (g.seat slot).isSome) (requestFault 2)
  need (field x 8 24 == 0) (requestFault 4)
  return s.named b slot (x / 2 ^ 32)

/-- The matching record, unless it holds a breakwater code. -/
def Named.usable (n : Named) : Option Seat :=
  match n.seat with
  | some r => if isBreakwater r.fcode then none else some r
  | none => none

/-- RQCUR reports the record addressed (17 R283). -/
def State.setRqcur (s : State) (n : Named) : State :=
  let mt := n.seat.isSome
  let bw := match n.seat with
    | some r => isBreakwater r.fcode
    | none => false
  let v := n.slot + (if mt then 2 ^ 8 else 0) + (if bw then 2 ^ 9 else 0) + n.rqid * 2 ^ 32
  s.onSys fun r => { r with rqcur := BitVec.ofNat 64 v }

/-- A write to a selected record (17 R295, 03 R70). -/
def State.writeRecord (s : State) (n : Named) (words : List (Nat × Nat × Nat)) : State :=
  s.onGroup n.grp fun g => g.write { slot := n.slot, rqid := n.rqid, words := words }

/-- A field of a word as a masked write. -/
def fieldWrite (w lo n v : Nat) : Nat × Nat × Nat := (w, (2 ^ n - 1) * 2 ^ lo, v % 2 ^ n * 2 ^ lo)

/-! ### The candidate register file (17 R286-R289) -/

/-- A CRF row of the executing bank. -/
def State.crf (s : State) (k : Nat) : CrfRow := SMap.get {} s.core.bank.crf k
/-- A CRF row changed. -/
def State.setCrf (s : State) (k : Nat) (r : CrfRow) : State :=
  s.onBank fun b => { b with crf := SMap.set {} b.crf k r }

/-- Values that are no NaN compare (−0 equal to +0). -/
def before (x y : Nat × Nat) : Bool :=
  match cmpNum (v32 x.1) (v32 y.1) with
  | .gt => true
  | .lt => false
  | .eq => x.2 < y.2

/-- An entry put into a ranked list, behind those it does not outrank. -/
def rankInsert (x : Nat × Nat) : List (Nat × Nat) → List (Nat × Nat)
  | [] => [x]
  | y :: r => if before x y then x :: y :: r else y :: rankInsert x r

/-- A bound row is masked by its slot's liveness (17 R286). -/
def State.rowMasked (s : State) (r : CrfRow) : Bool :=
  match r.bound with
  | some (slot, _) => !s.rowLive slot
  | none => false

/-- SRESET (24 R393). -/
def execSreset (k : BitVec 4) (a : GReg) (s : State) : Out :=
  finish s do
    let x := (s.g a).toNat
    need (field x 9 23 == 0) (violation 10)
    if bitAt x 8 then return s.setCrf k.toNat {}
    else
      let _ ← s.needGroup
      return s.setCrf k.toNat { bound := some (x % 256, x / 2 ^ 32) }

/-- The lanes of a register that take part: lane and value, those below SVOC.V and no NaN (17 R284, R289). -/
def State.admissible (s : State) (v base : Nat) : List (Nat × Nat) :=
  let voc := s.core.bank.sys.svoc.toNat
  (List.range 64).filterMap fun j =>
    let x := ((s.v v).at j).toNat
    if base + j < voc && !(v32 x).isNan then some (j, x) else none

/-- Some lane of a register is a NaN. -/
def State.hasNan (s : State) (v : Nat) : Bool := (List.range 64).any fun j => (v32 ((s.v v).at j).toNat).isNan

/-- SMERGE (17 R287, 24 R388). -/
def execSmerge (k : BitVec 4) (a : GReg) (v : VReg) (s : State) : Out :=
  finish s do
    s.tagIn v [1]
    let x := (s.g a).toNat
    need (x / 2 ^ 32 == 0) (violation 10)
    let r := s.crf k.toNat
    if s.rowMasked r then return s
    else
      let all := (s.admissible v x).foldl (fun l e => rankInsert (e.2, x + e.1) l) r.entries
      let s' := s.setCrf k.toNat { r with entries := all.take 64 }
      return if s.hasNan v then s'.onSys fun y => { y with sstat := y.sstat ||| 1 } else s'

/-- E(d) of 17 R288. -/
def expW (d : Nat) : Nat := sfn32 .exp2 (mul32 d kLog2e)

/-- maximumNumber of two FP32 values. -/
def max32 (x y : Nat) : Nat := (Fmt.fp32.maxmin plain true x y).bits

/-- −∞ and +∞ in FP32. -/
def negInf32 : Nat := 0xFF800000
def posInf32 : Nat := 0x7F800000

/-- The softmax pair with lanes folded in (17 R288). -/
def softFold (m sm : Nat) (xs : List Nat) : Nat × Nat :=
  let mv := match pairwise max32 6 xs with
    | y :: _ => y
    | [] => negInf32
  let mn := max32 m mv
  if mn = negInf32 then (m, sm)
  else if mn = posInf32 then (posInf32, Fmt.fp32.defaultNan)
  else (mn, add32 (mul32 sm (expW (sub32 m mn))) (pairSum32 (xs.map fun x => expW (sub32 x mn))))

/-- SSOFT (17 R288, 24 R394). -/
def execSsoft (k : BitVec 4) (v : VReg) (s : State) : Out :=
  finish s do
    s.tagIn v [1]
    let r := s.crf k.toNat
    if s.rowMasked r then return s
    else
      let (m, sm) := softFold r.m r.sum ((s.admissible v 0).map Prod.snd)
      return s.setCrf k.toNat { r with m := m, sum := sm }

/-! ### Drawing (17 R292, 24 R382) -/

/-- A value not below another, neither a NaN. -/
def ge32 (x y : Nat) : Bool := !(v32 x).isNan && !(v32 y).isNan && cmpNum (v32 x) (v32 y) ≠ .lt

/-- Running sums. -/
def runSums : List Nat → List Nat
  | [] => []
  | w :: r => w :: go w r
where
  go (c : Nat) : List Nat → List Nat
    | [] => []
    | w :: r => add32 c w :: go (add32 c w) r

/-- The draw from ranked entries: the entry's position and gd[63:32] (17 R292). -/
def drawFrom (es : List (Nat × Nat)) (temp topp : Nat) (seed : Word) (n : Nat) : Nat × Nat :=
  let v0 := (es.getD 0 (0, 0)).1
  if !(gt32 temp 0 && (v32 temp).isFinite) ∨ v0 = posInf32 then (0, kOne)
  else
    let ws := es.map fun e => if v0 = negInf32 then kOne else expW (div32 (sub32 e.1 v0) temp)
    let cs := runSums ws
    let last := cs.getLast?.getD 0
    let p := if gt32 topp 0 && gt32 kOne topp then mul32 topp last else last
    let astar := (cs.findIdx? fun c => ge32 c p).getD (cs.length - 1)
    let x := mix seed n
    let c := cs.getD astar 0
    let thr := (Fmt.fp32.mulNum plain (.fin false (x.toNat / 2 ^ 40) (-24)) (v32 c)).bits
    let pick := ((cs.take (astar + 1)).findIdx? fun c => gt32 c thr).getD astar
    (pick, div32 (ws.getD pick 0) c)

/-- SDRAW (24 R382). -/
def execSdraw (d : GReg) (a : GReg) (k : BitVec 4) (s : State) : Out :=
  finish s do
    let b ← s.needGroup
    let x := (s.g a).toNat
    need (x / 64 == 0) (requestFault 4)
    let row := s.crf k.toNat
    match row.bound with
    | none => .error (.trap (requestFault 6))
    | some (slot, rqid) =>
      let n := s.named b slot rqid
      let s := s.setRqcur n
      let none64 := s.writeG d (BitVec.allOnes 64) 6
      if s.rowMasked row then return none64
      else match n.usable with
        | none => return none64
        | some r =>
          let s := s.writeRecord n [fieldWrite 15 0 32 row.m, fieldWrite 15 32 32 row.sum]
          let es := row.entries.take (r.fld 8 56 7)
          if es.isEmpty then
            return (s.writeG d 0xFFFFFFFF#64 6).onSys fun y => { y with sstat := y.sstat ||| 2 }
          else
            let (pick, w) := drawFrom es (r.fld 9 0 32) (r.fld 9 32 32) (BitVec.ofNat 64 (r.word 12)) (r.word 13 + x)
            return s.writeG d (BitVec.ofNat 64 ((es.getD pick (0, 0)).2 % 2 ^ 32 + w * 2 ^ 32)) 6

/-! ### Stop strings (17 R293, 24 R387) -/

/-- Byte `i` of stop string `q`. -/
def Seat.sstr (r : Seat) (q i : Nat) : Nat := r.fld (16 + 4 * q + i / 8) (8 * (i % 8)) 8

/-- The automaton's next state: the longest prefix that ends in byte `b`, tried from `l` down. -/
def prefixStep (r : Seat) (q ss b : Nat) : Nat → Nat
  | 0 => 0
  | l + 1 =>
    -- the last l + 1 bytes of SSTR[0..ss-1], b
    let byteAt (i : Nat) : Nat := if i = ss then b else r.sstr q i
    if (List.range (l + 1)).all fun i => byteAt (ss - l + i) == r.sstr q i then l + 1 else prefixStep r q ss b l

/-- One byte over all strings in use: their states, and the strings it completes. -/
def matchByte (r : Seat) (sts : List Nat) (b : Nat) : List Nat × List Nat :=
  (sts.zipIdx).foldl (fun acc e =>
    let sl := r.fld 8 (8 + 6 * e.2) 6
    let l := prefixStep r e.2 e.1 b (min sl (e.1 + 1))
    if l = sl then (acc.1 ++ [0], acc.2 ++ [e.2]) else (acc.1 ++ [l], acc.2)) ([], [])

/-- The automata over a list of bytes: states, strings completed, and the bytes up to the first completion. -/
def matchBytes (r : Seat) : List Nat → List Nat → Nat → List Nat → Nat → List Nat × List Nat × Nat
  | sts, [], _, done, first => (sts, done, first)
  | sts, b :: rest, k, done, first =>
    let (sts, hit) := matchByte r sts b
    matchBytes r sts rest (k + 1) (done ++ hit) (if first = 0 ∧ hit ≠ [] then k + 1 else first)

/-- SMATCH (24 R387). -/
def execSmatch (d a b : GReg) (s : State) : Out :=
  finish s do
    let n ← s.selector (s.g a).toNat
    let y := (s.g b).toNat
    let cnt := field y 56 4
    need (cnt ≤ 7 && y / 2 ^ 60 == 0) (requestFault 4)
    let s := s.setRqcur n
    match n.usable with
    | none => return s.writeG d 0 4
    | some r =>
      let ssn := r.fld 8 4 3
      if ssn = 0 ∨ cnt = 0 then return s.writeG d 0 4
      else
        let start := (List.range ssn).map fun q => min (r.fld 8 (32 + 6 * q) 6) (r.fld 8 (8 + 6 * q) 6 - 1)
        let (sts, done, first) := matchBytes r start ((List.range cnt).map fun i => field y (8 * i) 8) 0 [] 0
        let states := sts.zipIdx.map fun e => fieldWrite 8 (32 + 6 * e.2) 6 e.1
        let code := if done ≠ [] ∧ r.fcode = 0 then [fieldWrite 0 56 8 0x11] else []
        let s := s.writeRecord n (states ++ code)
        let bits := ((List.range 4).filter fun q => done.contains q).foldl (fun a q => a + 2 ^ q) 0
        return s.writeG d (BitVec.ofNat 64 (bits + first * 256)) 4

/-! ### Draft trees (17 R290, R291, R294) -/

/-- The tree's byte address, 0 for none. -/
def Seat.draft (r : Seat) : Nat := r.fld 11 32 32 * 256

/-- A node's token, its parent and V. -/
def nodeOf (t j : Nat) : Nat × Nat × Bool :=
  let x := field t (64 * j) 64
  (field x 0 32, field x 32 6, bitAt x 39)

/-- Depth of each node in the tree, none outside it, nodes 0 to `k` (17 R290). -/
def depths (t : Nat) : Nat → List (Option Nat)
  | 0 => [some 0]
  | k + 1 =>
    let l := depths t k
    let (_, p, v) := nodeOf t (k + 1)
    l ++ [if v ∧ p < k + 1 then (l.getD p none).map (· + 1) else none]

/-- The tree read at issue (17 R290): the freeze domain waits for the read; 0 for none. -/
def State.draftTree (s : State) (r : Seat) : Chk Nat :=
  if r.draft = 0 then .ok 0
  else if hbmSize < r.draft + 512 then .error (.trap (requestFault 7))
  else match s.core.fetchedOf fetchTree r.draft with
    | some t => .ok t
    | none => .error (.hold 21 false (some (.draftTreeRead (BitVec.ofNat 8 s.core.id) (BitVec.ofNat 64 r.draft))))

/-- The core's own unperformed stores to a range of HBM (10 R202). -/
def Core.storesTo (c : Core) (a n : Nat) : Bool :=
  c.unperformed.any fun y => ringKind y.kind ≠ 1 && ringKind y.kind ≠ 4 &&
    (!y.known || y.elems.any fun e => match e.loc with
      | some l => overlaps l (eltBytes y.desc.tag) { space := .hbm, addr := a } n
      | none => false)

/-- DRAFT_TREE_READ (17 R290): the tree's 512 bytes return, behind the core's own earlier stores. -/
def execDraftTreeRead (core : BitVec 8) (addr : BitVec 64) (s : State) : Out :=
  let s := s.focus core.toNat
  if s.core.storesTo addr.toNat 512 then .next (s.schedule 1 (.draftTreeRead core addr))
  else finish s do
    let x ← s.readHbm addr.toNat 512
    return s.onCore fun c => { c with fetched := { what := fetchTree, addr := addr.toNat, data := x } :: c.fetched }

/-- Tokens on the path from a node back to node 0, node 0 left out. -/
def pathTokens (t : Nat) : Nat → Nat → List Nat
  | 0, _ => []
  | k + 1, j => if j = 0 then [] else (nodeOf t j).1 :: pathTokens t k (nodeOf t j).2.1

/-- History tokens that are valid (03 R53). -/
def Seat.history (r : Seat) : List Nat :=
  (List.range 64).filterMap fun j => if bitAt (r.word 14) j then some (r.fld (32 + j / 2) (32 * (j % 2)) 32) else none

/-- A logit penalised for `c` occurrences (17 R291). -/
def Seat.penalise (r : Seat) (x c : Nat) : Nat :=
  let x := if gt32 x 0 then div32 x (r.fld 10 0 32) else mul32 x (r.fld 10 0 32)
  let x := sub32 x (mul32 (r.fld 10 32 32) (Fmt.fp32.ofNum (.fin false c 0)))
  sub32 x (r.fld 11 0 32)

/-- SPEN (24 R392). -/
def execSpen (d : VReg) (a b : GReg) (s : State) : Out :=
  finish s do
    s.tagIn d [1]
    let n ← s.selector (s.g a).toNat
    let y := (s.g b).toNat
    need (y / 2 ^ 39 == 0) (requestFault 4)
    let tree ← match n.usable with
      | some r => if bitAt y 38 then s.draftTree r else
          need (r.draft + 512 ≤ hbmSize) (requestFault 7) >>= fun _ => pure 0
      | none => pure 0
    let s := s.setRqcur n
    match n.usable with
    | none => return s.send (s.result (.v d (s.v d) (BitVec.allOnes 64) 1) .ctl 6)
    | some r =>
      let node := field y 32 6
      let path := if bitAt y 38 && r.draft ≠ 0 && ((depths tree 63).getD node none).isSome then pathTokens tree 64 node else []
      let toks := r.history ++ path
      let ok := s.admissible d (y % 2 ^ 32)
      let x : Words := SMap.tabulate 0 (List.range 64) fun j =>
        let old := (s.v d).at j
        match ok.find? fun e => e.1 = j with
        | none => old
        | some e =>
          let c := toks.count (y % 2 ^ 32 + j)
          if c = 0 then old else BitVec.ofNat 32 (r.penalise e.2 c)
      return s.send (s.result (.v d x (BitVec.allOnes 64) 1) .ctl 6)

/-! ### Accepting a run (17 R294, 24 R380) -/

/-- The walk along the tree: the samples of the nodes passed, at most `k` of them. -/
def acceptRun (t : Nat) (inTree : List (Option Nat)) (smp : Nat → Nat) : Nat → Nat → List Nat
  | 0, _ => []
  | k + 1, cur =>
    let tok := smp cur
    match (List.range 64).find? fun j => j ≠ 0 && (inTree.getD j none).isSome && (nodeOf t j).2.1 = cur && (nodeOf t j).1 = tok with
    | some j => tok :: acceptRun t inTree smp k j
    | none => [tok]

/-- A run cut at and including its first stop token; whether it ended on one. -/
def cutAtStop (stops : List Nat) : List Nat → List Nat × Bool
  | [] => ([], false)
  | t :: r => if stops.contains t then ([t], true) else
      let (l, b) := cutAtStop stops r
      (t :: l, b)

/-- A record with one token committed. -/
def Seat.commit (r : Seat) (t : Nat) : Seat :=
  let j := r.pos % 64
  let r := r.put (32 + j / 2) (32 * (j % 2)) 32 t
  let r := r.put 14 j 1 1
  let r := r.put 1 0 32 (r.pos + 1)
  let r := r.put 2 0 24 (r.fld 2 0 24 - 1)
  r.put 13 0 64 (r.word 13 + 1)

/-- The trim predicates SACCEPT writes with gd, one result of each (17 R294). -/
def State.trim (s : State) (n : Nat) : State :=
  let x := s.core.bank.sys.sctrim.toNat
  if bitAt x 0 then
    (List.range 4).foldl (fun s i =>
      let p := field x 2 4 + i
      (s.send (s.result (.p p (decide (field x (6 + 6 * i) 6 < n))) .ctl 8)).onBank fun b =>
        { b with pw := SMap.set 0 b.pw p (b.issues + 1) }) s
  else s

/-- SACCEPT (24 R380). -/
def execSaccept (d a : GReg) (v : VReg) (s : State) : Out :=
  finish s do
    s.tagIn v [8]
    let n ← s.selector (s.g a).toNat
    match n.seat with
    | some r => need (r.draft + 512 ≤ hbmSize || r.draft == 0) (requestFault 7)
    | none => pure ()
    let give (s : State) (k : Nat) : State := (s.writeG d (BitVec.ofNat 64 k) 8).trim k
    match n.seat with
    | none => return give (s.setRqcur n) 0
    | some r =>
      if r.fcode ≠ 0 ∨ r.fld 2 0 24 = 0 then return give (s.setRqcur n) 0
      else if 0 < r.prefill then
        return (give (s.setRqcur n) 0).onSys fun y => { y with sstat := y.sstat ||| 4 }
      else
        let t ← s.draftTree r
        let inTree := if r.draft = 0 then [some 0] else depths t 63
        let run := acceptRun t inTree (fun j => ((s.v v).at j).toNat) 64 0
        let stops := (List.range (r.fld 8 0 4)).map fun q => r.fld (4 + q / 2) (32 * (q % 2)) 32
        let (run, stopped) := cutAtStop stops (run.take (r.fld 2 0 24))
        let r' := run.foldl Seat.commit r
        let r' := if stopped then r'.setFcode 0x10 else if r'.fld 2 0 24 = 0 then r'.setFcode 0x12 else r'
        let words := ((List.range 64).filter fun w => r.word w ≠ r'.word w).map fun w =>
          (w, 2 ^ 64 - 1, r'.word w)
        -- of the words other units write too, only the fields committed here
        let words := words.map fun e =>
          if e.1 = 0 then (0, 0xFF * 2 ^ 56, e.2.2) else if e.1 = 1 then (1, 2 ^ 32 - 1, e.2.2)
          else if e.1 = 2 then (2, 2 ^ 24 - 1, e.2.2) else e
        return give ((s.setRqcur n).writeRecord n words) run.length

end Sys2Proof.Machine
end

