-- ==== Sys2Proof/Machine/Sync.lean ====
section
/-!
DEFINITION. Synchronisation: counted waits (06 R142), DRAIN (10 R206-R208), barriers (12 R220-R224), queues (12
R225-R227), the end of a task and its trigger (25 R396, R403), SPAWN's issue (24 R389-R391), the watchdog (02 R43)
and the landing of results (05 R118-R121, 06 R139).
-/
namespace Sys2Proof.Machine

/-! ### What has performed (10 R206, R207, 23 R350) -/

/-- A row operation moves rows to or from memory outside the core. -/
def RowOp.remote (r : RowOp) (core : Nat) : Bool :=
  match r.src.desc.kind with
  | .spad => false
  | .acc => false
  | .table => !(r.src.desc.loc = 2 && (field r.src.desc.base 21 9 = 0 || field r.src.desc.base 21 9 = core + 1))
  | _ => true

/-- Whether a queued access counts among those to wait for: of the executing bank, or not held on the trapped
bank's retry ring (23 R350). -/
def Core.counts (c : Core) (b : Bank) (x : Access) : Bool := b.id = c.bank.id || !x.held

/-- A queued store or atomic has not performed at a scope (10 R207): core, past the core's memory port, which an access
leaves once it is translated, unless the retry ring holds it or it is a QPUSH that its release holds; die, the same
towards another die, else written; package and system, written. -/
def Access.performs (x : Access) (core scope : Nat) : Bool :=
  let past := x.known && !x.held && x.kind ≠ .qpush
  match scope with
  | 0 => past
  | 1 => past && x.elems.all fun e => e.loc.all fun l => l.die core ≠ dieOf core
  | _ => false

/-- A remote store, atomic, copy, SEND or QPUSH issued in a bundle before number `q` has not performed at a scope (10
R206, R207).  A SEND has once its lines are read; at system scope, once they stand in the peer's receive queue. -/
def Core.storesBefore (c : Core) (scope q : Nat) : Bool :=
  ([c.bank, c.other].any fun b =>
    (b.stq.any fun x => x.issue < q && x.kind ≠ .recvLine && c.counts b x && !x.performs c.id scope) ||
    (b.laq.any fun x => x.issue < q && x.kind.isAtomic && !x.isLocal && x.reply.isNone && c.counts b x && !x.performs c.id scope)) ||
  (c.rowOps.any fun r => r.issue < q && r.kind = .store && r.remote c.id) ||
  (c.chans.any fun ch => ch.2.queue.any fun t => decide (t.issue < q)) ||
  (c.sends.any fun x => x.issue < q && (scope = 3 || decide (x.read < x.lines)))

/-- A remote load, atomic, RECV or QPOP issued in a bundle before number `q` has not returned its data. -/
def Core.loadsBefore (c : Core) (q : Nat) : Bool :=
  ([c.bank, c.other].any fun b =>
    b.laq.any fun x => x.issue < q && !x.isLocal && x.reply.isNone && c.counts b x) ||
  (c.rowOps.any fun r => r.issue < q && r.kind = .load && r.remote c.id) ||
  (c.recvs.any fun x => decide (x.issue < q))

/-- The condition of a DRAIN of a variant and scope in bundle `q`: 1 REL, 2 ACQ, 3 FULL. -/
def Core.drained (c : Core) (v scope q : Nat) : Bool :=
  (v = 2 || !c.storesBefore scope q) && (v = 1 || !c.loadsBefore q)

/-- The last completion among classes: of several in one cycle the longest path, then the first class
(12 R235). -/
def Core.lastDone (c : Core) (classes : List Nat) : Option Completion :=
  classes.foldl (fun (best : Option Completion) k =>
    match c.dones.find? (fun e => e.1 = k) with
    | none => best
    | some (_, d) => match best with
      | none => some d
      | some e => if e.at' < d.at' ∨ (e.at' = d.at' ∧ e.path.at e.at' < d.path.at d.at') then some d else best) none

/-! ### The hold before the next bundle -/

/-- An issued instruction puts a hold before the next bundle. -/
def State.putAfter (s : State) (a : After) : State := s.onBank fun b => { b with after := some (a, s.core.seq) }

/-- The last arrival of a bank's task at a barrier. -/
def Bank.arrival (b : Bank) (k : Nat) : Option Arrived := b.arrived.find? fun a => a.barrier = k

/-- A field of 15 places no bound (06 R142). -/
def within (bound count : Nat) : Bool := bound = 15 || decide (count ≤ bound)

/-- The divisors a CLKDIV's fields ask for: control, matrix, vector, copy; 0 for none (19 R307). -/
def divFields (x : Nat) : Nat × Nat × Nat × Nat := (field x 0 4, field x 4 4, field x 8 4, field x 12 4)

/-- Every operation of each domain whose divisor a CLKDIV changes has completed (19 R307). -/
def Core.quiet (c : Core) (x : Nat) : Bool :=
  let f := divFields x
  let changes (new old : Nat) : Bool := new ≠ 0 && new ≠ old
  let landed (d : Dom) : Bool := !([c.bank, c.other].any fun b => b.inflight.any fun r => r.dom = d)
  (!changes f.1 c.divs.1 || landed .ctl) &&
  (!changes f.2.1 c.divs.2.1 || (landed .mat && c.matOps.isEmpty && c.relax.isNone && c.rowOps.isEmpty && c.mBusy ≤ c.mat.cycles)) &&
  (!changes f.2.2.1 c.divs.2.2.1 || landed .vec) &&
  (!changes f.2.2.2 c.divs.2.2.2 || (landed .cpy && c.xBusy ≤ c.cpy.cycles && !(c.chans.any fun ch => !ch.2.queue.isEmpty)))

/-- Whether the hold before the present core's next bundle has ended. -/
def State.afterMet (s : State) : Bool :=
  let b := s.core.bank
  match b.after with
  | none => true
  | some (.wait l st c t, _) => within l b.loads && within st b.stores && within c b.copies && within t b.tiles
  | some (.drain v scope, q) => s.core.drained v scope q
  | some (.acq, q) => s.core.drained 2 2 q
  | some (.bar k, _) => (b.arrival k).all Arrived.released
  | some (.tend, q) => b.tiles = 0 && !s.core.storesBefore 2 (q + 1)
  | some (.clkdiv x, _) => s.core.quiet x

/-- The freeze cause of a hold (15 R430). -/
def After.cause : After → Nat
  | .wait _ _ _ _ => 11
  | .drain _ _ => 12
  | .acq => 12
  | .bar _ => 9
  | .tend => 18
  | .clkdiv _ => 17

/-- The hold has ended: its edge of the strandline (12 R235), and what follows a barrier's release (12 R222).  What holds
the next bundle from here on is a wait of its own. -/
def State.passAfter (s : State) : State :=
  let clear (s : State) : State := (s.onBank fun b => { b with after := none }).onCore fun c => { c with waits := [] }
  let edge (s : State) (cause event : Nat) (d : Option Completion) : State :=
    match d with
    | some d => s.adoptWait cause event d.at' d.path d.pkind d.pid 0
    | none => s
  match s.core.bank.after with
  | some (.wait l st c t, _) =>
    let classes := (if l = 15 then [] else [0]) ++ (if st = 15 then [] else [1]) ++ (if c = 15 then [] else [2])
      ++ (if t = 15 then [] else [3])
    clear (edge s 11 1 (s.core.lastDone classes))
  | some (.drain v _, _) =>
    clear (edge s 12 9 (s.core.lastDone (if v = 1 then [4] else if v = 2 then [5] else [4, 5])))
  | some (.bar k, q) =>
    let s := edge s 9 2 ((s.core.bank.arrival k).map Arrived.last)
    s.onBank fun b => { b with after := some (.acq, q) }
  | some (.acq, _) => clear s
  | _ => s

/-- WAIT (06 R142, 25 R426): loads that wait in the LAQ for an LDQ entry that nothing will free are DEAD_WAIT. -/
def execWait (l st c t : BitVec 4) (s : State) : Out :=
  finish s do
    let b := s.core.bank
    let stuck := (b.laq.filter fun x => !x.reserved).length - b.freeLdq
    need (l = 15 || decide (stuck ≤ l.toNat)) (own cDeadWait 1)
    return s.putAfter (.wait l.toNat st.toNat c.toNat t.toNat)

/-- WAIT_RELEASE (06 R142): the counters have reached the WAIT's bounds. -/
def execWaitRelease (core : BitVec 8) (s : State) : Out :=
  let s := s.focus core.toNat
  match s.core.bank.after with
  | some (.wait _ _ _ _, _) => .next (if s.afterMet then s.passAfter else s)
  | _ => .next s

/-- DRAIN.REL (10 R206, R207). -/
def execDrainRel (c : BitVec 2) (s : State) : Out := .next (s.putAfter (.drain 1 c.toNat))
/-- DRAIN.ACQ, whose scope has no effect. -/
def execDrainAcq (c : BitVec 2) (s : State) : Out := .next (s.putAfter (.drain 2 c.toNat))
/-- DRAIN.FULL. -/
def execDrainFull (c : BitVec 2) (s : State) : Out := .next (s.putAfter (.drain 3 c.toNat))

/-- DRAIN_RELEASE (10 R208). -/
def execDrainRelease (core : BitVec 8) (s : State) : Out :=
  let s := s.focus core.toNat
  match s.core.bank.after with
  | some (.drain _ _, _) => .next (if s.afterMet then s.passAfter else s)
  | some (.acq, _) => .next (if s.afterMet then s.passAfter else s)
  | _ => .next s

/-! ### Barriers (12 R220-R224) -/

/-- The launch of the executing task; 0 for supervisor code without one. -/
def State.launchId (s : State) : Nat := (s.core.task.map Task.launch).getD 0

/-- A barrier of a launch. -/
def State.barrier (s : State) (launch k : Nat) : Barrier :=
  (s.barriers.find? fun b => b.launch = launch ∧ b.num = k).getD { launch := launch, num := k }

/-- A barrier put back. -/
def State.setBarrier (s : State) (b : Barrier) : State :=
  { s with barriers := b :: s.barriers.filter fun c => !(c.launch = b.launch && c.num = b.num) }

/-- The last arriver of a generation that a cycle's arrivals complete: the greatest path length, then the
higher core number (12 R224). -/
def lastArriver (now : Nat) (l : List Arrival) : Option Arrival :=
  (l.filter fun a => a.at' = now).foldl (fun (best : Option Arrival) a =>
    match best with
    | none => some a
    | some b => if b.path.at now < a.path.at now ∨ (b.path.at now = a.path.at now ∧ b.core < a.core) then some a else best) none

/-- The executing task arrives at barrier `k`; the n-th arrival releases the generation (12 R222). -/
def State.arrive (s : State) (k n : Nat) : State :=
  let id := s.launchId
  let bar := s.barrier id k
  let me : Arrival := { core := s.core.id, task := s.core.bank.sys.taskix.toNat, at' := s.now, path := s.core.path }
  let n := if bar.arrivals.isEmpty then n else bar.n
  let all := bar.arrivals ++ [me]
  let mark : Arrived := { barrier := k, gen := bar.gen }
  let s := s.onBank fun b => { b with arrived := b.arrived.filter (fun a => a.barrier ≠ k) ++ [mark] }
  if all.length < n then s.setBarrier { bar with n := n, arrivals := all }
  else
    let last := (lastArriver s.now all).getD me
    let done : Completion := { at' := s.now, path := last.path, pkind := 0, pid := last.core }
    let s := s.setBarrier { bar with gen := bar.gen + 1, n := 0, arrivals := [], reported := false, past := (bar.gen, done) :: bar.past.take 255 }
    all.foldl (fun s a => s.exactly (48 + 64 * hops (dieOf last.core) (dieOf a.core))
      (.barrierRelease (BitVec.ofNat 8 a.core) (BitVec.ofNat 64 id) (BitVec.ofNat 4 k) (BitVec.ofNat 64 bar.gen))) s

/-- An arriving form's holds and checks (12 R222, R223); answers the barrier and n. -/
def State.barrierChecks (s : State) (a b : GReg) : Chk (Nat × Nat) := do
  let x := (s.g a).toNat
  let k := x % 16
  let n := (s.g b).toNat
  -- DRAIN.REL package, and an arrival that has not released yet
  if s.core.storesBefore 2 s.core.seq then .error (.hold 12 false none)
  if (s.core.bank.arrival k).any fun y => !y.released then .error (.hold 9 false none)
  need (x / 16 == 0) (violation 10)
  let bar := s.barrier s.launchId k
  need (bar.arrivals.isEmpty || bar.n == n) (violation 10)
  let ntask := (s.core.task.map Task.ntask).getD 1
  need (1 ≤ n && n ≤ ntask) (own cDeadWait 0x10)
  need (!s.det || n == ntask) (raceTrap 0 3 0)
  return (k, n)

/-- BAR.ARR. -/
def execBarArr (d a b : GReg) (s : State) : Out :=
  finish s do
    let (k, n) ← s.barrierChecks a b
    return (s.writeG d (BitVec.ofNat 64 (s.barrier s.launchId k).gen) 1).arrive k n

/-- BAR: the arrival, and the hold until its release. -/
def execBar (a b : GReg) (s : State) : Out :=
  finish s do
    let (k, n) ← s.barrierChecks a b
    return (s.arrive k n).putAfter (.bar k)

/-- BAR.WAIT. -/
def execBarWait (a : GReg) (s : State) : Out :=
  finish s do
    let x := (s.g a).toNat
    need (x / 16 == 0) (violation 10)
    need (s.core.bank.arrival (x % 16)).isSome (own cDeadWait 0x11)
    return s.putAfter (.bar (x % 16))

/-- A bank hears the release of a generation: its arrival is released and its phase rises (12 R229). -/
def Bank.release (b : Bank) (k gen : Nat) (last : Completion) : Bank :=
  if b.arrived.any fun a => a.barrier = k && a.gen = gen && !a.released then
    { b with arrived := b.arrived.map fun a => if a.barrier = k then { a with released := true, last := last } else a
             phase := (b.phase + 1) % 2 ^ 32 }
  else b

/-- BARRIER_RELEASE (12 R222): the release reaches a core, and the freeze of its waiter ends. -/
def execBarrierRelease (core : BitVec 8) (launch : BitVec 64) (bar : BitVec 4) (gen : BitVec 64) (s : State) : Out :=
  let n := core.toNat
  let last := (((s.barrier launch.toNat bar.toNat).past.find? fun p => p.1 = gen.toNat).map Prod.snd).getD {}
  if ((s.coreOf n).task.map Task.launch).getD 0 = launch.toNat then
    .next (s.onCoreOf n fun c => { c with bank := c.bank.release bar.toNat gen.toNat last
                                          other := c.other.release bar.toNat gen.toNat last })
  else .next s

/-- An arrival withdrawn with its task (12 R224, 15 R275). -/
def State.withdraw (s : State) (launch task : Nat) : State :=
  { s with barriers := s.barriers.map fun b =>
      if b.launch = launch then { b with arrivals := b.arrivals.filter fun a => a.task ≠ task } else b }

/-- The lowest task of a launch that has not arrived, for a launch of up to 4,096 tasks (12 R224). -/
def absentTask (ntask : Nat) (l : List Arrival) : Nat :=
  if 4096 < ntask then 2 ^ 32 - 1
  else ((List.range ntask).find? fun i => !l.any fun a => a.task = i).getD (2 ^ 32 - 1)

/-- A core waits at a barrier for the release of a generation. -/
def Core.waitsAt (c : Core) (k : Nat) : Bool :=
  match c.bank.after with
  | some (.bar j, _) => j = k && (c.bank.arrival k).any fun a => !a.released
  | _ => false

/-- The core of the lowest-numbered task among those that wait at a barrier for its open generation (12 R224). -/
def State.lowestWaiter (s : State) (bar : Barrier) : Option Arrival :=
  (sortBy Arrival.task (bar.arrivals.filter fun a => (s.coreOf a.core).waitsAt bar.num)).head?

/-- The ring entry of a missing arrival, once for a generation: the core of the lowest-numbered waiting task writes it
(12 R224). -/
def State.absentEntry (s : State) : State :=
  match s.core.bank.after with
  | some (.bar k, _) =>
    let bar := s.barrier s.launchId k
    let me := s.core.id
    match s.lowestWaiter bar with
    | none => s
    | some a =>
      if bar.reported then s
      else
        let w := s.focus a.core
        let e : Edge := { time := w.now, len := w.core.waited 9, event := 2, waiter := a.core, pkind := 7
                          pid := absentTask ((w.core.task.map Task.ntask).getD 1) bar.arrivals, l := w.core.path.at w.now }
        ((w.traceRecord e).setBarrier { bar with reported := true }).focus me
  | _ => s

/-- WATCHDOG_EXPIRY (02 R43): the group traps at the bundle its freeze was holding; TVAL as 15 R430. -/
def execWatchdogExpiry (core : BitVec 8) (s : State) : Out :=
  let s := s.focus core.toNat
  let t := own cWatchdog s.core.cause
  let s := (s.members s.core).foldl (fun s c => s.onCoreOf c.id fun c => { c with frozen := 0 }) s.absentEntry
  .next (s.takeTrap t)

/-! ### Queues (12 R225-R227, 23 R366, R367) -/

/-- Lq of a queue's descriptor, where it has the shape of one (12 R225). -/
def queueLog (d : Desc) : Option Nat :=
  if d.kind = .table ∧ d.tag = 0 ∧ d.ndim = 0 ∧ d.loc = 0 then
    ((List.range 12).find? fun k => d.ext0 = 64 + 256 * 2 ^ (k + 1)).map (· + 1)
  else none

/-- The storage offsets by which a queue's pages are translated: its header, and one in each 64 KiB. -/
def queueElts (d : Desc) : List Elt :=
  (List.range ((d.ext0 - 1) / 65536 + 1)).map (fun k => ({ idx := 0, off := d.boff + 65536 * k } : Elt)) ++
    [{ idx := 0, off := d.boff + d.ext0 - 1 }]

/-- The issue checks common to both (12 R226): the register, the queue's shape. -/
def State.queueCheck (s : State) (a : GReg) : Chk (Nat × Desc) := do
  let x := (s.g a).toNat
  need (x / 2 ^ 32 == 0) (violation 10)
  let d ← s.desc x
  need (queueLog d).isSome (protection x 7)
  return (x, d)

/-- QPUSH (23 R367). -/
def execQpush (a : GReg) (b : BitVec 6) (s : State) : Out :=
  finish s do
    s.xFree.before do
      backpressure 13 (31 ≤ s.core.bank.stores)
      let (tid, d) ← s.queueCheck a
      s.permit tid d .write
      let s ← s.queueBind tid d 16
      let p ← s.placeAll false tid d (queueElts d)
      let x := { s.access .qpush (BitVec.ofNat 128 tid) d p.elts with data := s.v b.toNat }
      return (s.pushStore x).xTake 1

/-- QPOP (23 R366). -/
def execQpop (a : GReg) (s : State) : Out :=
  finish s do
    s.xFree.before do
      backpressure 12 (63 ≤ s.core.bank.loads)
      let (tid, d) ← s.queueCheck a
      s.permit tid d .read
      s.permit tid d .write
      let s ← s.queueBind tid d 20
      let p ← s.placeAll false tid d (queueElts d)
      return (s.pushLoad (s.access .qpop (BitVec.ofNat 128 tid) d p.elts)).xTake 1

/-- PUSHED and POPPED. -/
def State.queueCounts (s : State) (x : Access) : Nat × Nat :=
  (s.queueRead x.tid x.desc 0 8, s.queueRead x.tid x.desc 8 8)

/-- The first waiter of a kind at a queue goes on at once: its turn has come. -/
def State.queueWake (s : State) (addr : Nat) (push : Bool) : State :=
  match s.queueWaits.find? (fun w => w.addr = addr && w.push == push) with
  | none => s
  | some w =>
    let c := BitVec.ofNat 8 w.core
    let b := BitVec.ofNat 1 w.bank
    let q := BitVec.ofNat 48 w.seq
    { s with queueWaits := s.queueWaits.map fun x => if x = w then { w with woken := true } else x
             agenda := s.agenda ++ [if push then .queuePushPerform c b q else .queuePopServe c b q] }

/-- The queue's port holds an arrival behind those that wait there; one whose turn had come keeps its place. -/
def State.queueHold (s : State) (addr : Nat) (push : Bool) (core bank seq : Nat) : State :=
  let w : QueueWait := { addr := addr, push := push, core := core, bank := bank, seq := seq }
  if s.queueWaits.contains { w with woken := true } then
    { s with queueWaits := s.queueWaits.map fun x => if x = { w with woken := true } then w else x }
  else { s with queueWaits := s.queueWaits ++ [w] }

/-- An arrival finds others of its kind waiting at the port before it. -/
def State.queueBehind (s : State) (addr : Nat) (push : Bool) (core bank seq : Nat) : Bool :=
  match s.queueWaits.find? (fun w => w.addr = addr && w.push == push) with
  | some w => !(w.woken && w.core = core && w.bank = bank && w.seq = seq)
  | none => false

/-- One that is served waits no more. -/
def State.queueServed (s : State) (core bank seq : Nat) : State :=
  { s with queueWaits := s.queueWaits.filter fun w => !(w.core = core && w.bank = bank && w.seq = seq) }

/-- QUEUE_PUSH_PERFORM (23 R367): what the push releases has performed, the queue has room, and the entry is
written. -/
def execQueuePushPerform (core : BitVec 8) (bank : BitVec 1) (seq : BitVec 48) (s : State) : Out :=
  let s := s.focus core.toNat
  let n := core.toNat
  let i := bank.toNat
  match (s.core.bankOf i).stq.find? (fun x => x.seq = seq.toNat), Instr.queuePushPerform core bank seq with
  | none, _ => .next s
  | some x, again =>
    if x.held || !x.known then .next s
    else if s.core.storesBefore 2 x.issue then .next (s.schedule 1 again)
    else
      let addr := (s.queueAddr x.tid x.desc 0).getD 0
      let (pushed, popped) := s.queueCounts x
      let size := 2 ^ (queueLog x.desc).getD 1
      let used := (pushed + 2 ^ 64 - popped) % 2 ^ 64
      if size ≤ used ∨ s.queueBehind addr true n i x.seq then
        .next ((s.queueHold addr true n i x.seq).onCore fun c => c.onBankOf i fun b =>
          { b with stq := b.stq.map fun y => if y.seq = x.seq then { y with waiting := true } else y })
      else
        let word := (List.range 64).foldl (fun acc k => acc + (x.data.at k).toNat * 2 ^ (32 * k)) 0
        let s := s.queueWrite x.tid x.desc (64 + 256 * (pushed % size)) word 256
        let s := s.queueWrite x.tid x.desc 0 ((pushed + 1) % 2 ^ 64) 8
        let mark : QueueMark := { addr := addr, idx := pushed, done := { at' := s.now, path := x.path, pkind := 0, pid := n } }
        let s := { s with queueMarks := mark :: s.queueMarks.filter fun m => !(m.addr = addr && m.idx = pushed) }
        .next (((((s.popStore n i x).queueServed n i x.seq).completed n [1, 4] x.path 6 (x.port n)).queueWake addr false).queueWake addr true)

/-- QUEUE_POP_SERVE (23 R366): the port returns an entry, or the reply waits there for a push. -/
def execQueuePopServe (core : BitVec 8) (bank : BitVec 1) (seq : BitVec 48) (s : State) : Out :=
  let s := s.focus core.toNat
  let n := core.toNat
  let i := bank.toNat
  match (s.core.bankOf i).laq.find? (fun x => x.seq = seq.toNat) with
  | none => .next s
  | some x =>
    if x.held || !x.known || x.reply.isSome then .next s
    else
      let addr := (s.queueAddr x.tid x.desc 0).getD 0
      let (pushed, popped) := s.queueCounts x
      let size := 2 ^ (queueLog x.desc).getD 1
      if pushed = popped ∨ s.queueBehind addr false n i x.seq then
        .next ((s.queueHold addr false n i x.seq).exactlyOnce (2 ^ 20) (.qpopReplyTimeout core bank seq))
      else
        let word := s.queueRead x.tid x.desc (64 + 256 * (popped % size)) 256
        let s := s.queueWrite x.tid x.desc 8 ((popped + 1) % 2 ^ 64) 8
        let v : Words := SMap.tabulate 0 (List.range 64) fun k => BitVec.ofNat 32 (word / 2 ^ (32 * k))
        let mark := s.queueMarks.find? fun m => m.addr = addr && m.idx = popped
        let s := { s with queueMarks := s.queueMarks.filter fun m => !(m.addr = addr && m.idx = popped) }
        let s := s.onCore fun c => c.onBankOf i fun b => { b with laq := b.laq.map fun y =>
          if y.seq = x.seq then { y with producer := mark.map fun m => (3, m.done.at', m.done.path, m.done.pkind, m.done.pid) } else y }
        .next ((((((s.setReply n i x.seq v false).queueServed n i x.seq).completed n [0, 5] x.path 6 (x.port n)).kick n i).queueWake addr true).queueWake addr false)

/-- QPOP_REPLY_TIMEOUT (12 R226): the reply has waited 2^20 reference cycles at its port; the VPOP that needs it
raises WATCHDOG. -/
def execQpopReplyTimeout (core : BitVec 8) (bank : BitVec 1) (seq : BitVec 48) (s : State) : Out :=
  .next (s.onCoreOf core.toNat fun c => c.onBankOf bank.toNat fun b =>
    { b with laq := b.laq.map fun x => if x.seq = seq.toNat ∧ x.reply = none then { x with late := true } else x })

/-! ### TEND, TRIG, SPAWN (25 R396, R403, 24 R389-R391) -/

/-- TEND: its hold keeps its own bundle as the one a trap would name (25 R396). -/
def execTend (s : State) : Out :=
  finish s do
    need (!s.sup) (violation 15)
    let s := s.putAfter .tend
    return s.onCore fun c => { c with cur := { c.cur with npc := c.bank.pc, taken := false } }

/-- TRIG (25 R403): counted once what its earlier bundles stored has performed. -/
def execTrig (s : State) : Out :=
  finish s do
    need (!s.sup) (violation 15)
    return if s.core.bank.trig then s else s.onBank fun b => { b with trig := true, trigAt := some s.core.seq }

/-- The completion tensor of a SPAWN (24 R389, R391). -/
def State.spawnDest (s : State) (y : Nat) : Chk (Option Dest) :=
  if bitAt y 63 then .ok none
  else do
    let tid := y % 2 ^ 32
    let c0 := field y 32 24
    let d ← s.desc tid
    need (d.kind = .table && d.tag == 0 && d.loc == 0 && c0 % 16 == 0 && c0 + 16 ≤ d.ext0)
      (own cProtection (tid + 10 * 2 ^ 32 + 0xFF * 2 ^ 40))
    s.permit tid d .write
    let off := ((storeOff d fun j => if j = 0 then c0 else 0).map Prod.fst).getD 0
    if s.place true tid d off = .beyond then .error (.trap (protection tid 5))
    return some { tid := tid, desc := d, off := off }

/-- SPAWN. -/
def execSpawn (a b : GReg) (s : State) : Out :=
  finish s do
    let x := (s.g a).toNat
    let y := (s.g b).toNat
    need (x / 2 ^ 21 == 0 && x % 128 == 0 && (if bitAt y 63 then y == 2 ^ 63 else y / 2 ^ 56 == 0)) (violation 10)
    let dest ← s.spawnDest y
    s.partsThere ((blocksOf x 128).map Part.spad)
    let die := dieOf s.core.id
    if 64 ≤ (s.spawns.filter fun r => r.src.die = die).length then .error (.hold 24 false none)
    let t := s.core.task.getD {}
    let held := ((s.launches.find? fun l => l.id = t.launch).map Launch.tokens).getD t.tokens
    let src : Source := { origin := .spawn dest, die := die, fn := t.fn, pasid := t.pasid, pv := t.pv, ctx := t.ctx
                          diag := t.diag, prio := t.prio, tokens := held }
    let r : Spawn := { num := s.launchNum, words := s.core.spad.read x 128, src := src, core := s.core.id, bank := s.core.bank.id, issue := s.core.seq, at' := s.now }
    return ({ s with spawns := s.spawns ++ [r], launchNum := s.launchNum + 1 }).scheduleOnce 1 (.spawnRelease (BitVec.ofNat 2 die))

/-! ### The landing of results (05 R118-R121, 06 R139) -/

/-- The slot code of 05 R120: 0 V0, 1 V1, 2 M, 3 X. -/
def slotCode (rank : Nat) : Nat := if rank = 3 then 0 else if rank = 4 then 1 else if rank = 5 then 2 else 3

/-- A result that raises as it would land: its trap falls due, with those of its cycle (05 R120, R121). -/
def Result.raise (now : Nat) (b : Bank) (r : Result) : Bank :=
  b.raiseFp now (slotCode r.rank) r.bundle r.excepts r.snan r.seq r.rank

/-- RESULT_LANDING: every result of the executing bank that is due lands, in issue order; an excepting one is
discarded (05 R120). -/
def execResultLanding (core : BitVec 8) (s : State) : Out :=
  let s := s.focus core.toNat
  let c := s.core
  let land := sortBy (fun r : Result => r.seq * 8 + r.rank) (c.bank.inflight.filter c.lands)
  let raises (r : Result) : Bool := r.snan || r.excepts ≠ 0
  let good := land.filter fun r => !raises r
  let flags := good.foldl (fun a r => a ||| r.flags) 0
  let s := s.onBank fun b => ((good.foldl (fun (b : Bank) r => (b.put r.write).present r)
    { b with inflight := b.inflight.filter fun r => !c.lands r }).commitFlags flags 0 0)
  let s := s.onBank fun b => (sortBy Result.rank (land.filter raises)).foldl (Result.raise s.now) b
  .next (good.foldl (fun s r => match r.acquire with
    | some v => if (s.coreOf c.id).map.any fun m => m.1 = v.step then s else s.acquireMap c.id v
    | none => s) s)

/-- RBQ_WORD_ADDED (05 R115): one word a control-domain cycle until the queue is full again. -/
def execRbqWordAdded (core : BitVec 8) (s : State) : Out :=
  .next ((s.focus core.toNat).onBank fun b => { b with rbq := { b.rbq with held := min 8 (b.rbq.held + 1) } })

end Sys2Proof.Machine
end

