-- ==== Sys2Proof/Machine/Engines.lean ====
section
/-!
DEFINITION. The stack engines (13): a command's block, its checks at issue, its queue, its work, and its
completion line.
-/
namespace Sys2Proof.Machine

/-! ### The parameter block (13 R242-R244) -/

/-- PROTECTION with a field's offset (13 R244). -/
def blockFault (tid off : Nat) : TrapReq := own cProtection (tid + 10 * 2 ^ 32 + off / 4 * 2 ^ 40)

/-- Bytes from a parameter block's address that the read at issue brings: as many as the longest block has. -/
def blockBytes (d : Desc) (c : Nat) : Nat := min 4096 (d.ext0 - c)

/-- PARAMETER_BLOCK_READ (13 R244): the remote read of the block returns, after the core's own earlier stores
to it (10 R202). -/
def execParameterBlockRead (core : BitVec 8) (tid : BitVec 32) (c : BitVec 24) (s : State) : Out :=
  let s := s.focus core.toNat
  match s.core.bank.descOf tid.toNat with
  | none => .next s
  | some d =>
    let n := blockBytes d c.toNat
    let at' (k : Nat) : Option Loc := match s.place true tid.toNat d (d.boff + c.toNat + k) with
      | .at l => some l
      | _ => none
    let lines := (List.range ((n + 63) / 64)).filterMap fun k => at' (64 * k)
    let mine := s.core.unperformed.any fun y => y.issue < s.core.seq && y.kind ≠ .qpop && y.kind ≠ .qpush && y.kind ≠ .load &&
      y.elems.any fun e => match e.loc with
        | some l => lines.any fun k => overlaps l (eltBytes y.desc.tag) k 64
        | none => true
    if mine then .next (s.schedule 1 (.parameterBlockRead core tid c))
    else
      let x := (List.range n).foldl (fun acc k => acc + (match at' k with
        | some l => (s.byteAt core.toNat 0 l).toNat
        | none => 0) * 256 ^ k) 0
      .next (s.onCore fun k => { k with fetched :=
        { what := fetchParams, addr := tid.toNat * 2 ^ 24 + c.toNat, data := x } :: k.fetched })

/-- The block under the checks of an issuing command: its tensor and its bytes. -/
structure Block where
  tid : Nat
  data : Nat
  deriving DecidableEq, Repr

/-- `n` bytes of a block. -/
def Block.get (b : Block) (off n : Nat) : Nat := field b.data (8 * off) (8 * n)

/-- A field between bounds. -/
def Block.within (b : Block) (off n lo hi : Nat) : Chk Nat := do
  let x := b.get off n
  need (lo ≤ x && x ≤ hi) (blockFault b.tid off)
  return x

/-- Reserved bytes. -/
def Block.zero (b : Block) (off n : Nat) : Chk Unit := need (b.get off n == 0) (blockFault b.tid off)

/-- A reference to a tensor of LOC 0 and layout 0 with one of the tags (13 R243). -/
def State.blockRef (s : State) (b : Block) (off : Nat) (tags : List Nat) : Chk EngineRef := do
  let x := b.get off 8
  need (x / 2 ^ 56 == 0) (blockFault b.tid off)
  let tid := x % 2 ^ 32
  let d ← s.desc tid
  need (d.kind = .table && tags.contains d.tag && d.loc == 0 && d.layout == 0) (blockFault tid off)
  return { off := off, tid := tid, desc := d, coord := field x 32 24 }

/-- A one-dimensional operand of `n` elements. -/
def EngineRef.flat (r : EngineRef) (n : Nat) : Chk Unit := need (r.coord + n ≤ r.desc.ext0) (blockFault r.tid r.off)

/-- A row operand of `rows` rows of `n` elements. -/
def EngineRef.grid (r : EngineRef) (n rows : Nat) : Chk Unit :=
  need (n ≤ r.desc.ext0 && r.coord + rows ≤ r.desc.ext1) (blockFault r.tid r.off)

/-- Bytes of an element. -/
def EngineRef.esize (r : EngineRef) : Nat := esize2 r.desc.tag / 2
/-- The storage offset of element `i` of a one-dimensional operand. -/
def EngineRef.at (r : EngineRef) (i : Nat) : Nat := r.desc.boff + (r.coord + i) * r.esize
/-- The storage offset of element `e` of row `k`. -/
def EngineRef.cell (r : EngineRef) (k e : Nat) : Nat := r.desc.boff + (r.desc.ext0 * (r.coord + k) + e) * r.esize

/-- A range of storage that a command reads or writes: operand, offset, bytes, what it does. -/
structure Extent where
  ref : EngineRef
  off : Nat
  len : Nat
  mode : Mode
  deriving DecidableEq, Repr

/-- What the checks of a command's fields leave: its operands, whether each is read and written, the ranges
known at issue, the command lines, and a shared-writable table of a deterministic launch. -/
structure Parsed where
  refs : List (EngineRef × Mode)
  extents : List Extent
  lines : Nat := 1
  deriving DecidableEq, Repr

/-- The completion line and the token (13 R247). -/
def State.blockEnd (s : State) (b : Block) (cpl token : Nat) : Chk EngineRef := do
  let r ← s.blockRef b cpl [0]
  need (r.coord % 64 == 0) (blockFault b.tid cpl)
  r.flat 64
  need (b.get token 8 != 0) (blockFault b.tid token)
  return r

/-- A list of checks in order. -/
def allOf {α β : Type} (f : α → Chk β) : List α → Chk (List β)
  | [] => .ok []
  | x :: r => do
    let y ← f x
    let l ← allOf f r
    return y :: l

/-- The fields of a BDRED (13 R247). -/
def State.parseRed (s : State) (b : Block) : Chk Parsed := do
  let nbuf ← b.within 0 4 2 16
  let len ← b.within 4 4 64 262144
  need (len % 64 == 0) (blockFault b.tid 4)
  let dst ← s.blockRef b 8 [1]
  dst.flat len
  let cpl ← s.blockEnd b 0x10 0x18
  b.zero 0x20 32
  let srcs ← allOf (fun k => s.blockRef b (0x40 + 8 * k) [1]) (List.range nbuf)
  let _ ← allOf (fun r : EngineRef => r.flat len) srcs
  let _ ← allOf (fun k => b.zero (0x40 + 8 * (nbuf + k)) 8) (List.range (16 - nbuf))
  return { refs := (dst, .write) :: (cpl, .write) :: srcs.map fun r => (r, .read)
           extents := srcs.map (fun r : EngineRef => { ref := r, off := r.at 0, len := 4 * len, mode := .read }) ++
             [{ ref := dst, off := dst.at 0, len := 4 * len, mode := .write }, { ref := cpl, off := cpl.at 0, len := 64, mode := .write }] }

/-- A command of a BDIDX line: position, count, list offset, row (13 R248). -/
structure IdxCmd where
  pos : Nat
  cnt : Nat
  p : Nat
  row : Nat
  deriving DecidableEq, Repr

/-- The valid commands of a BDIDX block. -/
def idxCmds (data nline : Nat) : List IdxCmd :=
  (List.range (8 * nline)).filterMap fun k =>
    let x := field data (8 * (64 + 8 * k)) 64
    if bitAt x 63 then some { pos := k, cnt := field x 52 11, p := field x 32 20, row := x % 2 ^ 32 } else none

/-- The fields of a BDIDX (13 R248). -/
def State.parseIdx (s : State) (b : Block) : Chk Parsed := do
  let nline ← b.within 0 4 1 63
  let rowlen ← b.within 4 4 1 16384
  let table ← s.blockRef b 8 [1, 2]
  table.grid rowlen 0
  let ilist ← s.blockRef b 0x10 [8]
  let out ← s.blockRef b 0x18 [1]
  out.grid rowlen 0
  let cpl ← s.blockEnd b 0x20 0x28
  b.zero 0x30 16
  let cmds := idxCmds b.data nline
  let _ ← allOf (fun c : IdxCmd => do
    need (c.cnt = 0 || ilist.coord + c.p + c.cnt ≤ ilist.desc.ext0) (blockFault ilist.tid (64 + 8 * c.pos + 4))
    need (out.coord + c.row < out.desc.ext1) (blockFault out.tid (64 + 8 * c.pos))) cmds
  need (!(s.det && table.desc.sw)) (raceTrap table.tid 2 0)
  return { refs := [(table, .read), (ilist, .read), (out, .write), (cpl, .write)], lines := nline
           extents := cmds.flatMap (fun c =>
             [{ ref := ilist, off := ilist.at c.p, len := 4 * c.cnt, mode := .read },
              { ref := out, off := out.cell c.row 0, len := 4 * rowlen, mode := .write }]) ++
             [{ ref := cpl, off := cpl.at 0, len := 64, mode := .write }] }

/-- An operand of a BDTOPK that an option brings in. -/
def State.optRef (s : State) (on : Bool) (b : Block) (off tag n : Nat) : Chk (List EngineRef) :=
  if on then do
    let r ← s.blockRef b off [tag]
    r.flat n
    return [r]
  else .ok []

/-- The fields of a BDTOPK (13 R249). -/
def State.parseTopk (s : State) (b : Block) : Chk Parsed := do
  let nrow ← b.within 0 4 1 65536
  let rowlen ← b.within 4 4 1 65536
  let k ← b.within 8 1 1 16
  let opt ← b.within 9 1 0 3
  b.zero 0x0A 2
  let cap := bitAt opt 0
  if cap then
    let _ ← b.within 0xC 4 1 65536
  let logits ← s.blockRef b 0x10 [1]
  logits.grid rowlen nrow
  let outi ← s.blockRef b 0x18 [8]
  outi.grid k nrow
  let outw ← s.blockRef b 0x20 [1]
  outw.grid k nrow
  let cpl ← s.blockEnd b 0x28 0x30
  let _ ← b.within 0x38 4 0 (2 ^ 31 - 1)
  let _ ← b.within 0x3C 4 0 (2 ^ 31 - 1)
  let caps ← s.optRef cap b 0x40 8 rowlen
  let homes ← s.optRef (bitAt opt 1) b 0x48 0 rowlen
  let routes ← s.optRef (bitAt opt 1) b 0x50 8 nrow
  b.zero 0x58 40
  let rows (r : EngineRef) (n : Nat) (m : Mode) : List Extent :=
    (List.range nrow).map fun j => { ref := r, off := r.cell j 0, len := 4 * n, mode := m }
  let flat (l : List EngineRef) (n : Nat) (m : Mode) : List Extent :=
    l.map fun r => { ref := r, off := r.at 0, len := n * r.esize, mode := m }
  return { refs := [(logits, .read), (outi, .write), (outw, .write), (cpl, .write)] ++ caps.map (fun r => (r, .read))
             ++ caps.map (fun r => (r, .write)) ++ homes.map (fun r => (r, .read)) ++ routes.map fun r => (r, .write)
           extents := rows logits rowlen .read ++ rows outi k .write ++ rows outw k .write ++ flat caps rowlen .write
             ++ flat homes rowlen .read ++ flat routes nrow .write
             ++ [{ ref := cpl, off := cpl.at 0, len := 64, mode := .write }] }

/-! ### Issue (13 R244, R245) -/

/-- The storage offsets at which a range's span entries are looked up: its ends and each 64 KiB between. -/
def Extent.probes (e : Extent) : List Nat :=
  if e.len = 0 then []
  else (List.range ((e.len - 1) / 65536 + 1)).map (fun k => e.off + 65536 * k) ++ [e.off + e.len - 1]

/-- A non-resident entry in a range known at issue: PAGE_FAULT at the command's bundle (13 R244). -/
def State.engineFault (s : State) (e : Extent) (off : Nat) (p : SpanEntry) : TrapReq :=
  let kw := 2 + s.core.cur.pos * 2 ^ 8 + (if e.mode = .read then 0 else 2 ^ 11)
  s.pageFault false p (s.faultBytes kw s.core.bank.pc (unstoreOff e.ref.desc (BitVec.ofNat 128 e.ref.tid) off) 0 0 0 0 p.idx
    (s.nrun e.ref.desc p) 0)

/-- The entries of a range, pinned (13 R244). -/
def State.pin (s : State) (acc : List SpanEntry) (e : Extent) : Chk (List SpanEntry) :=
  e.probes.foldl (fun (r : Chk (List SpanEntry)) off => r.bind fun acc =>
    match findSpan acc e.ref.tid off with
    | some _ => .ok acc
    | none => match walkSpans s.hbm e.ref.tid e.ref.desc.base off e.ref.desc.nspan 0 0 with
      | .entry p => if bitAt p.raw 0 then .ok (acc ++ [p]) else .error (.trap (s.engineFault e off p))
      | _ => .error (.trap (protection e.ref.tid 5))) (.ok acc)

/-- The places of a range, one in each 4 KiB block, for the race check. -/
def State.extentLocs (s : State) (e : Extent) : List Loc :=
  (blockOffs e.off e.len).filterMap fun o => match s.place true e.ref.tid e.ref.desc o with
    | .at l => some l
    | _ => none

/-- Command lines in an engine's queue. -/
def Engine.lines (e : Engine) : Nat := (e.queue.map EngineCmd.lines).foldl (· + ·) 0

/-- A stack's engine. -/
def State.engine (s : State) (k : Nat) : Engine := SMap.get {} s.engines k
/-- A stack's engine changed. -/
def State.setEngine (s : State) (k : Nat) (e : Engine) : State := { s with engines := SMap.set {} s.engines k e }

/-- The engine's next command is taken once the engine is idle. -/
def State.engineGo (s : State) (k n : Nat) : State :=
  if (s.engine k).busy ∨ (s.engine k).queue.isEmpty then s else s.scheduleOnce n (.engineCommandStart (BitVec.ofNat 4 k))

/-- Bytes of a command's parameter block: of a BDIDX the header and, where NLINE is one the rule allows, its command lines
(13 R247-R249). -/
def blockLen (kind nline : Nat) : Nat :=
  if kind = 0 then 192 else if kind = 1 then (if nline ≤ 63 then 64 + 64 * nline else 64) else 128

/-- The entries of a parameter block are there, and no link on the way to its bytes is down (13 R244, 04 R98). -/
def State.blockThere (s : State) (self : EngineRef) (n : Nat) : Chk Unit := do
  let spans ← s.pin [] { ref := self, off := self.at 0, len := n, mode := .read }
  let _ ← allOf (fun e : SpanEntry => s.reaches (spanFrame e.raw)) spans
  return ()

/-- A command at its issue: the block's read, every check, and its sending (13 R244, R245). -/
def engineCommand (kind : Nat) (a b : GReg) (s : State) : Chk State := do
  s.xFree.before do
    let x := (s.g a).toNat
    let y := (s.g b).toNat
    need (x / 2 ^ 56 == 0 && y / 16 == 0 && y % 16 < 12) (violation 10)
    let tid := x % 2 ^ 32
    let c := field x 32 24
    let d ← s.desc tid
    let least := if kind = 0 then 192 else if kind = 1 then 64 else 128
    need (d.kind = .table && d.tag == 0 && d.loc == 0 && d.layout == 0 && c % 64 == 0 && c + least ≤ d.ext0)
      (own cProtection (tid + 10 * 2 ^ 32 + 0xFF * 2 ^ 40))
    s.permit tid d .read
    let self : EngineRef := { off := 0, tid := tid, desc := d, coord := c }
    s.blockThere self (blockLen kind 0)
    match s.core.fetchedOf fetchParams (tid * 2 ^ 24 + c) with
    | none => .error (.hold 21 false (some (.parameterBlockRead (BitVec.ofNat 8 s.core.id) (BitVec.ofNat 32 tid) (BitVec.ofNat 24 c))))
    | some data =>
      let blk : Block := { tid := tid, data := data }
      let nline := blk.get 0 4
      need (kind ≠ 1 || decide (c + 64 + 64 * nline ≤ d.ext0) || nline == 0 || decide (63 < nline)) (own cProtection (tid + 10 * 2 ^ 32 + 0xFF * 2 ^ 40))
      s.blockThere self (blockLen kind nline)
      let p ← if kind = 0 then s.parseRed blk else if kind = 1 then s.parseIdx blk else s.parseTopk blk
      let _ ← allOf (fun r : EngineRef × Mode => s.permit r.1.tid r.1.desc r.2) p.refs
      let spans ← p.extents.foldl (fun (r : Chk (List SpanEntry)) e => r.bind fun acc => s.pin acc e) (.ok [])
      let _ ← allOf (fun e : Extent =>
        s.raceCheck e.ref.tid e.ref.desc (if e.mode = .read then .read else .write) (s.extentLocs e))
        ({ ref := self, off := self.at 0, len := blockLen kind nline, mode := .read } :: p.extents)
      let stack := y % 16
      s.reaches (stack * 2 ^ 36)
      let eng := s.engine stack
      backpressure 9 (64 < eng.lines + p.lines)
      let cmd : EngineCmd := { kind := kind, block := data, refs := p.refs.map Prod.fst, spans := spans, core := s.core.id
                               path := s.core.path, lines := p.lines }
      let s := s.setEngine stack { eng with queue := eng.queue ++ [cmd] }
      return (s.engineGo stack (1 + 64 * hops (dieOf s.core.id) (stack / 3))).xTake 1

/-- BDRED. -/
def execBdred (a b : GReg) (s : State) : Out := finish s (engineCommand 0 a b s)
/-- BDIDX. -/
def execBdidx (a b : GReg) (s : State) : Out := finish s (engineCommand 1 a b s)
/-- BDTOPK. -/
def execBdtopk (a b : GReg) (s : State) : Out := finish s (engineCommand 2 a b s)

/-! ### The engine's work (13 R246-R250) -/

/-- A command's operand by its field's offset. -/
def EngineCmd.ref (c : EngineCmd) (off : Nat) : EngineRef :=
  (c.refs.find? fun r => r.off = off).getD { off := off, tid := 0, desc := {}, coord := 0 }

/-- A field of a command's block. -/
def EngineCmd.get (c : EngineCmd) (off n : Nat) : Nat := field c.block (8 * off) (8 * n)

/-- The HBM address of a byte of an operand: by the pinned entries, or by a walk for a table row. -/
def EngineCmd.addr (c : EngineCmd) (m : Memory) (r : EngineRef) (off : Nat) : Option Nat :=
  match findSpan c.spans r.tid off with
  | some e => some (spanFrame e.raw + (off - e.start))
  | none => match walkSpans m r.tid r.desc.base off r.desc.nspan 0 0 with
    | .entry e => if bitAt e.raw 0 then some (spanFrame e.raw + (off - e.start)) else none
    | _ => none

/-- `n` bytes of an operand. -/
def EngineCmd.read (c : EngineCmd) (m : Memory) (r : EngineRef) (off : Nat) : Nat → Nat
  | 0 => 0
  | n + 1 => (match c.addr m r off with
    | some a => (m.byte a).toNat
    | none => 0) + 256 * EngineCmd.read c m r (off + 1) n

/-- `n` bytes of an operand written. -/
def EngineCmd.write (c : EngineCmd) (s : State) (r : EngineRef) (off x : Nat) : Nat → State
  | 0 => s
  | n + 1 => EngineCmd.write c (match c.addr s.hbm r off with
    | some a => s.setByteAt 0 0 { space := .hbm, addr := a } (BitVec.ofNat 8 x)
    | none => s) r (off + 1) (x / 256) n

/-- A command's counts as they stand. -/
structure Tally where
  status : Nat := 0
  first : Nat := 0
  nv : Nat := 0
  ovf : Nat := 0
  aux : Nat := 0
  deriving DecidableEq, Repr

/-- A pairwise FP32 sum with its flags. -/
def pairOut (l : List Nat) : FpOut :=
  ((pairwise (fun x y : FpOut => (Fmt.fp32.addNum plain (v32 x.bits) (v32 y.bits)).with ((x.with y)))
    12 (l.map fun v => { bits := v })).headD { bits := 0 })

/-- The counts of a result element. -/
def Tally.count (t : Tally) (o : FpOut) : Tally :=
  { t with nv := t.nv + (if bitAt o.flags 0 then 1 else 0), ovf := t.ovf + (if bitAt o.flags 2 then 1 else 0) }

/-- A result line or row not written: derived from uncorrectable data (status 1) or from a row that is not there (status 2)
(13 R246).  FIRST is the first of them; where both occur STATUS is 1, a point the spec leaves open (DESIGN CHOICE,
log 50). -/
def Tally.lost (t : Tally) (status line : Nat) : Tally :=
  { t with status := if t.status = 1 then 1 else status, first := if t.status = 0 then line else t.first }

/-- One of `n` bytes of an operand is uncorrectable: `bad` lists the HBM addresses of those. -/
def EngineCmd.hits (c : EngineCmd) (m : Memory) (bad : List Nat) (r : EngineRef) (off n : Nat) : Bool :=
  !bad.isEmpty && (List.range n).any fun b => (c.addr m r (off + b)).any bad.contains

/-- BDRED (13 R247): lines of 64 elements in ascending order. -/
def EngineCmd.red (c : EngineCmd) (s : State) (bad : List Nat) : State × Tally :=
  let dst := c.ref 8
  let srcs := (List.range (c.get 0 4)).map fun k => c.ref (0x40 + 8 * k)
  (List.range (c.get 4 4 / 64)).foldl (fun (acc : State × Tally) line =>
    let (s, t) := acc
    if srcs.any fun r => c.hits s.hbm bad r (r.at (64 * line)) 256 then (s, t.lost 1 line)
    else
      let outs := (List.range 64).map fun j => pairOut (srcs.map fun r => c.read s.hbm r (r.at (64 * line + j)) 4)
      let s := (List.range 64).foldl (fun s j => c.write s dst (dst.at (64 * line + j)) (outs.getD j { bits := 0 }).bits 4) s
      (s, outs.foldl Tally.count t)) (s, {})

/-- Some byte of a table row is not resident. -/
def EngineCmd.rowAbsent (c : EngineCmd) (m : Memory) (r : EngineRef) (off n : Nat) : Bool :=
  (List.range n).any fun b => (c.addr m r (off + b)).isNone

/-- A table element widened to FP32, +0 for an index out of range. -/
def EngineCmd.tableElt (c : EngineCmd) (m : Memory) (r : EngineRef) (e : Nat) (row : Option Nat) : Nat :=
  match row with
  | some i => c.read m r (r.cell i e) r.esize * (if r.esize = 2 then 2 ^ 16 else 1)
  | none => 0

/-- The table row a list position names, none out of range (13 R248). -/
def EngineCmd.tableRow (c : EngineCmd) (m : Memory) (n : Nat) : Option Nat :=
  let table := c.ref 8
  let ilist := c.ref 0x10
  let i := signed 32 (c.read m ilist (ilist.at n) 4)
  if i < 0 ∨ Int.ofNat table.desc.ext1 ≤ i + Int.ofNat table.coord then none else some i.toNat

/-- The table rows that a BDIDX command's list names now. -/
def EngineCmd.idxRows (c : EngineCmd) (m : Memory) (k : IdxCmd) : List (Option Nat) :=
  (List.range k.cnt).map fun n => c.tableRow m (k.p + n)

/-- One element of a BDIDX command: the list and the table are read for it, and it is written before the next is read. -/
def EngineCmd.idxElt (c : EngineCmd) (k : IdxCmd) (acc : State × Tally) (e : Nat) : State × Tally :=
  let (s, t) := acc
  let out := c.ref 0x18
  let x : FpOut := if k.cnt = 0 then { bits := 0 }
    else pairOut ((c.idxRows s.hbm k).map (c.tableElt s.hbm (c.ref 8) e))
  (c.write s out (out.cell k.row e) x.bits 4, t.count x)

/-- One command of a BDIDX. -/
def EngineCmd.idxStep (c : EngineCmd) (bad : List Nat) (s : State) (t : Tally) (k : IdxCmd) : State × Tally :=
  let rowlen := c.get 4 4
  let table := c.ref 8
  let ilist := c.ref 0x10
  let rows := c.idxRows s.hbm k
  let t : Tally := { t with aux := t.aux + (rows.filter Option.isNone).length }
  let some' (p : EngineRef → Nat → Nat → Bool) : Bool := rows.any fun r => r.any fun i => p table (table.cell i 0) (rowlen * table.esize)
  if c.hits s.hbm bad ilist (ilist.at k.p) (4 * k.cnt) || some' (c.hits s.hbm bad) then (s, t.lost 1 k.pos)
  else if some' (c.rowAbsent s.hbm) then (s, t.lost 2 k.pos)
  else (List.range rowlen).foldl (c.idxElt k) (s, t)

/-- BDIDX (13 R248): commands in line order and ascending slot. -/
def EngineCmd.idx (c : EngineCmd) (s : State) (bad : List Nat) : State × Tally :=
  (idxCmds c.block (c.get 0 4)).foldl (fun (acc : State × Tally) k => c.idxStep bad acc.1 acc.2 k) (s, {})

/-- The ranking of BDTOPK: the greater value, every NaN lowest, then the lower index (13 R250). -/
def topBefore (x y : Nat × Nat) : Bool :=
  match (v32 x.1).isNan, (v32 y.1).isNan with
  | true, true => x.2 < y.2
  | true, false => false
  | false, true => true
  | false, false => before x y

/-- An entry put into a ranked list. -/
def topInsert (x : Nat × Nat) : List (Nat × Nat) → List (Nat × Nat)
  | [] => [x]
  | y :: r => if topBefore x y then x :: y :: r else y :: topInsert x r

/-- The weights of the selected values in rank order; a NaN's is a NaN (13 R250). -/
def topWeights (vs : List Nat) : List Nat :=
  let m := vs.headD 0
  let recip (n : Nat) : Nat := div32 kOne (Fmt.fp32.ofNum (.fin false n 0))
  let each (f : Nat → Nat) : List Nat := vs.map fun v => if (v32 v).isNan then Fmt.fp32.defaultNan else f v
  if m = negInf32 then each fun _ => recip vs.length
  else if m = posInf32 then
    let n := (vs.filter (· = posInf32)).length
    each fun v => if v = posInf32 then recip n else 0
  else
    let w := vs.map fun v => expW (sub32 v m)
    let sum := pairSum32 w
    w.map fun x => div32 x sum

/-- BDTOPK (13 R249, R250): rows in ascending order. -/
def EngineCmd.topk (c : EngineCmd) (s : State) (bad : List Nat) : State × Tally :=
  let rowlen := c.get 4 4
  let k := c.get 8 1
  let capOn := bitAt (c.get 9 1) 0
  let routeOn := bitAt (c.get 9 1) 1
  let logits := c.ref 0x10
  let outi := c.ref 0x18
  let outw := c.ref 0x20
  let cap := c.ref 0x40
  let home := c.ref 0x48
  let outr := c.ref 0x50
  let capOf (s : State) (e : Nat) : Int := signed 32 (c.read s.hbm cap (cap.at e) 4)
  let setCap (s : State) (e : Nat) (v : Int) : State := c.write s cap (cap.at e) (unsignedOf 32 v) 4
  (List.range (c.get 0 4)).foldl (fun (acc : State × Tally) r =>
    let (s, t) := acc
    if c.hits s.hbm bad logits (logits.cell r 0) (4 * rowlen) || (capOn && c.hits s.hbm bad cap (cap.at 0) (4 * rowlen)) then
      (s, t.lost 1 r)
    else
      let s0 := s
      let s := if capOn && r % c.get 0xC 4 = 0 then
          (List.range rowlen).foldl (fun s e => setCap s e (min (c.get 0x3C 4 : Int) (capOf s e + c.get 0x38 4))) s
        else s
      let sel := ((List.range rowlen).foldl (fun (l : List (Nat × Nat)) e =>
        if capOn && capOf s e ≤ 0 then l
        else (topInsert (c.read s.hbm logits (logits.cell r e) 4, e) l).take k) [])
      if routeOn && sel.any fun x => c.hits s.hbm bad home (home.at x.2) 1 then (s0, t.lost 1 r)
      else
      let s := if capOn then sel.foldl (fun s x => setCap s x.2 (capOf s x.2 - 1)) s else s
      let w := topWeights (sel.map Prod.fst)
      let s := (List.range k).foldl (fun s a =>
        let i := match sel[a]? with
          | some x => x.2
          | none => 2 ^ 32 - 1
        c.write (c.write s outi (outi.cell r a) i 4) outw (outw.cell r a) (w.getD a 0) 4) s
      let s := if routeOn then
          let word := sel.foldl (fun acc x => acc ||| 2 ^ c.read s.hbm home (home.at x.2) 1) 0
          c.write s outr (outr.at r) (word % 2 ^ 32) 4
        else s
      (s, { t with aux := t.aux + (k - sel.length), nv := t.nv + (sel.filter fun x => (v32 x.1).isNan).length })) (s, {})

/-- Bytes a command reads and writes, for its time (13 R246). -/
def EngineCmd.traffic (c : EngineCmd) : Nat :=
  if c.kind = 0 then 4 * c.get 4 4 * (c.get 0 4 + 1)
  else if c.kind = 1 then 64 * c.lines + ((idxCmds c.block (c.get 0 4)).map fun k => 4 * c.get 4 4 * (k.cnt + 1)).foldl (· + ·) 0
  else 4 * c.get 0 4 * (c.get 4 4 + 2 * c.get 8 1 + 1)

/-- ENGINE_COMMAND_START (13 R245): the engine takes the next command from its queue. -/
def execEngineCommandStart (stack : BitVec 4) (s : State) : Out :=
  let k := stack.toNat
  let e := s.engine k
  match e.busy, e.queue with
  | false, c :: _ =>
    .next ((s.setEngine k { e with busy := true }).schedule (1000 + c.traffic / 800) (.engineCommandComplete stack false []))
  | _, _ => .next s

/-- The completion line (13 R246). -/
def Tally.line (t : Tally) (token : Nat) : Nat :=
  token + t.status * 2 ^ 64 + t.nv % 2 ^ 32 * 2 ^ 96 + t.ovf % 2 ^ 32 * 2 ^ 128 + t.aux % 2 ^ 32 * 2 ^ 160
    + (if t.status = 0 then 0 else t.first % 2 ^ 32 * 2 ^ 192)

/-- Offsets of the completion line's reference and of the token in each kind of block. -/
def EngineCmd.cpl (c : EngineCmd) : Nat := if c.kind = 0 then 0x10 else if c.kind = 1 then 0x20 else 0x28

/-- An engine remembers its last 64 completion-flag lines (13 R432). -/
def State.rememberFlag (s : State) (f : FlagLine) : State :=
  let mine := (s.flags.filter fun g => g.stack = f.stack).take 63
  let kept := s.flags.filter fun g => decide (g.stack ≠ f.stack) || mine.contains g
  { s with flags := f :: kept }

/-- ENGINE_COMMAND_COMPLETE (13 R246, R432): the results, then the completion line whole, which the engine then
remembers; `bad` are the HBM addresses of the bytes that the engine found uncorrectable. -/
def execEngineCommandComplete (stack : BitVec 4) (err : Bool) (bad : List (BitVec 40)) (s : State) : Out :=
  let k := stack.toNat
  let e := s.engine k
  match e.busy, e.queue with
  | true, c :: rest =>
    let bad := if err then bad.map BitVec.toNat else []
    let (s, t) := if c.kind = 0 then c.red s bad else if c.kind = 1 then c.idx s bad else c.topk s bad
    let r := c.ref c.cpl
    let s := bad.foldl (fun s a => s.softErrorAt c.core (some { space := .hbm, addr := a })) s
    let s := c.write s r (r.at 0) (t.line (c.get (c.cpl + 8) 8)) 64
    let s := match c.addr s.hbm r (r.at 0) with
      | some a => s.rememberFlag { stack := k, addr := a, at' := s.now, path := c.path }
      | none => s
    .next ((s.setEngine k { queue := rest, busy := false }).engineGo k 1)
  | _, _ => .next s

end Sys2Proof.Machine
end

