-- ==== Sys2Proof/Machine/Launch.lean ====
section
/-!
DEFINITION. The dispatchers (02 R22-R39): launches, their acceptance, start order, dependences and ends, placement
and pre-emption; work queues (20 R315-R318); checkpoint, kill and resume (15 R273-R278); the end of a task (25 R396).
-/
namespace Sys2Proof.Machine

/-! ### Host memory (04 R81, 20 R316) -/

/-- The host address of an I/O virtual address under a function and a PASID. -/
def State.hostAddr (s : State) (fn : Nat) (pasid : Option Nat) (a : Nat) : Option Nat :=
  (s.iommu.find? fun p => p.fn = fn ∧ p.pasid = pasid ∧ p.iova = a / 4096).map fun p => p.page * 4096 + a % 4096

/-- `k` bytes of host memory, none where a page's translation fails. -/
def State.hostRead (s : State) (fn : Nat) (pasid : Option Nat) (a : Nat) : Nat → Option Nat
  | 0 => some 0
  | k + 1 => match s.hostAddr fn pasid a, State.hostRead s fn pasid (a + 1) k with
    | some h, some x => some ((s.host.byte h).toNat + 256 * x)
    | _, _ => none

/-- `k` bytes written to host memory. -/
def State.hostWrite (s : State) (fn : Nat) (pasid : Option Nat) (a x : Nat) : Nat → Option State
  | 0 => some s
  | k + 1 => match s.hostAddr fn pasid a with
    | some h => State.hostWrite { s with host := s.host.setByte h (BitVec.ofNat 8 x) } fn pasid (a + 1) (x / 256) k
    | none => none

/-! ### Launch records and context templates (02 R22-R24, R39) -/

/-- A launch from its record's 1,024 bits. -/
def parseLaunch (id : Nat) (src : Source) (x : Nat) : Launch :=
  let f (off n : Nat) := field x (8 * off) (8 * n)
  let ctrl := f 0x1E 2
  { id := id, src := src, image := f 0 8, imlen := f 8 4, entry := f 0xC 4, ntask := f 0x10 4, fmode := f 0x14 4
    fw := (List.range 6).map fun j => f (0x18 + j) 1
    ctrl := ctrl, tokens := min (f 0x20 1) src.tokens, bgrp := f 0x21 1, sbound := f 0x22 2, est := f 0x24 4
    lseed := f 0x28 8, ext := (List.range 6).map fun j => f (0x30 + 4 * j) 4, tag := f 0x48 8
    deps := (List.range 4).map fun j => f (0x50 + 8 * j) 8
    prio := min (ctrl % 8) src.prio }

/-- A zero width precedes a non-zero one. -/
def gapped : List Nat → Bool
  | [] => false
  | w :: r => (w == 0 && r.any fun v => v != 0) || gapped r

/-- A launch of the function holds the tag (02 R24, R32). -/
def State.tagHeld (s : State) (fn tag : Nat) : Bool := s.launches.any fun l => l.src.fn = fn && l.tag = tag

/-- The checks of 02 R24. -/
def State.recordOk (s : State) (l : Launch) (x : Nat) : Bool :=
  l.imlen != 0 && l.imlen % 4 == 0 && l.entry % 4 == 0 && l.entry < l.imlen && l.ntask != 0 &&
  l.fw.foldl (· + ·) 0 ≤ 64 && !gapped l.fw &&
  ((l.ext.zip l.fw).all fun e => 1 ≤ e.1 && e.1 ≤ 2 ^ e.2) && l.ext.foldl (· * ·) 1 == l.ntask &&
  field l.ctrl 3 2 != 3 && l.ntask % l.gsize == 0 && (l.bgrp < 16 || l.bgrp == 0xFF) &&
  l.tag != 0 && !s.tagHeld l.src.fn l.tag &&
  l.ctrl / 2 ^ 9 == 0 && field x (8 * 0x70) 128 == 0 &&
  l.fmode &&& 0xFFE0E000 == 0 && 4 ≤ field l.fmode 16 4 && field l.fmode 16 4 ≤ 9

/-- A context template from its 512 bits, where its checks hold (02 R39). -/
def parseTemplate (x : Nat) : Option Template :=
  let f (off n : Nat) := field x (8 * off) (8 * n)
  let ok := f 0 8 % 4 == 0 && f 0 8 < 2 ^ 40 && f 8 8 &&& 0x00000F000000003F == 0 && f 0x10 8 % 2 ^ 26 == 0 &&
    f 0x18 8 % 64 == 0 && f 0x18 8 < 2 ^ 40 && f 0x20 2 &&& 0xFF0E == 0 && f 0x22 2 < 4096 && f 0x29 23 == 0
  if ok then some { tvec := f 0 8, ttbase := f 8 8, carea := f 0x10 8, slbase := f 0x18 8, slctl := f 0x20 2
                    limit := f 0x22 2, prew := f 0x24 4, killt := f 0x28 1 }
  else none

/-- Why a template gives no launch: it could not be read, or it fails its checks. -/
inductive TemplateRead where
  | ok (t : Template)
  | unread
  | bad
  deriving DecidableEq, Repr

/-- The template of a source, read at acceptance (02 R39, 20 R316). -/
def State.template (s : State) (src : Source) : TemplateRead :=
  if src.ctx = 0 then .ok {}
  else match s.hostRead src.fn (if src.pv then some src.pasid else none) src.ctx 64 with
    | none => .unread
    | some x => match parseTemplate x with
      | some t => .ok t
      | none => .bad

/-- The work identifier of a task (02 R26). -/
def Launch.wid (l : Launch) (i : Nat) : Nat :=
  let go := (l.ext.zip l.fw).foldl (fun (acc : Nat × Nat × Nat) e =>
    (acc.1 / e.1, acc.2.1 + acc.1 % e.1 * 2 ^ acc.2.2, acc.2.2 + e.2)) (i, 0, 0)
  go.2.1

/-! ### Work queues (20 R316, R317) -/

/-- A work queue. -/
def State.queue (s : State) (q : Nat) : WorkQueue := SMap.get {} s.queues q
/-- Change a work queue. -/
def State.onQueue (s : State) (q : Nat) (f : WorkQueue → WorkQueue) : State :=
  { s with queues := SMap.set {} s.queues q (f (s.queue q)) }
/-- EN. -/
def WorkQueue.en (w : WorkQueue) : Bool := bitAt w.flags 0
/-- The PASID a queue's addresses are translated under. -/
def WorkQueue.under (w : WorkQueue) : Option Nat := if bitAt w.flags 2 then some (w.pasid % 2 ^ 20) else none
/-- An ERR bit set. -/
def WorkQueue.error (w : WorkQueue) (k : Nat) : WorkQueue := { w with err := setField w.err k 1 1 }
/-- Records not read yet. -/
def WorkQueue.unread (w : WorkQueue) : Nat := (w.tail + 2 ^ 32 - w.head) % 2 ^ 32
/-- Room for the completion entry of the next record. -/
def WorkQueue.room (w : WorkQueue) : Bool := (w.head + 2 ^ 32 - w.chead) % 2 ^ 32 < 2 ^ w.logn
/-- What a launch takes from its queue (20 R315, 02 R39).  Die 0's dispatcher receives every host launch: the spec does not
say which die's does (DESIGN CHOICE, log 50). -/
def WorkQueue.source (w : WorkQueue) (q : Nat) : Source :=
  { origin := .queue q, fn := w.func, pasid := w.pasid % 2 ^ 20, pv := bitAt w.flags 2, ctx := w.ctx
    diag := bitAt w.flags 1, prio := w.prio }

/-- A completion entry: TAG, status and four zero bytes (20 R315, 24 R391). -/
def completionEntry (l : Launch) (status : Nat) : Nat := l.tag + status * 2 ^ 64

/-- A queue's completion entry is written, CDONE rises, MSI-X is raised (20 R317). -/
def State.queueComplete (s : State) (q : Nat) (l : Launch) (status : Nat) : State :=
  let w := s.queue q
  let s := match s.hostWrite w.func w.under (w.cbase + 16 * (w.cdone % 2 ^ w.logn)) (completionEntry l status) 16 with
    | some t => t
    | none => s.onQueue q fun w => w.error 2
  let s := s.onQueue q fun w => { w with cdone := (w.cdone + 1) % 2 ^ 32 }
  if w.msix = 0xFFFF then s else { s with msix := (w.func, w.msix) :: s.msix }

/-- A spawned launch's completion entry (24 R391); a byte whose page is absent is not written. -/
def State.destComplete (s : State) (d : Dest) (x : Nat) : State :=
  (List.range 16).foldl (fun s k => match walkSpans s.hbm d.tid d.desc.base (d.off + k) d.desc.nspan 0 0 with
    | .entry e => if bitAt e.raw 0 then
        s.setByteAt 0 0 { space := .hbm, addr := spanFrame e.raw + (d.off + k - e.start) } (BitVec.ofNat 8 (x / 256 ^ k))
      else s
    | _ => s) s

/-- Where a launch's status goes (02 R25). -/
def State.report (s : State) (l : Launch) (status : Nat) : State :=
  match l.src.origin with
  | .queue q => s.queueComplete q l status
  | .spawn none => s
  | .spawn (some d) => s.destComplete d (completionEntry l status)

/-! ### Ends and dependences (02 R25, R31, R32, R34) -/

/-- All but the oldest of a function's records (02 R32): the list is newest first. -/
def dropOldestOf (fn : Nat) : List Ended → List Ended
  | [] => []
  | e :: r => if e.fn = fn && !(r.any fun x => x.fn = fn) then r else e :: dropOldestOf fn r

/-- The record of an end kept: the last 65,536 of its function. -/
def keepEnded (e : Ended) (l : List Ended) : List Ended :=
  e :: (if 65536 ≤ (l.filter fun x => x.fn = e.fn).length then dropOldestOf e.fn l else l)

/-- A launch leaves the dispatcher with a status. -/
def State.retire (s : State) (l : Launch) (status : Nat) : State :=
  State.report { s with launches := s.launches.filter fun m => m.id ≠ l.id
                        barriers := s.barriers.filter fun b => b.launch ≠ l.id
                        ended := keepEnded { fn := l.src.fn, tag := l.tag, status := status, trig := l.triggered } s.ended } l status

/-- A launch ends at its arrival (02 R24, R25): it has reached no trigger, and no launch waits for it, since one that names
its TAG has met the pending launch of that TAG, or none. -/
def State.refuse (s : State) (l : Launch) (status : Nat) : State := s.retire { l with ntask := 1, trig := 0 } status

/-- Placement is looked at again. -/
def State.placeSoon (s : State) (n : Nat) : State := s.scheduleOnce n .groupPlacement

/-- Change a launch. -/
def State.onLaunch (s : State) (id : Nat) (f : Launch → Launch) : State :=
  { s with launches := s.launches.map fun l => if l.id = id then f l else l }

/-- SBOUND in reference cycles (02 R22). -/
def Launch.bound (l : Launch) : Nat := (if l.sbound = 0 then 1000 else l.sbound) * 25000

/-- A launch whose dependences are met is ready, and counts as unplaced from now (02 R31, R33). -/
def State.noteReady (s : State) (l : Launch) : State :=
  if l.readyAt.isNone && l.deps.isEmpty then
    (s.onLaunch l.id fun l => { l with readyAt := some s.now }).exactly l.bound (.starvationBound (BitVec.ofNat 64 l.id))
  else s

/-- Dependences on a launch of a function that has reached its trigger are met. -/
def State.met (s : State) (fn tag : Nat) : State :=
  let s := { s with launches := s.launches.map fun (m : Launch) => if m.src.fn = fn then { m with deps := m.deps.filter (· ≠ tag) } else m }
  s.launches.foldl State.noteReady s

/-- Launches end, and with each those that depended on its trigger and now fail, each once (02 R25, R32). -/
def State.endAll (s : State) : Nat → List (Launch × Nat) → State
  | 0, _ => s
  | _, [] => s
  | k + 1, (l, status) :: rest =>
    let s := s.retire l status
    if l.triggered then State.endAll (s.met l.src.fn l.tag) k rest
    else
      let fails (m : Launch) : Bool := m.src.fn = l.src.fn && m.deps.contains l.tag
      let failed := s.launches.filter fails
      State.endAll { s with launches := s.launches.filter fun m => !fails m } k (rest ++ failed.map fun m => (m, 3))

/-- A launch ends. -/
def State.endLaunch (s : State) (l : Launch) (status : Nat) : State :=
  (s.endAll (s.launches.length + 1) [(l, status)]).placeSoon 1

/-- How a dependence stands (02 R32). -/
inductive Dep where
  | met | waits | failed
  deriving DecidableEq, Repr

/-- The dependence of a launch on a tag. -/
def State.dep (s : State) (l : Launch) (tag : Nat) : Dep :=
  if tag = 0 then .met
  else if tag = l.tag then .waits
  else match s.launches.find? (fun m => m.src.fn = l.src.fn && m.tag = tag) with
    | some m => if m.triggered then .met else .waits
    | none => match s.ended.find? (fun e => e.fn = l.src.fn && e.tag = tag) with
      | some e => if e.trig then .met else .failed
      | none => .met

/-- A launch by its number. -/
def State.launch? (s : State) (id : Nat) : Option Launch := s.launches.find? fun l => l.id = id

/-- One more task of a launch counts for its trigger (02 R34). -/
def State.trigger (s : State) (id : Nat) : State :=
  let s := s.onLaunch id fun l => { l with trig := l.trig + 1 }
  match s.launch? id with
  | some l => if l.triggered then (s.met l.src.fn l.tag).placeSoon 1 else s
  | none => s

/-- A launch all of whose tasks are over ends (02 R25). -/
def State.launchDone (s : State) (id : Nat) : State :=
  match s.launch? id with
  | some l => if l.ended + l.dead = l.ntask then s.endLaunch l (if l.bad then 4 else 0) else s
  | none => s

/-! ### Acceptance (02 R24, R25) -/

/-- A launch arrives: it is refused, fails, or waits; no group of it is placed before the reference cycle `due`. -/
def State.accept (s : State) (id : Nat) (src : Source) (x due : Nat) : State :=
  let l := parseLaunch id src x
  match s.template src, s.recordOk l x with
  | .ok t, true =>
    if s.cryo.band = 3 ∨ (s.cryo.band = 4 ∧ !src.diag) then s.refuse l 2
    else if l.deps.any fun d => s.dep l d = .failed then s.refuse l 3
    else
      let l := { l with tmpl := t, due := due, deps := l.deps.filter fun d => s.dep l d = .waits }
      State.noteReady { s with launches := s.launches ++ [l] } l
  | .unread, _ => match src.origin with
    | .queue q => (s.onQueue q fun w => w.error 1).refuse l 1
    | _ => s.refuse l 1
  | _, _ => s.refuse l 1

/-- LAUNCH_ACCEPT (20 R317, 02 R22): the next record of a queue is read; its first bundle may issue 300 ns after
its arrival. -/
def execLaunchAccept (q : BitVec 12) (s : State) : Out :=
  let n := q.toNat
  let w := s.queue n
  if !s.cryo.released ∨ !w.en ∨ w.stopped ∨ w.unread = 0 ∨ !w.room then .next s
  else match s.hostRead w.func w.under (w.rbase + 128 * (w.head % 2 ^ w.logn)) 128 with
    | none => .next (s.onQueue n fun w => { w.error 1 with stopped := true })
    | some x =>
      let s := s.onQueue n fun w => { w with head := (w.head + 1) % 2 ^ 32 }
      let s := State.accept { s with launchNum := s.launchNum + 1 } s.launchNum (w.source n) x (s.now + 749)
      .next ((s.exactly 749 .groupPlacement).scheduleOnce 1 (.launchAccept q))

/-- SPAWN_RELEASE (24 R391): every record of the die's spawn queue whose spawner's earlier stores have performed is
taken. -/
def execSpawnRelease (die : BitVec 2) (s : State) : Out :=
  let mine := s.spawns.filter fun r => r.src.die = die.toNat
  let ready := mine.filter fun r => !(s.coreOf r.core).storesBefore 2 r.issue
  let due (r : Spawn) : Nat := max s.now (r.at' + 62)
  let s := ready.foldl (fun s r => (s.accept r.num r.src r.words (due r)).exactly (due r - s.now) .groupPlacement)
    { s with spawns := s.spawns.filter fun r => !ready.contains r }
  .next (if ready.length < mine.length then s.scheduleOnce 1 (.spawnRelease die) else s)

/-- A doorbell page is the function's: the physical function's, or that of the one the queue is bound to. -/
def WorkQueue.admits (w : WorkQueue) (fn : Nat) : Bool := fn = 0 || w.func = fn

/-- DOORBELL_TAIL (20 R316, R317). -/
def execDoorbellTail (fn : BitVec 5) (q : BitVec 12) (x : BitVec 32) (s : State) : Out :=
  let n := q.toNat
  let w := s.queue n
  if !w.admits fn.toNat then .next s
  else if 2 ^ w.logn < (x.toNat + 2 ^ 32 - w.head) % 2 ^ 32 then .next (s.onQueue n fun w => w.error 0)
  else .next ((s.onQueue n fun w => { w with tail := x.toNat }).scheduleOnce 1 (.launchAccept q))

/-- DOORBELL_CHEAD (20 R317). -/
def execDoorbellChead (fn : BitVec 5) (q : BitVec 12) (x : BitVec 32) (s : State) : Out :=
  let n := q.toNat
  if !(s.queue n).admits fn.toNat then .next s
  else .next ((s.onQueue n fun w => { w with chead := x.toNat }).scheduleOnce 1 (.launchAccept q))

/-- The fields set when EN is (20 R316): EN stays 0 where one is out of range. -/
def WorkQueue.setFlags (w : WorkQueue) (x : Nat) : WorkQueue :=
  if w.en then (if bitAt x 0 then w else { w with flags := setField w.flags 0 1 0, stopped := false })
  else
    let ok := 4 ≤ w.logn && w.logn ≤ 16 && w.func ≤ 16 && x / 8 == 0 && w.pasid / 2 ^ 20 == 0
    { w with flags := if ok then x else setField x 0 1 0, stopped := false }

/-- QUEUE_ENABLE (20 R316). -/
def execQueueEnable (q : BitVec 12) (x : BitVec 8) (s : State) : Out :=
  .next ((s.onQueue q.toNat fun w => w.setFlags (setField x.toNat 0 1 1)).scheduleOnce 1 (.launchAccept q))

/-- QUEUE_DISABLE (20 R316): no record is read any more; launches already read go on. -/
def execQueueDisable (q : BitVec 12) (s : State) : Out :=
  .next (s.onQueue q.toNat fun w => { w with flags := setField w.flags 0 1 0, stopped := false })

/-- ERR is cleared where ones are written. -/
def WorkQueue.clearErr (w : WorkQueue) (x : Nat) : WorkQueue := { w with err := w.err - (w.err &&& (x % 8)) }

/-- QUEUE_ERROR_CLEAR (20 R316). -/
def execQueueErrorClear (q : BitVec 12) (x : BitVec 32) (s : State) : Out :=
  .next (s.onQueue q.toNat fun w => w.clearErr x.toNat)

/-- A write of one field of a configuration entry, by its offset. -/
def WorkQueue.write (w : WorkQueue) (off x : Nat) : WorkQueue :=
  if off = 0x34 then w.clearErr x
  else if off = 0x1B then w.setFlags (x % 256)
  else if w.en then w
  else if off = 0x00 then { w with rbase := x }
  else if off = 0x08 then { w with cbase := x }
  else if off = 0x10 then { w with ctx := x }
  else if off = 0x18 then { w with logn := x % 256 }
  else if off = 0x19 then { w with func := x % 256 }
  else if off = 0x1A then { w with prio := x % 256 }
  else if off = 0x1C then { w with pasid := x % 2 ^ 32 }
  else if off = 0x20 then { w with msix := x % 2 ^ 16 }
  else w

/-- QUEUE_CONFIG_WRITE (20 R316). -/
def execQueueConfigWrite (q : BitVec 12) (off : BitVec 6) (x : BitVec 64) (s : State) : Out :=
  .next ((s.onQueue q.toNat fun w => w.write off.toNat x.toNat).scheduleOnce 1 (.launchAccept q))

/-! ### The host's answers (20 R313, R314) -/

/-- A PASID argument: bit 20 says that it is valid. -/
def pasidOf (p : BitVec 21) : Option Nat := if p.msb then some (p.toNat % 2 ^ 20) else none

/-- PAGE_REQUEST_RESPONSE (20 R314): 0 success, 1 invalid request, 2 response failure. -/
def execPageRequestResponse (fn : BitVec 5) (pasid : BitVec 21) (iova : BitVec 52) (code : BitVec 2) (page : BitVec 52)
    (s : State) : Out :=
  let p : HostPage := { fn := fn.toNat, pasid := pasidOf pasid, iova := iova.toNat, page := page.toNat }
  let same (x : HostPage) : Bool := x.fn = p.fn && x.pasid = p.pasid && x.iova = p.iova
  let s := { s with pageReqs := s.pageReqs.filter fun x => !same x }
  if code = 0 then
    .next { s with iommu := p :: s.iommu.filter (fun x => !same x), refused := s.refused.filter fun x => !same x }
  else .next { s with refused := p :: s.refused.filter (fun x => !same x)
                      noPages := if code = 1 then s.noPages else p.fn :: s.noPages.filter (· ≠ p.fn) }

/-- ATS_INVALIDATION (20 R313): the J77 no longer uses the page's translation. -/
def execAtsInvalidation (fn : BitVec 5) (pasid : BitVec 21) (iova : BitVec 52) (s : State) : Out :=
  .next { s with iommu := s.iommu.filter fun x => !(x.fn = fn.toNat && x.pasid = pasidOf pasid && x.iova = iova.toNat) }

/-! ### Clocks (19 R305, R306) -/

/-- A clock's period changes with the stretch: the enabled edges it has seen stay. -/
def Clock.retime (k : Clock) (old per : Nat) : Clock := { k with phase := k.phase * per / max 1 old, per := per }

/-- A core takes a stretch. -/
def Core.setStretch (c : Core) (k : Nat) : Core :=
  let t (x : Clock) (d : Nat) : Clock := x.retime x.per (d * k)
  { c with stretch := k, ctl := t c.ctl c.divs.1, mat := t c.mat c.divs.2.1, vec := t c.vec c.divs.2.2.1
           cpy := t c.cpy c.divs.2.2.2 }

/-- The smallest requested divisor of a core. -/
def Core.minDiv (c : Core) : Nat := min (min c.divs.1 c.divs.2.1) (min c.divs.2.2.1 c.divs.2.2.2)

/-! ### Cores of a group -/

/-- The bank that holds the task's own context. -/
def Core.taskBank (c : Core) : Bank := if c.bank.use = .task then c.bank else c.other

/-- The cores of a core's group, those that have ended included. -/
def State.groupCores (s : State) (c : Core) : List Core :=
  match c.task with
  | none => []
  | some t => s.cores.filter fun d => match d.task with
    | some u => u.launch = t.launch && u.first = t.first
    | none => false

/-- The cores of a core's freeze domain, those that have ended included (02 R42). -/
def State.domainCores (s : State) (c : Core) : List Core :=
  match c.task with
  | none => []
  | some t => s.cores.filter fun d => match d.task with
    | some u => u.launch = t.launch && (u.first = t.first || (t.bc && clusterOf d.id = clusterOf c.id))
    | none => false

/-- The stretch of a core's freeze domain computed anew, over all its cores (19 R306): those whose task has ended keep
the divisors they requested while their group stays. -/
def State.restretch (s : State) (n : Nat) : State :=
  let c := s.coreOf n
  let dom := if c.task.isNone then [c] else s.domainCores c
  let low := dom.foldl (fun m c => min m c.minDiv) 8
  let k := max 1 (ceilDiv s.cryo.floor (max 1 low))
  dom.foldl (fun s c => s.onCoreOf c.id fun c => if c.stretch = k then c else c.setStretch k) s

/-- A core without its task: what belongs to no context stays. -/
def Core.idle (c : Core) : Core :=
  { id := c.id, bank := { id := c.bank.id }
    other := if c.other.use = .preloaded then c.other else { id := c.other.id }
    ctl := c.ctl, mat := c.mat, vec := c.vec, cpy := c.cpy, nextAt := c.nextAt, seq := c.seq
    spad := c.spad, wbuf := c.wbuf, micro := c.micro, routines := c.routines
    chans := c.chans.map fun ch => (ch.1, { ch.2 with queue := [] })
    elim := c.elim, frzc := c.frzc, sllen := c.sllen, slhop := c.slhop, window := c.window, accSeq := c.accSeq, stretch := c.stretch }

/-- Pushed stores and atomics of a core perform; what is held is left (15 R275). -/
def State.flush (s : State) (n : Nat) : State :=
  [0, 1].foldl (fun s i =>
    let b := (s.coreOf n).bankOf i
    let s := (b.stq.filter fun x => !x.held && x.known && x.kind ≠ .qpush && x.kind ≠ .recvLine).foldl
      (fun s x => s.storeElts n i x) s
    (b.laq.filter fun x => !x.held && x.known && x.kind.isAtomic && x.reply.isNone).foldl
      (fun s x => (s.atomPerform n i x).1) s) s

/-- A task's context is discarded (15 R275): stores perform, the arrival at a barrier is withdrawn. -/
def State.dropCore (s : State) (n : Nat) : State :=
  let c := s.coreOf n
  let s := s.flush n
  let s := s.withdraw ((c.task.map Task.launch).getD 0) c.taskBank.sys.taskix.toNat
  { s with queueWaits := s.queueWaits.filter fun w => w.core ≠ n }.onCoreOf n Core.idle

/-- The groups of a launch are terminated: their cores, and what is saved of them. -/
def State.dropLaunch (s : State) (id : Nat) : State :=
  let mine := s.cores.filter fun c => match c.task with
    | some t => t.launch = id
    | none => false
  mine.foldl (fun s c => s.dropCore c.id) { s with saved := s.saved.filter fun x => x.launch ≠ id }

/-- TCAUSE, core, TPC and TVAL of a terminated group (20 R320, KIND 7). -/
def Core.deathDetail (c : Core) : Nat :=
  let r := c.bank.sys
  r.tcause.toNat % 2 ^ 16 + c.id * 2 ^ 16 + field r.tpc.toNat 0 40 * 2 ^ 24 + r.tval.toNat * 2 ^ 64

/-- The groups of a broadcast launch that stay in a cluster compute their stretch anew (02 R42, 19 R306). -/
def State.leaveBus (s : State) (t : Task) (n : Nat) : State :=
  if !t.bc then s
  else match s.cores.find? (fun c => c.running && clusterOf c.id = clusterOf n && (c.task.map Task.launch) = some t.launch) with
    | some c => s.restretch c.id
    | none => s

/-- TASK_END (25 R396, 02 R27, R34, 15 R253, R256): a task has ended by TEND, or its group is terminated. -/
def execTaskEnd (core : BitVec 8) (dead : Bool) (s : State) : Out :=
  let s := s.focus core.toNat
  match s.core.task with
  | none => .next s
  | some t =>
    let group := s.groupCores s.core
    if dead then
      let s := if bitAt s.core.bank.sys.tpc.toNat 63 then s else s.logEvent 7 (dieOf s.core.id) s.core.deathDetail
      let lost := (group.filter fun c => c.taskBank.use = .task).length
      -- a task that executed TRIG and is terminated counts as having executed neither (02 R34)
      let undone := (group.filter fun c => c.taskBank.use = .task && c.taskBank.trig && c.taskBank.trigAt.isNone).length
      let s := s.onLaunch t.launch fun l =>
        { l with dead := l.dead + lost, bad := true, trig := if l.triggered then l.trig else l.trig - undone }
      .next (((group.foldl (fun s c => s.dropCore c.id) s).launchDone t.launch).placeSoon 1)
    else
      let counted := s.core.bank.trig && s.core.bank.trigAt.isNone
      let s := { s with queueWaits := s.queueWaits.filter fun w => w.core ≠ s.core.id }.onCore fun c => { c.idle with task := c.task, divs := c.divs }
      let s := s.onLaunch t.launch fun l => { l with ended := l.ended + 1 }
      let s := if counted then s else s.trigger t.launch
      let s := if (group.filter fun c => c.id ≠ s.core.id).any Core.running then s
        else ((group.foldl (fun s c => s.onCoreOf c.id fun c => { c with task := none }) s).placeSoon 1).leaveBus t s.core.id
      .next (s.launchDone t.launch)

/-- FUNCTION_LEVEL_RESET (20 R318): the records its queues still hold end too. -/
def State.resetQueue (s : State) (q : Nat) : Nat → State
  | 0 => s
  | k + 1 =>
    let w := s.queue q
    if w.unread = 0 || !w.room then s
    else match s.hostRead w.func w.under (w.rbase + 128 * (w.head % 2 ^ w.logn)) 128 with
      | none => s.onQueue q fun w => w.error 1
      | some x =>
        let s := s.onQueue q fun w => { w with head := (w.head + 1) % 2 ^ 32 }
        State.resetQueue (s.retire (parseLaunch 0 (w.source q) x) 5) q k

/-- FUNCTION_LEVEL_RESET (20 R316, R318). -/
def execFunctionLevelReset (fn : BitVec 5) (s : State) : Out :=
  let f := fn.toNat
  let mine := s.launches.filter fun l => l.src.fn = f
  let s := mine.foldl (fun s l => s.dropLaunch l.id) s
  let s := mine.foldl (fun s l => s.retire l (if l.started then 4 else 5)) s
  let posted := s.spawns.filter fun r => r.src.fn = f
  let s := posted.foldl (fun s r => s.retire (parseLaunch r.num r.src r.words) 5)
    { s with spawns := s.spawns.filter fun r => r.src.fn ≠ f }
  let bound := (s.queues.filter fun e => e.2.func = f && e.2.en).map Prod.fst
  let s := bound.foldl (fun s q => s.resetQueue q ((s.queue q).unread)) s
  let s := { s with queues := (s.queues.map fun (e : Nat × WorkQueue) =>
                                if e.2.func = f then (e.1, { e.2 with flags := setField e.2.flags 0 1 0 }) else e).filter fun e => e.2 ≠ ({} : WorkQueue)
                    noPages := s.noPages.filter (· ≠ f), refused := s.refused.filter fun p => p.fn ≠ f
                    pageReqs := s.pageReqs.filter fun p => p.fn ≠ f }
  .next (s.placeSoon 1)

/-! ### Placing a group (02 R27-R30, R39) -/

/-- The cores of a position. -/
def posCores (g pos : Nat) : List Nat := (List.range g).map fun i => pos * g + i

/-- A core may take a new task. -/
def State.vacant (s : State) (n : Nat) : Bool := (s.coreOf n).task.isNone && !(s.coreOf n).running

/-- The dispatchers place groups (19 R298, R300, R312). -/
def State.mayPlace (s : State) (diag : Bool) : Bool :=
  let c := s.cryo
  c.released && !c.frozen && !c.closing &&
    (if c.wm then diag else c.state = 5 || c.state = 6 || (c.state = 8 && c.band = 4 && diag))

/-- Another launch's broadcast group holds the cluster (04 R95). -/
def State.busTaken (s : State) (l : Launch) (cores : List Nat) : Bool :=
  l.bc && s.cores.any fun c => match c.task with
    | some t => t.bc && t.launch ≠ l.id && t.launch ≠ 0 && cores.any fun n => clusterOf n = clusterOf c.id
    | none => false

/-- The system registers of a task at its placement (02 R39). -/
def Launch.regs (l : Launch) (n ix : Nat) : SysRegs :=
  let w (x : Nat) : Word := BitVec.ofNat 64 x
  { fmode := w (setField (l.fmode &&& 0x1F0FFF) 12 1 (if l.det then 1 else 0))
    tvec := w l.tmpl.tvec, ttbase := w l.tmpl.ttbase, slbase := w l.tmpl.slbase, slctl := w l.tmpl.slctl
    limit := l.tmpl.limit, prew := w l.tmpl.prew, killt := w l.tmpl.killt
    retryh := w (field (l.tmpl.carea + n * 2 ^ 26) 26 14 * 2 ^ 26)
    wid := w (l.wid ix), lseed := w l.lseed, taskix := w ix, bgrp := w l.bgrp }

/-- One core takes a task of a launch: the bank its group was pre-loaded in, or the executing one. -/
def State.placeCore (s : State) (l : Launch) (k pos i : Nat) : State :=
  let g := l.gsize
  let n := pos * g + i
  let ix := k * g + i
  let t : Task :=
    { launch := l.id, k := k, first := pos * g, size := g, index := ix, ntask := l.ntask, image := l.image, imlen := l.imlen
      bc := l.bc, det := l.det, prio := l.prio, tokens := l.tokens, fn := l.src.fn, pasid := l.src.pasid, pv := l.src.pv
      ctx := l.src.ctx, diag := l.src.diag, ckpt := l.ckpt, idem := l.idem, est := l.est, tag := l.tag, began := s.now, fw := l.fw }
  let key := if l.det then mix (BitVec.ofNat 64 l.lseed) ix else Config.entropy s.draws
  let s := if l.det then s else { s with draws := s.draws + 1 }
  let now := s.now
  let s := s.onCoreOf n fun c =>
    let swap := c.other.use = .preloaded
    let b : Bank := { id := if swap then c.other.id else c.bank.id, use := .task, pc := (l.image + l.entry) % 2 ^ 40
                      sys := l.regs n ix, rbq := { key := key } }
    { c.idle with running := true, task := some t, bank := b, other := { id := if swap then c.bank.id else c.other.id }
                  ctl := {}, mat := {}, vec := {}, cpy := {}, stretch := 1, nextAt := now, path := { at' := now }, chans := [] }
  let me := s.core.id
  let s := s.focus n
  (s.onSys fun r => { r with sig := s.sigValue s.core.bank }).focus me

/-- A group starts at a position: its tasks issue their first bundle in one cycle (02 R27). -/
def State.startGroup (s : State) (l : Launch) (k pos : Nat) : State :=
  let s := (List.range l.gsize).foldl (fun s i => s.placeCore l k pos i) s
  (s.onLaunch l.id fun l => { l with started := true }).restretch (pos * l.gsize)

/-- Whether a group of a launch can start at a position whose cores no other claim takes. -/
def State.canStart (s : State) (taken : List Nat) (l : Launch) (pos : Nat) : Bool :=
  let cs := posCores l.gsize pos
  (cs.all fun n => s.vacant n && !taken.contains n && !s.retired.contains n) && !s.busTaken l cs

/-- The free position of lowest number, the receiving die first and then round the ring (02 R29). -/
def State.search (s : State) (taken : List Nat) (l : Launch) : Option Nat :=
  let per := 64 / l.gsize
  ((List.range 4).flatMap fun d => (List.range per).map fun i => (l.src.die + d) % 4 * per + i).find? fun pos =>
    (posCores l.gsize pos).all fun n => s.vacant n && !taken.contains n && !s.retired.contains n

/-- P(k) (02 R28). -/
def Launch.position (l : Launch) (k : Nat) : Nat := (mix (BitVec.ofNat 64 l.lseed) k).toNat % (256 / l.gsize)

/-! ### Pre-emption (02 R36) -/

/-- Nanoseconds of a group's estimate that remain. -/
def State.remaining (s : State) (t : Task) : Nat := t.est - (s.now - t.began) * 2 / 5

/-- The table of 02 R36 for a newcomer and a running group: a drain takes nothing. -/
def State.preemptBy (s : State) (l : Launch) (c : Core) : State :=
  match c.task with
  | none => s
  | some t =>
    let dom := s.domainCores c
    let r := c.taskBank.sys
    let mark (kill : Bool) : State :=
      dom.foldl (fun s d => s.onCoreOf d.id fun d => { d with preempt := some { kill := kill, tag := l.tag % 2 ^ 48 } }) s
    if s.remaining t ≤ r.prew.toNat then s
    else if t.ckpt then mark false
    else if t.idem && r.killt.toNat ≤ l.tokens && !(dom.any fun d => d.taskBank.use ≠ .task || d.taskBank.trig) then
      (mark true).onLaunch l.id fun l => { l with tokens := l.tokens - r.killt.toNat }
    else s

/-- A running group that may be pre-empted by a newcomer of a level: its first core. -/
def Core.preemptible (c : Core) (level : Nat) : Bool :=
  match c.task with
  | some t => t.launch ≠ 0 && c.preempt.isNone && t.prio < level
  | none => false

/-- Positions promised to groups that wait. -/
def State.promised (s : State) : List Nat :=
  s.launches.flatMap fun l => (l.waiting.filter fun w => w.2 < 256).flatMap fun w => posCores l.gsize w.2

/-- The group a newcomer outside deterministic mode considers: of lowest priority, least remaining, lowest
position. -/
def State.victim (s : State) (l : Launch) : Option Core :=
  let out := s.promised
  let cand := s.cores.filter fun c => c.preemptible l.level && (c.task.map Task.first) = some c.id &&
    !((s.groupCores c).any fun d => out.contains d.id) && (s.groupCores c).any Core.running
  let key (c : Core) : Nat := match c.task with
    | some t => t.prio * 2 ^ 80 + s.remaining t * 2 ^ 16 + c.id
    | none => 0
  (sortBy key cand).head?

/-- Every lower group on a waiting group's position is considered (02 R36). -/
def State.preemptAt (s : State) (l : Launch) (pos : Nat) : State :=
  (posCores l.gsize pos).foldl (fun s n => match s.launch? l.id with
    | some l => if (s.coreOf n).preemptible l.level then s.preemptBy l (s.coreOf n) else s
    | none => s) s

/-! ### The dispatcher's pass -/

/-- A pass's state: the machine, and the cores claimed by groups that wait. -/
structure Pass where
  s : State
  taken : List Nat := []
  deriving DecidableEq, Repr

/-- A group that waits: it starts, or its position stays claimed. -/
def Pass.tryWaiting (p : Pass) (id : Nat) (w : Nat × Nat) : Pass :=
  match p.s.launch? id with
  | none => p
  | some l =>
    let pos := if w.2 < 256 then some w.2 else match p.s.search p.taken l with
      | some pos => some pos
      -- a killed group that finds no free position is a newcomer again (02 R36)
      | none => (p.s.victim l).map fun c => c.id / l.gsize
    match pos with
    | none => p
    | some pos =>
      if p.s.canStart p.taken l pos then
        { p with s := (p.s.onLaunch id fun l => { l with waiting := l.waiting.filter (· ≠ w) }).startGroup l w.1 pos }
      else
        let s := p.s.onLaunch id fun l => { l with waiting := l.waiting.map fun x => if x = w then (w.1, pos) else x }
        { s := s.preemptAt l pos, taken := posCores l.gsize pos ++ p.taken }

/-- The next groups of a launch, in ascending k (02 R30): at most 256 wait. -/
def Pass.assign (p : Pass) (id : Nat) : Nat → Pass
  | 0 => p
  | fuel + 1 =>
    match p.s.launch? id with
    | none => p
    | some l =>
      let k := l.next
      if l.ntask ≤ k * l.gsize ∨ 256 ≤ l.waiting.length ∨ l.waiting.any (fun w => decide (256 ≤ w.2)) then p
      else
        let step (pos : Nat) : Pass :=
          let s := p.s.onLaunch id fun l => { l with next := k + 1 }
          if s.canStart p.taken l pos then { p with s := s.startGroup l k pos }
          else { s := (s.onLaunch id fun l => { l with waiting := l.waiting ++ [(k, pos)] }).preemptAt l pos
                 taken := posCores l.gsize pos ++ p.taken }
        if l.det then Pass.assign (step (l.position k)) id fuel
        else match p.s.search p.taken l with
          | some pos => Pass.assign (step pos) id fuel
          | none => match p.s.victim l with
            | some c => Pass.assign (step (c.id / l.gsize)) id fuel
            | none => p

/-- One launch's turn. -/
def Pass.launch (p : Pass) (id : Nat) : Pass :=
  match p.s.launch? id with
  | none => p
  | some l =>
    let p := (sortBy Prod.fst l.waiting).foldl (fun p w => p.tryWaiting id w) p
    p.assign id 512

/-- A checkpointed group's turn: it resumes when its cores are free, and keeps them from what comes after it. -/
def Pass.resume (p : Pass) (x : Saved) : Pass :=
  let ids := x.cores.map Core.id
  let bus := match p.s.launch? x.launch with
    | some l => p.s.busTaken l ids
    | none => false
  if !bus && ids.all (fun n => p.s.vacant n && !p.taken.contains n) then
    let s := x.cores.foldl (fun s c => s.onCoreOf c.id fun d => { d with task := c.task }) p.s
    { p with s := s.schedule 1500 (.groupResume (BitVec.ofNat 8 (ids.headD 0))) }
  else { p with taken := ids ++ p.taken }

/-- A group of deterministic mode that waits for its position is pre-loaded there (02 R37). -/
def State.preload (s : State) : State :=
  (s.launches.filter Launch.det).foldl (fun s l => l.waiting.foldl (fun s w => (posCores l.gsize w.2).foldl (fun s n =>
    s.onCoreOf n fun c => if c.task.isSome && c.bank.use = .task && c.other.use = .empty then
      { c with other := { c.other with use := .preloaded } } else c) s) s) s

/-- GROUP_PLACEMENT (02 R28-R36): the ready launches and checkpointed groups have their turns, by level and then in
arrival order. -/
def execGroupPlacement (s : State) : Out :=
  let ready := s.launches.filter fun l => l.deps.isEmpty && decide (l.due ≤ s.now) && s.mayPlace l.src.diag
  let back := s.saved.filter fun x => (x.cores.all fun c => (c.task.map Task.diag).all s.mayPlace)
  let turns : List (Nat × (Saved ⊕ Nat)) :=
    back.map (fun x => ((7 - x.prio) * 2 ^ 80, .inl x)) ++ ready.map (fun l => ((7 - l.level) * 2 ^ 80 + 1 + l.id, .inr l.id))
  let p := (sortBy Prod.fst turns).foldl (fun (p : Pass) t => match t.2 with
    | .inl x => p.resume x
    | .inr id => p.launch id) { s := s }
  .next p.s.preload

/-- STARVATION_BOUND (02 R33).  A launch with a group not placed, or assigned a position and waiting for it, counts as
unplaced: the spec does not say when a launch of several groups does (DESIGN CHOICE, log 50). -/
def execStarvationBound (launch : BitVec 64) (s : State) : Out :=
  match s.launch? launch.toNat with
  | none => .next s
  | some l =>
    if l.ntask ≤ l.next * l.gsize ∧ l.waiting.isEmpty then .next s
    else
      let s := s.onLaunch l.id fun l => { l with rise := if l.level < 7 then l.rise + 1 else l.rise }
      .next ((s.exactly l.bound (.starvationBound launch)).placeSoon 1)

/-! ### Checkpoint and kill (15 R274-R277) -/

/-- A core stops for a pre-emption: a handler's work is abandoned and its trap stays pending (15 R277). -/
def Core.stopTask (c : Core) : Core :=
  let c := if c.bank.use = .supervisor then
      let b := c.other
      { c with bank := { b with pending := b.handled.toList ++ b.pending, handled := none }, other := { id := c.bank.id } }
    else if c.bank.use = .task then c.stopBank else c
  { c with running := false, returned := false, preempt := c.preempt.map fun p => { p with stopped := true } }

/-- The words of registers as bytes, from offset 0. -/
def Words.bytes (x : Words) : Memory :=
  x.flatMap fun (e : Nat × Lane) => ((List.range 4).map fun j => (4 * e.1 + j, BitVec.ofNat 8 (e.2.toNat / 256 ^ j))).filter
    fun (b : Nat × Byte) => b.2 ≠ 0

/-- Bytes as words. -/
def Memory.words (m : Memory) : Words :=
  m.foldl (fun (acc : Words) (b : Nat × Byte) =>
    SMap.set 0 acc (b.1 / 4) (acc.at (b.1 / 4) + BitVec.ofNat 32 (b.2.toNat * 256 ^ (b.1 % 4)))) []

/-- Registers of `n` words each, one after another. -/
def packRegs (l : SMap Words) (n : Nat) : Words := l.flatMap fun (e : Nat × Words) => e.2.map fun (w : Nat × Lane) => (n * e.1 + w.1, w.2)

/-- The byte address of a core's save slot for a priority (15 R273). -/
def Bank.slot (b : Bank) (prio : Nat) : Nat := b.area + 0x100000 + prio * 0x400000

/-- The areas of a save slot, each with its offset, its size and the bytes that the machine writes there (15 R273).  Of the
areas whose inner layout the spec does not give, the bytes are free values of the draw `k`, and their contents stay beside
them in `Saved` (log 50). -/
def Core.slotAreas (c : Core) (k : Nat) : List (Nat × Nat × List (Nat × Byte)) :=
  let b := c.bank
  let free (lo n : Nat) : Nat × Nat × List (Nat × Byte) := (lo, n, (List.range n).map fun i => (i, Config.slotByte k (lo + i)))
  [free 0 0x10000, (0x10000, 0x2000, (packRegs b.v 64).bytes), free 0x12000 0x2000, free 0x20000 0x20000,
   (0x40000, 0x80000, (packRegs b.t 4096).bytes), (0x100000, 0x100000, c.wbuf), (0x200000, 0x200000, c.spad)]

/-- An area of a save slot at `a` is written. -/
def State.putArea (a : Nat) (s : State) (r : Nat × Nat × List (Nat × Byte)) : State :=
  let lo := a + r.1
  { s with hbm := SMap.splice Memory.blank s.hbm lo (lo + r.2.1) (r.2.2.map fun e => (lo + e.1, e.2))
           flags := s.flags.filter (FlagLine.keeps lo r.2.1) }

/-- A core's save slot is written. -/
def State.saveSlot (s : State) (c : Core) (prio : Nat) : Chk State :=
  let a := c.bank.slot prio
  if a + 0x400000 ≤ hbmSize then .ok ((c.slotAreas s.draws).foldl (State.putArea a) { s with draws := s.draws + 1 })
  else .error (.fault (.noSuchAddress a))

/-- PREEMPT in the supervisor bank (15 R276); with TVEC 0 the position is free at once. -/
def Core.preempted (c : Core) (tval : Nat) (now : Nat) : Core :=
  let b := c.bank
  if b.use ≠ .task ∨ b.sys.tvec = 0 then c.idle
  else
    let sup := if c.other.use = .supervisor then c.other else freshSupervisor c.other.id b.sys
    { c.idle with running := true, task := c.task.map fun t => { t with launch := 0 }, nextAt := now, stretch := c.stretch
                  bank := { sup with pc := b.sys.tvec.toNat, bubbles := 0, resumed := sup.issues + 1
                                     sys := sup.sys.entered cPreempt b.pc (BitVec.ofNat 64 tval) }
                  other := { id := b.id } }

/-- The groups of a killed freeze domain wait for their places again, ahead of those not placed yet. -/
def State.requeue (s : State) (cores : List Core) : State :=
  (cores.filter fun c => (c.task.map Task.first) = some c.id).foldl (fun s c => match c.task with
    | some t => s.onLaunch t.launch fun l => { l with waiting := l.waiting ++ [(t.k, if l.det then l.position t.k else 256)] }
    | none => s) s

/-- The freeze domain of core `n` stops at a bundle for its pre-emption (15 R274, R275): a kill is over at once, a
checkpoint when its save slots are written. -/
def State.stopDomain (s : State) (n : Nat) : State :=
  let c := s.coreOf n
  let dom := (s.domainCores c).map Core.id
  match c.preempt with
  | none => s
  | some p =>
    let cores := dom.map fun k => (s.coreOf k).stopTask
    if p.kill then
      let s := s.requeue cores
      let s := dom.foldl (fun s k =>
        let d := (s.coreOf k).stopTask
        let s := s.flush k
        let s := s.withdraw ((d.task.map Task.launch).getD 0) d.bank.sys.taskix.toNat
        let s := { s with queueWaits := s.queueWaits.filter fun w => w.core ≠ k }
        s.onCoreOf k fun _ => d.preempted (2 + p.tag * 2 ^ 16) s.now) s
      ((dom.foldl State.restretch s).switchTime dom).placeSoon 1
    else
      let s := dom.foldl (fun s k => s.onCoreOf k Core.stopTask) s
      s.schedule 75000 (.checkpointSaveComplete (BitVec.ofNat 8 (dom.headD n)))

/-- CHECKPOINT_SAVE_COMPLETE (15 R273, R274, R276). -/
def execCheckpointSaveComplete (core : BitVec 8) (s : State) : Out :=
  let n := core.toNat
  let c := s.coreOf n
  match c.preempt, c.task with
  | some p, some t =>
    if !p.stopped then .next s
    else finish s do
      let cores := s.domainCores c
      let s ← cores.foldl (fun (r : Chk State) d => r.bind fun s =>
        if d.bank.use = .task then s.saveSlot d t.prio else .ok s) (.ok s)
      let s := { s with saved := s.saved ++ [{ launch := t.launch, prio := t.prio, cores := cores }]
                        queueWaits := s.queueWaits.filter fun w => !(cores.any fun d => d.id = w.core) }
      let s := cores.foldl (fun s d => s.onCoreOf d.id fun d => d.preempted (1 + t.prio % 8 * 2 ^ 8 + p.tag * 2 ^ 16) s.now) s
      let ids := cores.map Core.id
      return ((ids.foldl State.restretch s).switchTime ids).placeSoon 1
  | _, _ => .next s

/-! ### Resume (15 R273, R278) -/

/-- The parts a restore brings lazily, in ascending slot offset (15 R278). -/
def lazyParts : List Part :=
  (List.range 32).map Part.v ++ [.crf, .micro] ++ (List.range 32).map Part.tile ++ (List.range 32).map Part.wbuf ++
    (List.range 64).map Part.spad

/-- A bank as restored: registers and tiles from its slot, caches and windows empty, replay entries in flight again,
held accesses to be translated afresh. -/
def State.restoreBank (s : State) (c : Core) (prio : Nat) : Bank :=
  let b := c.bank
  let a := b.slot prio
  let vs := Memory.words (SMap.slice s.hbm (a + 0x10000) (a + 0x12000) 0)
  let ts := Memory.words (SMap.slice s.hbm (a + 0x40000) (a + 0xC0000) 0)
  let free (y : Access) : Access := { y with held := false }
  { b with v := SMap.tabulate [] (List.range 32) (fun r => SMap.slice vs (64 * r) (64 * r + 64) 0)
           t := SMap.tabulate [] (List.range 32) (fun r => SMap.slice ts (4096 * r) (4096 * r + 4096) 0)
           descs := [], spans := [], windows := [], ring := [], laq := b.laq.map free, stq := b.stq.map free
           inflight := b.replay.map (restore c), replay := [], resumed := b.issues + 1, bubbles := 0
           absent := lazyParts }

/-- A bank hears the releases that took place while it was away. -/
def State.catchUp (s : State) (launch : Nat) (b : Bank) : Bank :=
  b.arrived.foldl (fun b a =>
    let bar := s.barrier launch a.barrier
    if !a.released ∧ a.gen < bar.gen then
      b.release a.barrier a.gen (((bar.past.find? fun p => p.1 = a.gen).map Prod.snd).getD {})
    else b) b

/-- One core is restored. -/
def State.restoreCore (s : State) (c : Core) (prio : Nat) : State :=
  let a := c.bank.slot prio
  let n := c.id
  let live := c.bank.use = .task
  let b := if live then s.catchUp ((c.task.map Task.launch).getD 0) (s.restoreBank c prio) else c.bank
  let now := s.now
  let hbm := s.hbm
  let s := s.onCoreOf n fun d =>
    { c with running := live, bank := b, other := { id := 1 - b.id }
             nextAt := now, frozen := 0, held := 0, frzc := d.frzc, elim := d.elim, seq := max c.seq d.seq
             accSeq := max c.accSeq d.accSeq, fetched := [], preempt := none, recvFrom := none
             spad := if live then SMap.slice hbm (a + 0x200000) (a + 0x400000) 0 else d.spad
             wbuf := if live then SMap.slice hbm (a + 0x100000) (a + 0x200000) 0 else d.wbuf
             relax := c.relax.map fun r => if r.started then r else { r with issued := now }
             -- what an error stopped is read once more (04 R100)
             chans := d.chans.map fun ch => (ch.1, { ch.2 with queue := match ch.2.queue with
               | t :: q => { t with stopped := if t.stopped = 2 then 3 else t.stopped } :: q
               | [] => [] })
             rowOps := c.rowOps.map fun r =>
               let r := { r with stopped := if r.stopped = 2 then 3 else r.stopped }
               if r.paused then { r with paused := false, next := r.next + c.mat.cycles } else r }
  if !live then s
  else
    let me := s.core.id
    let s := s.focus n
    -- a relaxation stopped between iterations goes on once, for all its cores; one that waits for a core goes on waiting
    let s := match c.relax with
      | some r => if r.started then (if r.cores.head? = some n then s.dueIn .mat 0 (.relaxIteration (BitVec.ofNat 8 n)) else s)
        else s.exactly (2 ^ 20) (.relaxAbsentCore (BitVec.ofNat 8 (r.cores.headD n)))
      | none => s
    let s := (b.laq ++ b.stq).foldl (fun s x =>
      if x.reply.isSome then s
      else if x.known then s.start b.id x
      else s.schedule 1 (.spanEntryFetch (BitVec.ofNat 8 n) (BitVec.ofNat 1 b.id) (BitVec.ofNat 48 x.seq))) s
    let s := [0, 1, 2, 3].foldl (fun s k => s.chanGo n k 64) s
    (s.scheduleOnce 4000 (.backgroundFill (BitVec.ofNat 8 n))).focus me

/-- GROUP_RESUME (15 R278): the eager part is restored; a pending trap is delivered before the resume bundle. -/
def execGroupResume (core : BitVec 8) (s : State) : Out :=
  match s.saved.find? (fun x => (x.cores.head?.map Core.id) = some core.toNat) with
  | none => .next s
  | some x =>
    let s := { s with saved := s.saved.filter (· ≠ x) }
    let s := x.cores.foldl (fun s c => s.restoreCore c x.prio) s
    .next (s.restretch core.toNat)

/-- REGISTER_MISS (15 R278): the part is there, and MISSC counts the micro-trap. -/
def execRegisterMiss (core : BitVec 8) (part : BitVec 16) (s : State) : Out :=
  let meet (b : Bank) : Bank :=
    if b.absent.any fun p => p.code = part.toNat then
      { b with absent := b.absent.filter fun p => p.code ≠ part.toNat, sys := { b.sys with missc := b.sys.missc + 1 } }
    else b
  .next (s.onCoreOf core.toNat fun c => { c with bank := meet c.bank, other := meet c.other })

/-- BACKGROUND_FILL (15 R278): the next absent part arrives. -/
def execBackgroundFill (core : BitVec 8) (s : State) : Out :=
  let s := s.onCoreOf core.toNat fun c =>
    { c with bank := { c.bank with absent := c.bank.absent.drop 1 }, other := { c.other with absent := c.other.absent.drop 1 } }
  let c := s.coreOf core.toNat
  .next (if c.bank.absent.isEmpty && c.other.absent.isEmpty then s else s.scheduleOnce 4000 (.backgroundFill core))

end Sys2Proof.Machine
end

