-- ==== Sys2Proof/Machine/Cryo.lean ====
section
/-!
DEFINITION. Running at 77 K (19): the cryogenic state machine, bands and timing switches, divisors and the stretch,
coolant, soft errors and self-test, the freeze of the package; and the Eweral controller's commands and time
(20 R319-R321).
-/
namespace Sys2Proof.Machine

/-! ### CLKDIV and the governor's count (19 R307, 02 R45) -/

/-- CLKDIV (19 R307): its bundle issues under the old divisors; the change, after its hold, precedes the next. -/
def execClkdiv (a : GReg) (s : State) : Out :=
  finish s do
    let x := (s.g a).toNat
    need (x / 2 ^ 16 == 0) (violation 10)
    let f := divFields x
    need (f.1 ≤ 8 && f.2.1 ≤ 8 && f.2.2.1 ≤ 8 && f.2.2.2 ≤ 8) (violation 14)
    return s.putAfter (.clkdiv x)

/-- A divisor a CLKDIV's field replaces; the clock of a changed domain starts a fresh cycle. -/
def Clock.redivide (k : Clock) (new old : Nat) : Clock := if new = 0 ∨ new = old then k else { k with phase := 0 }

/-- The requested divisors after a CLKDIV (19 R307, R308). -/
def Core.divide (c : Core) (x floor : Nat) : Core :=
  let f := divFields x
  let pick (new old : Nat) : Nat := if new = 0 then old else new
  let k := c.stretch
  let d : Nat × Nat × Nat × Nat := (pick f.1 c.divs.1, pick f.2.1 c.divs.2.1, pick f.2.2.1 c.divs.2.2.1, pick f.2.2.2 c.divs.2.2.2)
  { c with divs := d
           ctl := { c.ctl.redivide f.1 c.divs.1 with per := d.1 * k }
           mat := { c.mat.redivide f.2.1 c.divs.2.1 with per := d.2.1 * k }
           vec := { c.vec.redivide f.2.2.1 c.divs.2.2.1 with per := d.2.2.1 * k }
           cpy := { c.cpy.redivide f.2.2.2 c.divs.2.2.2 with per := d.2.2.2 * k }
           fl := c.fl || d.1 < floor || d.2.1 < floor || d.2.2.1 < floor || d.2.2.2 < floor }

/-- CLKDIV_APPLY (19 R306, R307): the divisors change and the freeze domain's stretch is computed anew. -/
def execClkdivApply (core : BitVec 8) (x : BitVec 16) (s : State) : Out :=
  let floor := s.cryo.floor
  let s := s.onCoreOf core.toNat fun c =>
    let c := c.divide x.toNat floor
    { c with bank := { c.bank with after := c.bank.after.filter fun a => match a.1 with
      | .clkdiv _ => false
      | _ => true } }
  .next (s.restretch core.toNat)

/-- GOVERNOR_CYCLE (02 R45, R47): FRZC rises on every core of the group. -/
def execGovernorCycle (core : BitVec 8) (s : State) : Out :=
  let group := s.members (s.coreOf core.toNat)
  .next (group.foldl (fun s c => s.onCoreOf c.id fun c => { c with frzc := c.frzc + 1, gov := c.gov + 1 }) s)

/-! ### Bands (19 R301-R303) -/

/-- The band that holds a reading, in 1/64 K. -/
def bandOf (t : Nat) : Nat :=
  if t ≤ 82 * 64 then 0 else if t ≤ 95 * 64 then 1 else if t ≤ 130 * 64 then 2 else if t ≤ 200 * 64 then 3 else 4

/-- The lower bound of a band less 2 K, in 1/64 K. -/
def fallBound (band : Nat) : Nat :=
  match band with
  | 1 => 80 * 64
  | 2 => 93 * 64
  | 3 => 128 * 64
  | _ => 198 * 64

/-- TFLOOR of a band. -/
def floorOf (band : Nat) : Nat := if band ≤ 1 then 1 else if band = 2 then 2 else if band = 3 then 4 else 8

/-- Change the controller. -/
def State.onCryo (s : State) (f : Cryo → Cryo) : State := { s with cryo := f s.cryo }

/-- Every core's stretch is computed anew. -/
def State.restretchAll (s : State) : State := (s.cores.map Core.id).foldl State.restretch s

/-- TFLOOR takes a value; a rise sets CLKD.FL where a requested divisor lies below it (19 R303, R308). -/
def State.setFloor (s : State) (k : Nat) : State :=
  let rise := s.cryo.floor < k
  let s := s.onCryo fun c => { c with floor := k }
  let s := if rise then (s.cores.map Core.id).foldl (fun s n => s.onCoreOf n fun c =>
    if c.minDiv < k then { c with fl := true } else c) s else s
  s.restretchAll

/-- The next refresh window of a die's weight store (04 R90). -/
def State.windowSoon (s : State) (d : Nat) : State :=
  let e := Instr.refreshWindowStart (BitVec.ofNat 2 d)
  let s := { s with calendar := s.calendar.filter fun x => x.event ≠ e }
  let p := windowPeriod s.cryo.rband
  if p = 0 ∨ !s.cryo.released then s else s.exactly (nextWindow p d (s.counter d + 1) - s.counter d) e

/-- Refresh follows a band (19 R302, R303). -/
def State.refreshBand (s : State) (b : Nat) : State :=
  let s := s.onCryo fun c => { c with rband := b }
  [0, 1, 2, 3].foldl State.windowSoon s

/-- REFRESH_WINDOW_START (04 R90). -/
def execRefreshWindowStart (die : BitVec 2) (s : State) : Out :=
  let d := die.toNat
  let s := { s with windows := SMap.set 0 s.windows d (s.now + 2500) }.exactly 2500 (.refreshWindowEnd die)
  .next (s.windowSoon d)

/-- REFRESH_WINDOW_END (04 R90): waiting reads go on. -/
def execRefreshWindowEnd (die : BitVec 2) (s : State) : Out :=
  .next { s with windows := if SMap.get 0 s.windows die.toNat ≤ s.now then SMap.set 0 s.windows die.toNat 0 else s.windows }

/-- HBM4_REFRESH (19 R302, R311): a refresh command occupies a pseudo-channel for at most 0.35 us, how long the next of
`lates` says (log 42); in B0 there is none. -/
def execHbm4Refresh (stack : BitVec 4) (chan : BitVec 6) (s : State) : Out :=
  if s.cryo.rband = 0 then .next s
  else .next { s with refreshing := SMap.set 0 s.refreshing (64 * stack.toNat + chan.toNat) (s.now + (875 - s.lates.headD 0 % 875))
                      lates := s.lates.tail }

/-! ### The timing switch (19 R304) -/

/-- A timing switch begins with stack 0 unless one is under way or the set in force is the right one. -/
def State.switchBegin (s : State) : State :=
  let want := decide (2 ≤ s.cryo.band)
  if s.cryo.switch.isSome || s.cryo.neap = want then s
  else State.upTo { s with cryo := { s.cryo with switch := some (0, want) }, closed := some 0 } 5000 (.stackTimingSwitch 0)

/-- The dies stop for a freeze that waited for a unit to switch (19 R312). -/
def Cryo.stopIfAsked (c : Cryo) : Cryo := if c.freezing then { c with freezing := false, frozen := true } else c

/-- STACK_TIMING_SWITCH (19 R304): a closed unit, its queued accesses performed, has its new timing set and reopens;
the next one closes. -/
def execStackTimingSwitch (unit : BitVec 4) (s : State) : Out :=
  match s.cryo.switch with
  | none => .next s
  | some (k, want) =>
    if k ≠ unit.toNat then .next s
    else
      let s := s.onCryo Cryo.stopIfAsked
      if k < 15 then
        .next (State.upTo { s with cryo := { s.cryo with switch := some (k + 1, want) }, closed := some (k + 1) } 5000
          (.stackTimingSwitch (BitVec.ofNat 4 (k + 1))))
      else .next (State.exactly { s with closed := none } 0 .timingSwitchComplete)

/-- TIMING_SWITCH_COMPLETE (19 R303, R304): a second switch follows if the newest band needs the other set; else
refresh and the floor follow the band. -/
def execTimingSwitchComplete (s : State) : Out :=
  match s.cryo.switch with
  | none => .next s
  | some (_, want) =>
    let s := { s with cryo := { s.cryo with switch := none, neap := want }, closed := none }
    if want = decide (2 ≤ s.cryo.band) then .next ((s.refreshBand s.cryo.band).setFloor (floorOf s.cryo.band))
    else .next s.switchBegin

/-! ### The state machine (19 R298) -/

/-- The dies leave reset (01 R17): counters start, at the offsets that training has set for dies 1-3 over die 0 (R16),
work queues are read, refresh windows follow the band. -/
def State.release (s : State) : State :=
  if s.cryo.released then s
  else
    let s := { s with cryo := { s.cryo with released := true }, trained := s.now, draws := s.draws + 1
                      offsets := SMap.tabulate 0 [1, 2, 3] (Config.dieOffset s.draws) }
    let s := (s.queues.filter fun e => e.2.en).foldl (fun s e => s.scheduleOnce 1 (.launchAccept (BitVec.ofNat 12 e.1))) s
    (s.refreshBand s.cryo.band).placeSoon 1

/-- The dies return to reset: what the dies hold is as at reset; what stands in HBM, on the host and with the
controller stays, and so do launches that wait. -/
def State.resetDies (s : State) : State :=
  let gone := s.launches.filter Launch.started
  let s := gone.foldl (fun s l => (s.dropLaunch l.id).endLaunch l 4) s
  { ({} : State) with
    now := s.now, hbm := s.hbm, host := s.host, iommu := s.iommu, pageReqs := s.pageReqs, refused := s.refused
    noPages := s.noPages, lates := s.lates, agenda := s.agenda, ptp := s.ptp, launches := s.launches, launchNum := s.launchNum
    draws := s.draws, ended := s.ended, queues := s.queues, msix := s.msix, request := s.request, replies := s.replies
    log := s.log, cryo := { s.cryo with released := false, frozen := false, freezing := false, switch := none, neap := false } }

/-- The controller changes state (19 R298), which it logs; the dies leave reset when it leaves TRAIN
(01 R17), and OPERATE and RETREAT have them released. -/
def State.toState (s : State) (new hreas : Nat) : State :=
  let old := s.cryo.state
  let s := s.onCryo fun c => { c with state := new, prev := old, hreas := hreas }
  let s := s.logEvent 8 0xFF (old + new * 2 ^ 8 + hreas * 2 ^ 16)
  if old = 4 ∨ new = 5 ∨ new = 6 then s.release.placeSoon 1 else s.placeSoon 1

/-- HOLD is entered for a cause; a HOLD in force keeps its own. -/
def State.enterHold (s : State) (hreas : Nat) : State := if s.cryo.state = 8 then s else s.toState 8 hreas

/-- OPERATE, RETREAT and HOLD follow the band. -/
def State.followBand (s : State) : State :=
  let s := if s.cryo.state = 5 ∧ 1 ≤ s.cryo.band then s.toState 6 0 else s
  if s.cryo.state = 6 ∧ s.cryo.band = 0 then s.toState 5 0
  else if s.cryo.state = 6 ∧ s.cryo.band = 4 then s.enterHold 6
  else s

/-- A band change: TBAND, CHG and the log (19 R301, 20 R320). -/
def State.setBand (s : State) (b : Nat) : State :=
  let old := s.cryo.band
  let s := s.onCryo fun c => { c with band := b, chg := (c.chg + 1) % 2 ^ 16 }
  s.logEvent 9 0xFF (old + b * 2 ^ 8 + s.cryo.warmest.1 % 2 ^ 16 * 2 ^ 16)

/-- The zones' warmest readings. -/
def zones (a b c d : BitVec 16) : List Nat := [a.toNat, b.toNat, c.toNat, d.toNat]

/-- New readings: when the warmest passes the band's bound, TBAND, the floor and the stretch, refresh, and the timing
switch follow at once to the band that holds it (01 R14, 19 R301, R303). -/
def State.readSensors (s : State) (z : List Nat) : State :=
  let s := s.onCryo fun c => { c with temps := z }
  let b := bandOf s.cryo.warmest.1
  if b ≤ s.cryo.band then s
  else
    let s := (s.setBand b).setFloor (max s.cryo.floor (floorOf b))
    (s.refreshBand b).switchBegin.followBand

/-- BAND_RISE (19 R301, R303). -/
def execBandRise (z0 z1 z2 z3 : BitVec 16) (s : State) : Out := .next (s.readSensors (zones z0 z1 z2 z3))

/-- BAND_FALL (19 R301, R303): one band, after 10 s at or below the bound less 2 K; the floor waits for a switch. -/
def execBandFall (z0 z1 z2 z3 : BitVec 16) (s : State) : Out :=
  let s := s.readSensors (zones z0 z1 z2 z3)
  let b := s.cryo.band
  if b = 0 ∨ fallBound b < s.cryo.warmest.1 then .next s
  else
    let s := (s.setBand (b - 1)).switchBegin
    let s := if s.cryo.switch.isSome then s else (s.refreshBand (b - 1)).setFloor (floorOf (b - 1))
    .next s.followBand

/-- PURGE_COMPLETE (19 R298). -/
def execPurgeComplete (s : State) : Out := .next (if s.cryo.state = 1 then s.toState 2 0 else s)

/-- DESCENT_COMPLETE: every zone reads 80 K or less. -/
def execDescentComplete (s : State) : Out :=
  .next (if s.cryo.state = 2 ∧ s.cryo.warmest.1 ≤ 80 * 64 then s.toState 3 0 else s)

/-- SOAK_COMPLETE. -/
def execSoakComplete (s : State) : Out := .next (if s.cryo.state = 3 then s.toState 4 0 else s)

/-- TRAINING_COMPLETE: OPERATE, or HOLD. -/
def execTrainingComplete (ok : Bool) (s : State) : Out :=
  if s.cryo.state ≠ 4 then .next s
  else if ok then
    let s := s.onCryo fun c => { c with neap := false }
    let s := (s.toState 5 0).setFloor (floorOf s.cryo.band)
    .next s.switchBegin.followBand
  else .next (s.toState 8 5)

/-- ASCENT_COMPLETE: every zone reads 285 K or more; the dies are in reset. -/
def execAscentComplete (s : State) : Out :=
  if s.cryo.state = 7 ∧ s.cryo.temps.all (fun t => decide (285 * 64 ≤ t)) then
    let s := s.toState 0 0
    .next (State.resetDies { s with cryo := { s.cryo with closing := false } })
  else .next s

/-- SENSORS_DISAGREE. -/
def execSensorsDisagree (s : State) : Out := .next (s.enterHold 1)
/-- VALVE_NOT_FOLLOWING. -/
def execValveNotFollowing (s : State) : Out := .next (s.enterHold 2)
/-- LOSS_OF_VACUUM. -/
def execLossOfVacuum (s : State) : Out := .next ((s.onCryo fun c => { c with vacuum := false }).enterHold 3)
/-- RATE_OF_CHANGE. -/
def execRateOfChange (s : State) : Out := .next (s.enterHold 4)

/-! ### Coolant, scrub and self-test (19 R302, R309, R310) -/

/-- CLIM.ELIM on every core of a die. -/
def State.setElim (s : State) (d x : Nat) : State :=
  (List.range 64).foldl (fun s i => s.onCoreOf (64 * d + i) fun c => { c with elim := x }) s

/-- VALVE_CONTROL_PERIOD (19 R309): readings, valve openings, and the limit the zone of each die can hold, never below
64. -/
def execValveControlPeriod (z0 z1 z2 z3 : BitVec 16) (v0 v1 v2 v3 : BitVec 8) (l0 l1 l2 l3 : BitVec 12) (s : State) : Out :=
  let open' (v : BitVec 8) : Nat := min 200 v.toNat
  let s := (s.onCryo fun c => { c with valves := [open' v0, open' v1, open' v2, open' v3] }).readSensors (zones z0 z1 z2 z3)
  let lim (x : BitVec 12) : Nat := max 64 x.toNat
  .next ((((s.setElim 0 (lim l0)).setElim 1 (lim l1)).setElim 2 (lim l2)).setElim 3 (lim l3))

/-- ELIM_RESTORE (19 R309): a zone at or below 80 K for 1 s. -/
def execElimRestore (die : BitVec 2) (s : State) : Out := .next (s.setElim die.toNat 0xFFF)

/-- PATROL_SCRUB (19 R302): a word read and written back corrected; an error, 1 corrected or 2 uncorrectable, is
logged and starts the self-test of what holds it. -/
def execPatrolScrub (res : BitVec 3) (unit : BitVec 8) (addr : BitVec 64) (err : BitVec 2) (s : State) : Out :=
  .next (if err = 1 ∨ err = 2 then s.softError err.toNat res.toNat unit.toNat addr.toNat else s)

/-- SELF_TEST_COMPLETE (19 R310): transient, or retired to a spare, or no spare left: then a core is placed no more. -/
def execSelfTestComplete (res : BitVec 3) (unit : BitVec 8) (addr : BitVec 64) (owner : BitVec 9) (ok spare : Bool)
    (s : State) : Out :=
  let s := { s with testing := s.testing.filter fun t => !(res = 1 && t.1 = addr.toNat / 256) }
  let detail := res.toNat + addr.toNat * 2 ^ 64
  if ok then .next (s.logEvent 3 unit.toNat detail)
  else if spare then .next (s.logEvent 4 unit.toNat detail)
  else
    let s := s.logEvent 5 unit.toNat detail
    .next (if owner.toNat < 256 ∧ !s.retired.contains owner.toNat then { s with retired := owner.toNat :: s.retired } else s)

/-! ### The controller's commands (20 R319, R320) -/

/-- A response: COMMAND with bit 7 set, SEQ, completion code, payload. -/
def State.respond (s : State) (cmd seq code : Nat) (payload : List Nat) : State :=
  { s with replies := { cmd := cmd + 0x80, seq := seq, code := code, payload := payload } :: s.replies }

/-- A command: bad length (5), not accepted in this state (3), or its effect and response. -/
def State.command (s : State) (cmd len : Nat) (accepted : Bool) (f : State → State) (payload : List Nat) : Out :=
  let r := s.request
  if r.payload.length ≠ len then .next (s.respond cmd r.seq 5 [])
  else if !accepted then .next (s.respond cmd r.seq 3 [])
  else .next ((f s).respond cmd r.seq 0 payload)

/-- COOL (19 R298): from WARM, warm mode off, the vacuum within limit. -/
def execCool (s : State) : Out :=
  let c := s.cryo
  s.command 0x01 0 (c.state = 0 && !c.wm && c.warmReq.isNone && c.vacuum) (fun s => s.toState 1 0) []

/-- WARMUP: placement stops and running groups drain. -/
def execWarmup (s : State) : Out :=
  let c := s.cryo
  s.command 0x02 0 (c.state = 5 || c.state = 6 || c.state = 8)
    (fun s => (s.toState 7 0).onCryo fun c => { c with closing := true }) []

/-- RESUME (19 R298): once the cause is clear, to OPERATE or RETREAT by the band. -/
def execResume (s : State) : Out :=
  let c := s.cryo
  s.command 0x03 0 (c.state = 8 && c.band < 4 && (c.hreas ≠ 3 || c.vacuum))
    (fun s => s.toState (if s.cryo.band = 0 then 5 else 6) 0) []

/-- A command that comes over MCTP, with its response, or through the IEEE 1149.1 port, which has none (01 R15, 19 R312):
the request in hand says which. -/
def State.orPort (s : State) (cmd : Nat) (accepted : Bool) (f : State → State) : Out :=
  if s.request.cmd = cmd then s.command cmd 0 accepted f [] else .next (if accepted then f s else s)

/-- FREEZE (19 R312): a unit's timing switch in progress completes first. -/
def execFreeze (s : State) : Out :=
  s.orPort 0x04 s.cryo.released fun s =>
    s.onCryo fun c => if s.closed.isSome then { c with freezing := true } else { c with frozen := true }

/-- THAW. -/
def execThaw (s : State) : Out :=
  s.orPort 0x05 s.cryo.frozen fun s => s.onCryo fun c => { c with frozen := false }

/-- CHAIN_READ_OUT (19 R312): the state of the dies, which is what State holds, is read; nothing changes. -/
def execChainReadOut (s : State) : Out := .next s

/-- WARMRUN (19 R300): training begins; the response follows it. -/
def execWarmrun (s : State) : Out :=
  let c := s.cryo
  let r := s.request
  if r.payload.length ≠ 0 then .next (s.respond 0x06 r.seq 5 [])
  else if c.warmReq.isSome then .next (s.respond 0x06 r.seq 1 [])
  else if c.state = 0 && !c.wm && c.temps.all (fun t => decide (200 * 64 < t)) then
    .next (s.onCryo fun c => { c with warmReq := some r.seq })
  else .next (s.respond 0x06 r.seq 3 [])

/-- WARMRUN_TRAINING_COMPLETE (19 R300): the dies are released in band B4 with floor 8, or the command fails. -/
def execWarmrunTrainingComplete (ok : Bool) (s : State) : Out :=
  match s.cryo.warmReq with
  | none => .next s
  | some seq =>
    let s := s.onCryo fun c => { c with warmReq := none }
    if ok then
      let s := s.onCryo fun c => { c with wm := true, neap := true, band := 4, floor := 8, closing := false }
      .next (s.release.respond 0x06 seq 0 [])
    else .next (s.respond 0x06 seq 4 [])

/-- WARMSTOP (19 R300): placement stops; running groups have up to 1 s. -/
def execWarmstop (s : State) : Out :=
  let busy := s.cores.any fun c => c.task.isSome
  s.command 0x07 0 s.cryo.wm (fun s => (s.onCryo fun c => { c with closing := true }).upTo
    (if busy then 2500000000 else 1) .warmstopTimeout) []

/-- WARMSTOP_TIMEOUT (19 R300): groups still running are terminated and the dies return to reset. -/
def execWarmstopTimeout (s : State) : Out :=
  if s.cryo.wm ∧ s.cryo.closing then
    .next (State.resetDies { s with cryo := { s.cryo with wm := false, closing := false } })
  else .next s

/-- STATUS. -/
def execStatus (s : State) : Out :=
  let c := s.cryo
  s.command 0x08 0 true id (bytesLe c.cryost 8 ++ bytesLe c.tband 8 ++ bytesLe c.floor 8 ++
    (List.range 8).flatMap (fun p => bytesLe (Config.macAddress p) 6) ++ bytesLe Config.identity 16)

/-- An error-log entry's 32 bytes; zeros where it is not held (20 R320). -/
def State.logBytes (s : State) (n : Nat) : List Nat :=
  match s.log.find? fun e => e.seqno = n with
  | some e => bytesLe e.time 8 ++ bytesLe e.seqno 4 ++ bytesLe e.kind 2 ++ bytesLe e.unit 2 ++ bytesLe e.detail 16
  | none => bytesLe 0 32

/-- LOG: COUNT entries from FIRST. -/
def execLog (s : State) : Out :=
  let p := s.request.payload
  let first := ofBytesLe (p.take 4)
  let count := ofBytesLe ((p.drop 4).take 2)
  if p.length = 6 ∧ !(1 ≤ count ∧ count ≤ 32) then .next (s.respond 0x10 s.request.seq 4 [])
  else s.command 0x10 6 true id ((List.range count).flatMap fun i => s.logBytes (first + i))

/-- ATTEST (20 R319): the signature over the SHA-256 of nonce, digests, identity and CRYOST. -/
def execAttest (s : State) : Out :=
  let msg := s.request.payload ++ bytesLe Config.firmwareDigest 32 ++ bytesLe Config.libraryDigest 32 ++
    bytesLe Config.identity 16 ++ bytesLe s.cryo.cryost 8
  s.command 0x20 32 true id (bytesLe (Config.signature (sha256 msg)) 7856)

/-- PUBKEY: the key, then its certificate. -/
def execPubkey (s : State) : Out :=
  s.command 0x21 0 true id (bytesLe Config.publicKey 32 ++ Config.certificate)

/-- UNKNOWN_COMMAND: code 2. -/
def execUnknownCommand (s : State) : Out := .next (s.respond (s.request.cmd % 0x80) s.request.seq 2 [])

/-! ### Time, resets, Skomon (20 R321, 01 R17, 04 R98) -/

/-- PTP_MESSAGE (20 R321): the time-setting port's servo takes a new map, which never runs back. -/
def execPtpMessage (port : BitVec 3) (ns : BitVec 64) (num den : BitVec 32) (s : State) : Out :=
  let tport := s.hbm.read (field s.ptbase.toNat 12 28 * 4096) 1
  if bitAt s.ptbase.toNat 0 ∧ tport = port.toNat then
    .next { s with ptp := { ns := max (s.nanos s.now) ns.toNat, at' := s.now, num := num.toNat, den := max 1 den.toNat } }
  else .next s

/-- PTP_HOLDOVER (20 R321): the last rate is held. -/
def execPtpHoldover (s : State) : Out := .next { s with ptp := { s.ptp with holdover := true } }

/-- MODULE_RESET (01 R17, 19 R299, R300, 20 R316): everything is as at reset but what lies outside the module: host
memory and its translations, what the host and the controller do next, time's count, and what the sensors read. -/
def execModuleReset (s : State) : Out :=
  let c := s.cryo
  let b := bandOf c.warmest.1
  .next { ({} : State) with now := s.now, host := s.host, iommu := s.iommu, lates := s.lates, agenda := s.agenda, draws := s.draws
                            cryo := { temps := c.temps, vacuum := c.vacuum, valves := c.valves, band := b, rband := b, floor := floorOf b } }

/-- SKOMON_FLIT_RECEIVE (04 R98): a flit with a link ECC error is requested again; when sixteen retries in a row have failed the
link is down, and what waits on it raises LINK_TIMEOUT. -/
def execSkomonFlitReceive (src dst : BitVec 2) (bad : Bool) (s : State) : Out :=
  let k := 4 * src.toNat + dst.toNat
  if !bad then .next { s with links := if SMap.get 0 s.links k < 17 then SMap.set 0 s.links k 0 else s.links }
  else
    let n := SMap.get 0 s.links k + 1
    let s := { s with links := SMap.set 0 s.links k (min n 18) }
    if n = 17 then .next (s.logEvent 6 src.toNat k) else .next s

end Sys2Proof.Machine
end

