-- ==== Sys2Proof/Machine/Peer.lean ====
section
/-!
DEFINITION. The exchange with other J77s: the port table, frames, and SEND and RECV (20 R322-R327, 23 R369, 24 R383).
-/
namespace Sys2Proof.Machine

/-! ### The port table (20 R322) -/

/-- An entry's fields. -/
structure Port where
  port : Nat := 0
  /-- IEEE 802.1Q tag without its reserved bit 12, 0 for untagged frames; the peer's MAC address; this chip's index there. -/
  vlan : Nat := 0
  dmac : Nat := 0
  pidx : Nat := 0
  lmax : Nat := 0
  rto : Nat := 0
  deriving DecidableEq, Repr

/-- An entry from its 512 bits; a field outside its range makes it invalid. -/
def parsePort (x : Nat) : Option Port :=
  let f (off n : Nat) := field x (8 * off) (8 * n)
  -- bit 12 of the tag is given no meaning and reads as 0 (00 R7)
  let vlan := field x 16 12 + field x 29 3 * 2 ^ 13
  let ok := f 0 1 % 2 == 1 && f 1 1 < 8 && (vlan == 0 || (1 ≤ vlan % 4096 && vlan % 4096 ≤ 4094)) &&
    f 0xA 1 < 32 && 1 ≤ f 0xB 1 && f 0xB 1 ≤ 32 && 1000 ≤ f 0xC 4 && f 0xC 4 ≤ 1000000
  if ok then some { port := f 1 1, vlan := vlan, dmac := f 4 6, pidx := f 0xA 1, lmax := f 0xB 1, rto := f 0xC 4 } else none

/-- The entry of a peer, read at its first use and cached. -/
def State.portEntry (s : State) (p : Nat) : Option Port × State :=
  if !bitAt s.ptbase.toNat 0 then (none, s)
  else match s.ports.find? (fun e => e.1 = p) with
    | some e => (parsePort e.2, s)
    | none =>
      let x := s.hbm.read (field s.ptbase.toNat 12 28 * 4096 + 64 + 64 * p) 64
      (parsePort x, { s with ports := SMap.insert s.ports p x })

/-- A peer's link. -/
def State.peer (s : State) (p : Nat) : Peer := SMap.get {} s.peers p
/-- Change a peer's link. -/
def State.onPeer (s : State) (p : Nat) (f : Peer → Peer) : State := { s with peers := SMap.set {} s.peers p (f (s.peer p)) }

/-! ### Sending (20 R323) -/

/-- The lines at the head of a list that belong to one SEND, at most `k`. -/
def sameSend (core op : Nat) : Nat → List PeerLine → List PeerLine
  | 0, _ => []
  | _, [] => []
  | k + 1, l :: r => if l.core = core ∧ l.op = op then l :: sameSend core op k r else []

/-- A data frame of lines of one SEND, addressed by the peer's entry. -/
def dataFrame (e : Port) (p : Nat) (l : List PeerLine) : Frame :=
  let h := l.headD { seq := 0, data := 0 }
  { peer := p, port := e.port, vlan := e.vlan, dmac := e.dmac, sender := e.pidx, kind := 1, seq := h.seq, stime := h.stime, path := h.path, lines := l.map PeerLine.data }

/-- Frames go out as long as the credit covers their lines. -/
def State.transmit (s : State) (p : Nat) (e : Port) : Nat → State
  | 0 => s
  | k + 1 =>
    let x := s.peer p
    let rest := (x.out.take x.credit).drop x.sent
    match rest with
    | [] => s
    | h :: _ =>
      let l := sameSend h.core h.op (max 1 e.lmax) rest
      let s := { s with wire := s.wire ++ [dataFrame e p l] }
      State.transmit (s.onPeer p fun x => { x with sent := x.sent + l.length }) p e k

/-- Reference cycles of a number of nanoseconds (01 R16). -/
def cyclesOf (ns : Nat) : Nat := ns * 5 / 2

/-- The sender's lines go out, and its resend timer runs while one is not acknowledged. -/
def State.push (s : State) (p : Nat) : State :=
  match s.portEntry p with
  | (none, s) => s
  | (some e, s) =>
    let x := s.peer p
    if x.out.isEmpty then s
    else (s.transmit p e x.out.length).exactlyOnce (cyclesOf e.rto) (.resendTimeout (BitVec.ofNat 5 p))

/-- A line of a core's SEND stands in the peer's queue; with its last the SEND has completed (24 R383). -/
def Core.linePlaced (c : Core) (id now : Nat) : Core :=
  match c.sends.find? fun x => x.id = id with
  | none => c
  | some x =>
    if x.placed + 1 < x.lines then
      { c with sends := c.sends.map fun y => if y.id = x.id then { y with placed := y.placed + 1 } else y }
    else
      let c := { (c.onBankOf x.bank fun b => { b with copies := b.copies - 1 }) with sends := c.sends.filter fun y => y.id ≠ x.id }
      c.completed [2, 4] { at' := now, path := { l := x.path, at' := now }, pkind := 3, pid := x.stime % 2 ^ 32 }

/-- Change the cores of checkpointed groups. -/
def State.onSaved (s : State) (f : Core → Core) : State :=
  { s with saved := s.saved.map fun g => { g with cores := g.cores.map f } }

/-- A line is placed; its SEND may be saved with a checkpointed group (15 R274, 24 R383). -/
def State.sendPlaced (s : State) (l : PeerLine) : State :=
  (s.onCoreOf l.core fun c => c.linePlaced l.op s.now).onSaved fun c => if c.id = l.core then c.linePlaced l.op s.now else c

/-- PEER_ACKNOWLEDGE (20 R323): lines before the next one expected are the peer's; the credit counts from there. -/
def execPeerAcknowledge (peer : BitVec 5) (seq credit : BitVec 32) (s : State) : Out :=
  let p := peer.toNat
  let x := s.peer p
  let oldest := (x.out.head?.map PeerLine.seq).getD x.next
  let n := (seq.toNat + 2 ^ 32 - oldest) % 2 ^ 32
  if x.down ∨ x.out.length < n then .next s
  else
    let done := x.out.take n
    let now := s.now
    let s := s.onPeer p fun x => { x with out := x.out.drop n, sent := x.sent - n, credit := credit.toNat
                                          resends := if n = 0 then x.resends else 0, moved := if n = 0 then x.moved else now }
    .next ((done.foldl State.sendPlaced s).push p)

/-- A core's SENDs to a peer end with a trap. -/
def Core.loseSends (c : Core) (p : Nat) (t : TrapReq) : Core :=
  (c.sends.filter fun x => x.peer = p).foldl (fun c x =>
    { (c.onBankOf x.bank fun b => { b with copies := b.copies - 1, pending := b.pending ++ [t.of x.issue 7] }) with
      sends := c.sends.filter fun y => y.id ≠ x.id }) c

/-- The link to a peer is declared down (04 R98, 24 R383): its SENDs' lines are discarded, and each SEND raises
LINK_TIMEOUT at the next bundle of its bank. -/
def State.peerDown (s : State) (p : Nat) : State :=
  let (e, s) := s.portEntry p
  let port := (e.map Port.port).getD 0
  let s := s.onPeer p fun x => { x with down := true, out := [], sent := 0 }
  let s := s.logEvent 6 0xFF (port + p * 2 ^ 64)
  let t := own cLinkTimeout (p + port * 2 ^ 8)
  (s.cores.foldl (fun s c => s.onCoreOf c.id fun c => c.loseSends p t) s).onSaved fun c => c.loseSends p t

/-- The sender resends from the oldest line not acknowledged; once sixteen resends in a row have brought no progress
the link is down. -/
def State.resend (s : State) (p : Nat) : State :=
  let x := s.peer p
  if x.down || x.out.isEmpty then s
  else if 16 ≤ x.resends then s.peerDown p
  else
    let now := s.now
    (s.onPeer p fun x => { x with sent := 0, resends := x.resends + 1, moved := now }).push p

/-- PEER_NEGATIVE_ACKNOWLEDGE. -/
def execPeerNegativeAcknowledge (peer : BitVec 5) (_seq : BitVec 32) (s : State) : Out := .next (s.resend peer.toNat)

/-- RESEND_TIMEOUT: RTO has passed since the last acknowledgement that moved on or the last resend. -/
def execResendTimeout (peer : BitVec 5) (s : State) : Out :=
  let p := peer.toNat
  let (e, s) := s.portEntry p
  let rto := cyclesOf ((e.map Port.rto).getD 1000)
  let x := s.peer p
  if x.out.isEmpty then .next s
  else if s.now < x.moved + rto then .next (s.exactlyOnce (x.moved + rto - s.now) (.resendTimeout peer))
  else .next (s.resend p)

/-! ### Receiving (20 R323) -/

/-- Lines of the receive queue that RECVs under way still hold (20 R327), those of checkpointed groups too (23 R369). -/
def State.keptLines (s : State) (p : Nat) : Nat :=
  ((s.cores ++ s.saved.flatMap Saved.cores).flatMap fun c => c.recvs.filter fun r => r.peer = p).foldl (fun n r => n + r.kept) 0

/-- Free lines of the receive queue: 256 KiB for each sender (20 R325). -/
def State.freeLines (s : State) (p : Nat) : Nat := 1024 - ((s.peer p).queue.length + s.keptLines p)

/-- An acknowledgement, or a negative one: the next line expected, and the credit. -/
def State.acknowledge (s : State) (p kind : Nat) : State :=
  let (e, s) := s.portEntry p
  let e := e.getD {}
  let f : Frame := { peer := p, port := e.port, vlan := e.vlan, dmac := e.dmac, sender := e.pidx, kind := kind, seq := (s.peer p).expect, credit := if kind = 2 then s.freeLines p else 0 }
  State.onPeer { s with wire := s.wire ++ [f] } p fun x => { x with frames := if kind = 2 then 0 else x.frames }

/-- ACKNOWLEDGE_TIMER (20 R323): 2 us after a data frame. -/
def execAcknowledgeTimer (peer : BitVec 5) (s : State) : Out :=
  .next (if (s.peer peer.toNat).frames = 0 then s else s.acknowledge peer.toNat 2)

/-- The lines of a frame. -/
def frameLines (seq stime path port now data : Nat) (n : Nat) : List PeerLine :=
  (List.range n).map fun k => { seq := (seq + k) % 2 ^ 32, data := data / 2 ^ (2048 * k) % 2 ^ 2048, stime := stime, path := path
                                port := port, came := now }

/-- PEER_DATA_FRAME (20 R323): `peer` is its SENDER, `ok` says that its check sequence and source address are right. -/
def execPeerDataFrame (peer : BitVec 5) (port : BitVec 3) (ok : Bool) (seq : BitVec 32) (stime path : BitVec 64) (n : BitVec 6)
    (data : BitVec 65536) (s : State) : Out :=
  let p := peer.toNat
  match s.portEntry p with
  | (none, s) => .next s
  | (some e, s) =>
    let x := s.peer p
    if !ok ∨ e.port ≠ port.toNat ∨ n = 0 ∨ 32 < n.toNat then .next s
    else if seq.toNat ≠ x.expect then .next (s.acknowledge p 3)
    else if s.freeLines p < n.toNat then .next s
    else
      let l := frameLines seq.toNat stime.toNat path.toNat port.toNat s.now data.toNat n.toNat
      let s := s.onPeer p fun x => { x with queue := x.queue ++ l, expect := (x.expect + n.toNat) % 2 ^ 32, frames := x.frames + 1 }
      .next (if 8 ≤ (s.peer p).frames then s.acknowledge p 2 else s.exactlyOnce 5000 (.acknowledgeTimer peer))

/-! ### SEND (24 R383) -/

/-- The operands common to SEND and RECV (20 R324): tensor id, coordinate, peer, lines; `routed` where it may be. -/
structure PeerOp where
  tid : Nat
  c0 : Nat
  peer : Nat
  lines : Nat
  block : Nat
  routed : Bool
  deriving DecidableEq, Repr

/-- The fields of ga and gb, or SCHEDULE_VIOLATION. -/
def State.peerOp (s : State) (recv : Bool) (a b : GReg) : Chk PeerOp := do
  let x := (s.g a).toNat
  let y := (s.g b).toNat
  let r := bitAt y 34
  let n := field y 16 10
  need (x / 2 ^ 56 == 0 && field y 5 11 == 0 && field y 26 6 == 0 && y / 2 ^ 35 == 0 && (recv || !r) && n != 0 && (!r || n ≤ 64))
    (violation 10)
  return { tid := x % 2 ^ 32, c0 := field x 32 24, peer := y % 32, lines := n, block := field y 32 2, routed := r }

/-- The tensor's checks (20 R324): the range that the lines cover. -/
def State.peerRange (s : State) (o : PeerOp) (m : Mode) : Chk Range := do
  let d ← s.desc o.tid
  need (d.tag == 0 && d.layout == 0 && o.c0 % 256 == 0 && o.c0 + 256 * o.lines ≤ d.ext0)
    (own cProtection (o.tid + 10 * 2 ^ 32 + 0xFF * 2 ^ 40))
  let r := rangeOf (BitVec.ofNat 128 (o.tid + o.c0 * 2 ^ 32)) d
  s.checkRange r (256 * o.lines) m
  return r

/-- SEND. -/
def execSend (a b : GReg) (s : State) : Out :=
  finish s do
    s.xFree.before do
      backpressure 14 (63 ≤ s.core.bank.copies)
      let o ← s.peerOp false a b
      let (e, s) := s.portEntry o.peer
      need e.isSome (protection o.tid 15)
      let r ← s.peerRange o .read
      let op : SendOp :=
        { id := s.core.accSeq, bank := s.core.bank.id, bundle := s.core.bank.pc, issue := s.core.seq, peer := o.peer, src := r
          areg := BitVec.ofNat 128 (o.tid + o.c0 * 2 ^ 32), lines := o.lines, stime := s.nanos s.now, path := s.core.path.at s.now }
      let s := s.onCore fun c => { c with accSeq := c.accSeq + 1, sends := c.sends ++ [op] }
      return (s.onBank fun b => { b with copies := b.copies + 1 }).xTake 1

/-- Bytes of a line, none where one does not stand there. -/
def State.lineBytes (s : State) (r : Range) (bank k : Nat) : Nat → Nat → Nat
  | 0, _ => 0
  | n + 1, b => (match s.rangeByte r (256 * k + b) with
    | .at l => (s.byteAt s.core.id bank l).toNat
    | _ => 0) + 256 * State.lineBytes s r bank k n (b + 1)

/-- The lines of a SEND of the present core are read in order; one on an absent page stops it as it stops a copy. -/
def State.readLines (s : State) (x : SendOp) : Nat → State
  | 0 => s
  | fuel + 1 =>
    let put (x : SendOp) (s : State) : State := s.onCore fun c => { c with sends := c.sends.map fun y => if y.id = x.id then x else y }
    if x.lines ≤ x.read then s
    else match s.sectorStop x.src (256 * x.read) 256 with
      | some (.absent e off) =>
        let kind : Nat := if bitAt e.raw 0 then 5 else 3
        let t := s.pageFault false e (s.faultBytes kind x.bundle (unstoreOff x.src.desc x.areg off) 0 0 0 0 e.idx (s.nrun x.src.desc e)
          (256 * x.read))
        (put { x with stopped := true } s).pend x.bank (t.of x.issue 7)
      | some (.stop r) => (put { x with stopped := true } s).pend x.bank ((protection x.src.tid r).of x.issue 7)
      | q =>
        -- an absent page of a cache tensor is contained, and its bytes read as zero (03 R66, R67)
        let s := s.containAll codeCachePage (ByteAt.slot q)
        let p := s.peer x.peer
        let l : PeerLine := { seq := p.next, data := s.lineBytes x.src x.bank x.read 256 0, stime := x.stime, path := x.path
                              core := s.core.id, op := x.id }
        let s := s.onPeer x.peer fun p => { p with next := (p.next + 1) % 2 ^ 32, out := p.out ++ [l] }
        let x := { x with read := x.read + 1 }
        State.readLines (put x s) x fuel

/-- The present core's SENDs go on: each behind its earlier ones to the same peer. -/
def State.sendsGo (s : State) : State :=
  if s.core.halted then s
  else s.core.sends.foldl (fun s x =>
    match s.core.sends.find? fun y => y.peer = x.peer ∧ y.read < y.lines with
    | some y => if y.id = x.id ∧ !x.stopped then
        if (s.peer x.peer).down then s.peerDown x.peer else (s.readLines x x.lines).push x.peer
      else s
    | none => s) s

/-! ### RECV (23 R369) -/

/-- The reference cycle at which a send time stands on the servo's map (12 R237). -/
def State.cycleOfNanos (s : State) (ns : Nat) : Nat :=
  if s.ptp.ns ≤ ns then s.ptp.at' + (ns - s.ptp.ns) * 5 / 2 else s.ptp.at' - ceilDiv ((s.ptp.ns - ns) * 5) 2

/-- The strandline edge of a RECV, from the last of its lines to arrive (12 R235, R237). -/
def State.recvEdge (s : State) (l : List PeerLine) : State :=
  match l.getLast? with
  | none => s
  | some x =>
    let p : Path := { l := x.path, at' := s.cycleOfNanos x.stime }
    s.adoptWait 10 4 x.came p 3 (x.stime % 2 ^ 32) x.port

/-- The wait for the lines of a RECV: those it takes. -/
def State.recvWait (s : State) (o : PeerOp) : Chk (List PeerLine × State) :=
  let (e, s) := s.portEntry o.peer
  let x := s.peer o.peer
  let expired := (s.core.fetchedOf fetchRecv 0).isSome
  if o.lines ≤ x.queue.length then .ok (x.queue.take o.lines, s)
  else if expired ∧ o.routed then .ok (x.queue, s)
  else if expired then .error (.trap (own cQueueTimeout 10))
  else if x.down then .error (.trap (own cLinkTimeout (o.peer + (e.map Port.port).getD 0 * 2 ^ 8)))
  else .error (.hold 10 false none)

/-- A line as a store of 256 one-byte elements. -/
def State.lineAccess (s : State) (r : Range) (a : BitVec 128) (k : Nat) (l : PeerLine) : Access :=
  let es : List Elt := (List.range 256).map fun b => { idx := b, off := r.off.getD 0 + 256 * k + b }
  let data : Words := SMap.tabulate 0 (List.range 64) fun i => BitVec.ofNat 32 (l.data / 2 ^ (32 * i))
  { s.access .recvLine (aSet a 0 (aCoord a 0 + 256 * k)) r.desc es with data := data, more := true }

/-- RECV: the lines leave the queue when it issues, and are written one a copy-domain cycle. -/
def execRecv (a b : GReg) (s : State) : Out :=
  finish s do
    s.xFree.before do
      backpressure 14 (63 ≤ s.core.bank.copies)
      let o ← s.peerOp true a b
      need (!o.routed || s.core.bank.sys.bgrp != 0xFF) (requestFault 1)
      let r ← s.peerRange o .write
      let (ls, s) ← s.recvWait o
      let lost := (List.range (o.lines - ls.length)).map fun j => 64 * o.block + ls.length + j
      let s := if o.routed then s.containAll 5 lost else s
      let s := s.recvEdge ls
      let s := s.onPeer o.peer fun x => { x with queue := x.queue.drop ls.length }
      let areg : BitVec 128 := BitVec.ofNat 128 (o.tid + o.c0 * 2 ^ 32)
      let acc := (List.range ls.length).map fun k => { s.lineAccess r areg k (ls.getD k { seq := 0, data := 0 }) with seq := s.core.accSeq + k }
      let id := s.core.accSeq
      let op : RecvOp := { id := id, bank := s.core.bank.id, issue := s.core.seq, peer := o.peer, waits := acc.map Access.seq
                           kept := ls.length, path := s.core.path }
      let s := s.onCore fun c => { c with accSeq := c.accSeq + ls.length + 1, recvs := c.recvs ++ [op] }
      let s := s.onBank fun b => { b with copies := b.copies + 1, stq := b.stq ++ acc }
      return (s.dueIn .cpy 1 (.recvComplete (BitVec.ofNat 8 s.core.id) (BitVec.ofNat 64 id))).xTake 1

/-- RECV_TIMEOUT (20 R326): the bundle has waited 2^20 reference cycles for its lines. -/
def execRecvTimeout (core : BitVec 8) (s : State) : Out :=
  let s := s.focus core.toNat
  match s.core.recvFrom with
  | some t => if t + 2 ^ 20 ≤ s.now then
      .next (s.onCore fun c => { c with fetched := { what := fetchRecv, addr := 0, data := 0 } :: c.fetched })
    else .next s
  | none => .next s

/-- A line of a RECV is held: it is on the retry ring, or an access from before the RECV is.  The lines that follow a
faulting one are written (20 R327). -/
def Bank.holdsLine (b : Bank) (waits : List Nat) (x : Access) : Bool :=
  x.held && (b.ring.any (fun r => r.seq = x.seq) || !b.ring.all fun r => waits.contains r.seq)

/-- Slots whose cache pages a line meets absent (03 R67). -/
def State.lineSlots (s : State) (x : Access) : List Nat :=
  (x.elems.filterMap fun e => match (s.placeElt [] true x.tid x.desc e).1 with
    | .contained k => some k
    | _ => none).eraseDups

/-- One line of a RECV is written; one on an absent page joins the retry ring (20 R327), one on an absent page of a cache
tensor is contained (03 R66). -/
def State.writeLine (s : State) (i : Nat) (x : Access) : State :=
  let s := s.inBank i fun s => s.containAll codeCachePage (s.lineSlots x)
  let (es, miss, lanes, _) := s.translate x
  let y := { x with elems := es }
  match miss with
  | some e => (s.setAccess i y).toRing i y e lanes
  | none => (s.storeElts s.core.id i y).popStore s.core.id i y

/-- RECV_COMPLETE (20 R325, R327, 23 R369): the next line that its page lets is written, and its queue space is free
behind the lines before it; with the last the RECV completes, and the sender learns it. -/
def execRecvComplete (core : BitVec 8) (id : BitVec 64) (s : State) : Out :=
  let s := s.focus core.toNat
  match s.core.recvs.find? fun r => r.id = id.toNat with
  | none => .next s
  | some r =>
    if s.core.halted then .next s
    else
      let mine (s : State) : List Access := (s.core.bankOf r.bank).stq.filter fun x => r.waits.contains x.seq
      let next (s : State) : Option Access := (mine s).find? fun x => !(s.core.bankOf r.bank).holdsLine r.waits x
      let s := match next s with
        | some x => s.writeLine r.bank x
        | none => s
      let rest := mine s
      let kept := match rest.head? with
        | none => 0
        | some x => (r.waits.filter fun q => x.seq ≤ q).length
      if rest.isEmpty then
        let s := s.onCore fun c => { (c.onBankOf r.bank fun b => { b with copies := b.copies - 1 }) with
          recvs := c.recvs.filter fun y => y.id ≠ r.id }
        .next ((s.completed core.toNat [2, 5] r.path 0 core.toNat).acknowledge r.peer 2)
      else
        let s := s.onCore fun c => { c with recvs := c.recvs.map fun y => if y.id = r.id then { y with kept := kept } else y }
        .next (if (next s).isSome then s.dueIn .cpy 1 (.recvComplete core id) else s)

end Sys2Proof.Machine
end

