-- ==== Sys2Proof/Machine/Dispatch.lean ====
section
/-!
DEFINITION. Dispatch: one arm per instruction, micro-operation and event of the opcode table.
-/
namespace Sys2Proof.Machine

/-- One step of the machine's instruction set: the meaning of an instruction or event at a state. -/
def exec (i : Instr) (s : State) : Host.Outcome State Fault Refusal :=
  match i with
  | .add d a b => Sys2Proof.Machine.execAdd d a b s
  | .sub d a b => Sys2Proof.Machine.execSub d a b s
  | .and d a b => Sys2Proof.Machine.execAnd d a b s
  | .or d a b => Sys2Proof.Machine.execOr d a b s
  | .xor d a b => Sys2Proof.Machine.execXor d a b s
  | .shl d a b => Sys2Proof.Machine.execShl d a b s
  | .shr d a b => Sys2Proof.Machine.execShr d a b s
  | .sar d a b => Sys2Proof.Machine.execSar d a b s
  | .mul d a b => Sys2Proof.Machine.execMul d a b s
  | .mulhS d a b => Sys2Proof.Machine.execMulhS d a b s
  | .mulhU d a b => Sys2Proof.Machine.execMulhU d a b s
  | .divu d a b => Sys2Proof.Machine.execDivu d a b s
  | .remu d a b => Sys2Proof.Machine.execRemu d a b s
  | .clkdiv a => Sys2Proof.Machine.execClkdiv a s
  | .slmark a => Sys2Proof.Machine.execSlmark a s
  | .fillq a b => Sys2Proof.Machine.execFillq a b s
  | .cmpEq p a b => Sys2Proof.Machine.execCmpEq p a b s
  | .cmpNe p a b => Sys2Proof.Machine.execCmpNe p a b s
  | .cmpLt p a b => Sys2Proof.Machine.execCmpLt p a b s
  | .cmpLtu p a b => Sys2Proof.Machine.execCmpLtu p a b s
  | .addi d a x => Sys2Proof.Machine.execAddi d a x s
  | .shiL d a x => Sys2Proof.Machine.execShiL d a x s
  | .shiR d a x => Sys2Proof.Machine.execShiR d a x s
  | .shiA d a x => Sys2Proof.Machine.execShiA d a x s
  | .shiRol d a x => Sys2Proof.Machine.execShiRol d a x s
  | .cmpiEq p a x => Sys2Proof.Machine.execCmpiEq p a x s
  | .cmpiNe p a x => Sys2Proof.Machine.execCmpiNe p a x s
  | .cmpiLt p a x => Sys2Proof.Machine.execCmpiLt p a x s
  | .cmpiLtu p a x => Sys2Proof.Machine.execCmpiLtu p a x s
  | .lis d x => Sys2Proof.Machine.execLis d x s
  | .shin d x => Sys2Proof.Machine.execShin d x s
  | .br x => Sys2Proof.Machine.execBr x s
  | .call d x => Sys2Proof.Machine.execCall d x s
  | .ret a => Sys2Proof.Machine.execRet a s
  | .jmpr a => Sys2Proof.Machine.execJmpr a s
  | .loops k a x => Sys2Proof.Machine.execLoops k a x s
  | .mfs d r => Sys2Proof.Machine.execMfs d r s
  | .mts a r => Sys2Proof.Machine.execMts a r s
  | .swaps d r => Sys2Proof.Machine.execSwaps d r s
  | .plogAnd d a b => Sys2Proof.Machine.execPlogAnd d a b s
  | .plogOr d a b => Sys2Proof.Machine.execPlogOr d a b s
  | .plogXor d a b => Sys2Proof.Machine.execPlogXor d a b s
  | .plogAndn d a b => Sys2Proof.Machine.execPlogAndn d a b s
  | .wait l w c t => Sys2Proof.Machine.execWait l w c t s
  | .bar a b => Sys2Proof.Machine.execBar a b s
  | .barArr d a b => Sys2Proof.Machine.execBarArr d a b s
  | .barWait a => Sys2Proof.Machine.execBarWait a s
  | .drainRel c => Sys2Proof.Machine.execDrainRel c s
  | .drainAcq c => Sys2Proof.Machine.execDrainAcq c s
  | .drainFull c => Sys2Proof.Machine.execDrainFull c s
  | .clz d a => Sys2Proof.Machine.execClz d a s
  | .trap a => Sys2Proof.Machine.execTrap a s
  | .tret => Sys2Proof.Machine.execTret s
  | .brkp => Sys2Proof.Machine.execBrkp s
  | .tend => Sys2Proof.Machine.execTend s
  | .spawn a b => Sys2Proof.Machine.execSpawn a b s
  | .trig => Sys2Proof.Machine.execTrig s
  | .rdcyc d => Sys2Proof.Machine.execRdcyc d s
  | .bstep d a => Sys2Proof.Machine.execBstep d a s
  | .rqrd d a w => Sys2Proof.Machine.execRqrd d a w s
  | .rqwr d a w => Sys2Proof.Machine.execRqwr d a w s
  | .rqret d a k => Sys2Proof.Machine.execRqret d a k s
  | .tld4 a t m => Sys2Proof.Machine.execTld4 a t m s
  | .tld64 a t m => Sys2Proof.Machine.execTld64 a t m s
  | .tld256 a t m => Sys2Proof.Machine.execTld256 a t m s
  | .tldG a v m => Sys2Proof.Machine.execTldG a v m s
  | .tst4 a t v => Sys2Proof.Machine.execTst4 a t v s
  | .tst64 a t v => Sys2Proof.Machine.execTst64 a t v s
  | .tst256 a t v => Sys2Proof.Machine.execTst256 a t v s
  | .tstS a x v => Sys2Proof.Machine.execTstS a x v s
  | .touchR a r b => Sys2Proof.Machine.execTouchR a r b s
  | .touchW a r b => Sys2Proof.Machine.execTouchW a r b s
  | .touchRw a r b => Sys2Proof.Machine.execTouchRw a r b s
  | .touchRel a => Sys2Proof.Machine.execTouchRel a s
  | .aset a r k => Sys2Proof.Machine.execAset a r k s
  | .ainc a r j => Sys2Proof.Machine.execAinc a r j s
  | .amovTo d a => Sys2Proof.Machine.execAmovTo d a s
  | .amovFrom d a k => Sys2Proof.Machine.execAmovFrom d a k s
  | .atomAdd a t v => Sys2Proof.Machine.execAtomAdd a t v s
  | .atomMin a t v => Sys2Proof.Machine.execAtomMin a t v s
  | .atomMax a t v => Sys2Proof.Machine.execAtomMax a t v s
  | .atomCas a t v => Sys2Proof.Machine.execAtomCas a t v s
  | .tldt a k c => Sys2Proof.Machine.execTldt a k c s
  | .tstt a k c => Sys2Proof.Machine.execTstt a k c s
  | .vadd d a b m => Sys2Proof.Machine.execVadd d a b m s
  | .vsub d a b m => Sys2Proof.Machine.execVsub d a b m s
  | .vmul d a b m => Sys2Proof.Machine.execVmul d a b m s
  | .vfma d a b m => Sys2Proof.Machine.execVfma d a b m s
  | .vmax d a b m => Sys2Proof.Machine.execVmax d a b m s
  | .vmin d a b m => Sys2Proof.Machine.execVmin d a b m s
  | .vsel d a b m => Sys2Proof.Machine.execVsel d a b m s
  | .vmov d a m => Sys2Proof.Machine.execVmov d a m s
  | .vcmpEq d a b m => Sys2Proof.Machine.execVcmpEq d a b m s
  | .vcmpNe d a b m => Sys2Proof.Machine.execVcmpNe d a b m s
  | .vcmpLt d a b m => Sys2Proof.Machine.execVcmpLt d a b m s
  | .vcmpLe d a b m => Sys2Proof.Machine.execVcmpLe d a b m s
  | .vsfn d a f m => Sys2Proof.Machine.execVsfn d a f m s
  | .vredAdd d a m => Sys2Proof.Machine.execVredAdd d a m s
  | .vredMax d a m => Sys2Proof.Machine.execVredMax d a m s
  | .vredMin d a m => Sys2Proof.Machine.execVredMin d a m s
  | .vredArgmax d a m => Sys2Proof.Machine.execVredArgmax d a m s
  | .vperm d a b m => Sys2Proof.Machine.execVperm d a b m s
  | .vbcast d a b m => Sys2Proof.Machine.execVbcast d a b m s
  | .vcvtRne d a t m => Sys2Proof.Machine.execVcvtRne d a t m s
  | .vcvtSr d a t m => Sys2Proof.Machine.execVcvtSr d a t m s
  | .vcvtRtz d a t m => Sys2Proof.Machine.execVcvtRtz d a t m s
  | .vcvtMode d a t m => Sys2Proof.Machine.execVcvtMode d a t m s
  | .vpop d m => Sys2Proof.Machine.execVpop d m s
  | .vlogAnd d a b m => Sys2Proof.Machine.execVlogAnd d a b m s
  | .vlogOr d a b m => Sys2Proof.Machine.execVlogOr d a b m s
  | .vlogXor d a b m => Sys2Proof.Machine.execVlogXor d a b m s
  | .vlogAndn d a b m => Sys2Proof.Machine.execVlogAndn d a b m s
  | .vshfL d a b m => Sys2Proof.Machine.execVshfL d a b m s
  | .vshfR d a b m => Sys2Proof.Machine.execVshfR d a b m s
  | .vshfA d a b m => Sys2Proof.Machine.execVshfA d a b m s
  | .vshfRol d a b m => Sys2Proof.Machine.execVshfRol d a b m s
  | .vsplit d a b m => Sys2Proof.Machine.execVsplit d a b m s
  | .vjoin d a b m => Sys2Proof.Machine.execVjoin d a b m s
  | .vmlogAnd d a b => Sys2Proof.Machine.execVmlogAnd d a b s
  | .vmlogOr d a b => Sys2Proof.Machine.execVmlogOr d a b s
  | .vmlogXor d a b => Sys2Proof.Machine.execVmlogXor d a b s
  | .vmlogNot d a => Sys2Proof.Machine.execVmlogNot d a s
  | .vretagSet d a t m => Sys2Proof.Machine.execVretagSet d a t m s
  | .vretagRead d a m => Sys2Proof.Machine.execVretagRead d a m s
  | .vretagClr d a m => Sys2Proof.Machine.execVretagClr d a m s
  | .vscl d a b m => Sys2Proof.Machine.execVscl d a b m s
  | .mcall r b => Sys2Proof.Machine.execMcall r b s
  | .msetp k a => Sys2Proof.Machine.execMsetp k a s
  | .mseth k a => Sys2Proof.Machine.execMseth k a s
  | .muwr a b => Sys2Proof.Machine.execMuwr a b s
  | .mpref k => Sys2Proof.Machine.execMpref k s
  | .relax z u w v f => Sys2Proof.Machine.execRelax z u w v f s
  | .relaxb z t w => Sys2Proof.Machine.execRelaxb z t w s
  | .mma d a b e => Sys2Proof.Machine.execMma d a b e s
  | .mmaZ d a b e => Sys2Proof.Machine.execMmaZ d a b e s
  | .mmaT d a b e => Sys2Proof.Machine.execMmaT d a b e s
  | .mmaZt d a b e => Sys2Proof.Machine.execMmaZt d a b e s
  | .copy d a l e c => Sys2Proof.Machine.execCopy d a l e c s
  | .copyadd d a c h => Sys2Proof.Machine.execCopyadd d a c h s
  | .bcast a => Sys2Proof.Machine.execBcast a s
  | .blatch a => Sys2Proof.Machine.execBlatch a s
  | .xtest p a c => Sys2Proof.Machine.execXtest p a c s
  | .send a b => Sys2Proof.Machine.execSend a b s
  | .recv a b => Sys2Proof.Machine.execRecv a b s
  | .qpush a b => Sys2Proof.Machine.execQpush a b s
  | .qpop a => Sys2Proof.Machine.execQpop a s
  | .bdred a b => Sys2Proof.Machine.execBdred a b s
  | .bdidx a b => Sys2Proof.Machine.execBdidx a b s
  | .bdtopk a b => Sys2Proof.Machine.execBdtopk a b s
  | .smerge k a v => Sys2Proof.Machine.execSmerge k a v s
  | .sreset k a => Sys2Proof.Machine.execSreset k a s
  | .ssoft k v => Sys2Proof.Machine.execSsoft k v s
  | .sdraw d a k => Sys2Proof.Machine.execSdraw d a k s
  | .saccept d a v => Sys2Proof.Machine.execSaccept d a v s
  | .smatch d a b => Sys2Proof.Machine.execSmatch d a b s
  | .spen d a b => Sys2Proof.Machine.execSpen d a b s
  | .nop => Sys2Proof.Machine.execNop s
  | .uend => Sys2Proof.Machine.execUend s
  | .umma d a b h m f k => Sys2Proof.Machine.execUmma d a b h m f k s
  | .uew d a b h m f k => Sys2Proof.Machine.execUew d a b h m f k s
  | .fmodeWrite core x => Sys2Proof.Machine.execFmodeWrite core x s
  | .sigReady core bank => Sys2Proof.Machine.execSigReady core bank s
  | .wsctlWrite core x => Sys2Proof.Machine.execWsctlWrite core x s
  | .wenChange die => Sys2Proof.Machine.execWenChange die s
  | .rqbaseWrite x => Sys2Proof.Machine.execRqbaseWrite x s
  | .ptbaseWrite x => Sys2Proof.Machine.execPtbaseWrite x s
  | .scinvAll core => Sys2Proof.Machine.execScinvAll core s
  | .scinvTid core tid => Sys2Proof.Machine.execScinvTid core tid s
  | .scinvComplete core => Sys2Proof.Machine.execScinvComplete core s
  | .tidemarkRead core chan => Sys2Proof.Machine.execTidemarkRead core chan s
  | .wptrRead core chan => Sys2Proof.Machine.execWptrRead core chan s
  | .slctlRead core => Sys2Proof.Machine.execSlctlRead core s
  | .sstatRead core => Sys2Proof.Machine.execSstatRead core s
  | .clkdRead core => Sys2Proof.Machine.execClkdRead core s
  | .functionLevelReset fn => Sys2Proof.Machine.execFunctionLevelReset fn s
  | .pageRequestResponse fn pasid iova code page => Sys2Proof.Machine.execPageRequestResponse fn pasid iova code page s
  | .doorbellTail fn q x => Sys2Proof.Machine.execDoorbellTail fn q x s
  | .doorbellChead fn q x => Sys2Proof.Machine.execDoorbellChead fn q x s
  | .queueConfigWrite q off x => Sys2Proof.Machine.execQueueConfigWrite q off x s
  | .queueEnable q x => Sys2Proof.Machine.execQueueEnable q x s
  | .queueDisable q => Sys2Proof.Machine.execQueueDisable q s
  | .queueErrorClear q x => Sys2Proof.Machine.execQueueErrorClear q x s
  | .launchAccept q => Sys2Proof.Machine.execLaunchAccept q s
  | .spawnRelease die => Sys2Proof.Machine.execSpawnRelease die s
  | .starvationBound launch => Sys2Proof.Machine.execStarvationBound launch s
  | .checkpointSaveComplete core => Sys2Proof.Machine.execCheckpointSaveComplete core s
  | .groupResume core => Sys2Proof.Machine.execGroupResume core s
  | .registerMiss core part => Sys2Proof.Machine.execRegisterMiss core part s
  | .backgroundFill core => Sys2Proof.Machine.execBackgroundFill core s
  | .taskEnd core dead => Sys2Proof.Machine.execTaskEnd core dead s
  | .watchdogExpiry core => Sys2Proof.Machine.execWatchdogExpiry core s
  | .recvTimeout core => Sys2Proof.Machine.execRecvTimeout core s
  | .qpopReplyTimeout core bank seq => Sys2Proof.Machine.execQpopReplyTimeout core bank seq s
  | .relaxAbsentCore core => Sys2Proof.Machine.execRelaxAbsentCore core s
  | .touchWindowExpiry core => Sys2Proof.Machine.execTouchWindowExpiry core s
  | .descriptorRead core tid => Sys2Proof.Machine.execDescriptorRead core tid s
  | .spanEntryFetch core bank seq => Sys2Proof.Machine.execSpanEntryFetch core bank seq s
  | .loadReply core bank seq err => Sys2Proof.Machine.execLoadReply core bank seq err s
  | .storePerform core bank seq => Sys2Proof.Machine.execStorePerform core bank seq s
  | .copySectorWrite core chan err => Sys2Proof.Machine.execCopySectorWrite core chan err s
  | .operandFetch core id err => Sys2Proof.Machine.execOperandFetch core id err s
  | .mmaComplete core seq => Sys2Proof.Machine.execMmaComplete core seq s
  | .relaxIteration core => Sys2Proof.Machine.execRelaxIteration core s
  | .relaxComplete core => Sys2Proof.Machine.execRelaxComplete core s
  | .copyaddRow core read => Sys2Proof.Machine.execCopyaddRow core read s
  | .tldtRow core read => Sys2Proof.Machine.execTldtRow core read s
  | .tsttRow core seq => Sys2Proof.Machine.execTsttRow core seq s
  | .recvComplete core id => Sys2Proof.Machine.execRecvComplete core id s
  | .queuePushPerform core bank seq => Sys2Proof.Machine.execQueuePushPerform core bank seq s
  | .queuePopServe core bank seq => Sys2Proof.Machine.execQueuePopServe core bank seq s
  | .barrierRelease core launch bar gen => Sys2Proof.Machine.execBarrierRelease core launch bar gen s
  | .waitRelease core => Sys2Proof.Machine.execWaitRelease core s
  | .drainRelease core => Sys2Proof.Machine.execDrainRelease core s
  | .clkdivApply core x => Sys2Proof.Machine.execClkdivApply core x s
  | .engineCommandStart stack => Sys2Proof.Machine.execEngineCommandStart stack s
  | .engineCommandComplete stack err bad => Sys2Proof.Machine.execEngineCommandComplete stack err bad s
  | .boundaryPublish grp => Sys2Proof.Machine.execBoundaryPublish grp s
  | .strandlineWalkComplete core bank => Sys2Proof.Machine.execStrandlineWalkComplete core bank s
  | .governorCycle core => Sys2Proof.Machine.execGovernorCycle core s
  | .refreshWindowStart die => Sys2Proof.Machine.execRefreshWindowStart die s
  | .refreshWindowEnd die => Sys2Proof.Machine.execRefreshWindowEnd die s
  | .patrolScrub res unit addr err => Sys2Proof.Machine.execPatrolScrub res unit addr err s
  | .bandRise z0 z1 z2 z3 => Sys2Proof.Machine.execBandRise z0 z1 z2 z3 s
  | .bandFall z0 z1 z2 z3 => Sys2Proof.Machine.execBandFall z0 z1 z2 z3 s
  | .stackTimingSwitch unit => Sys2Proof.Machine.execStackTimingSwitch unit s
  | .valveControlPeriod z0 z1 z2 z3 v0 v1 v2 v3 l0 l1 l2 l3 => Sys2Proof.Machine.execValveControlPeriod z0 z1 z2 z3 v0 v1 v2 v3 l0 l1 l2 l3 s
  | .elimRestore die => Sys2Proof.Machine.execElimRestore die s
  | .selfTestComplete res unit addr owner ok spare => Sys2Proof.Machine.execSelfTestComplete res unit addr owner ok spare s
  | .trainingComplete ok => Sys2Proof.Machine.execTrainingComplete ok s
  | .warmrunTrainingComplete ok => Sys2Proof.Machine.execWarmrunTrainingComplete ok s
  | .peerDataFrame peer port ok seq stime path n data => Sys2Proof.Machine.execPeerDataFrame peer port ok seq stime path n data s
  | .peerAcknowledge peer seq credit => Sys2Proof.Machine.execPeerAcknowledge peer seq credit s
  | .peerNegativeAcknowledge peer seq => Sys2Proof.Machine.execPeerNegativeAcknowledge peer seq s
  | .resendTimeout peer => Sys2Proof.Machine.execResendTimeout peer s
  | .acknowledgeTimer peer => Sys2Proof.Machine.execAcknowledgeTimer peer s
  | .skomonFlitReceive src dst bad => Sys2Proof.Machine.execSkomonFlitReceive src dst bad s
  | .resultLanding core => Sys2Proof.Machine.execResultLanding core s
  | .mcallComplete core seq => Sys2Proof.Machine.execMcallComplete core seq s
  | .raceCheckAnswer core mode die block => Sys2Proof.Machine.execRaceCheckAnswer core mode die block s
  | .parameterBlockRead core tid c => Sys2Proof.Machine.execParameterBlockRead core tid c s
  | .draftTreeRead core addr => Sys2Proof.Machine.execDraftTreeRead core addr s
  | .rbqWordAdded core => Sys2Proof.Machine.execRbqWordAdded core s
  | .hbm4Refresh stack chan => Sys2Proof.Machine.execHbm4Refresh stack chan s
  | .ptpMessage port ns num den => Sys2Proof.Machine.execPtpMessage port ns num den s
  | .atsInvalidation fn pasid iova => Sys2Proof.Machine.execAtsInvalidation fn pasid iova s
  | .moduleReset => Sys2Proof.Machine.execModuleReset s
  | .groupPlacement => Sys2Proof.Machine.execGroupPlacement s
  | .timingSwitchComplete => Sys2Proof.Machine.execTimingSwitchComplete s
  | .purgeComplete => Sys2Proof.Machine.execPurgeComplete s
  | .descentComplete => Sys2Proof.Machine.execDescentComplete s
  | .soakComplete => Sys2Proof.Machine.execSoakComplete s
  | .ascentComplete => Sys2Proof.Machine.execAscentComplete s
  | .sensorsDisagree => Sys2Proof.Machine.execSensorsDisagree s
  | .valveNotFollowing => Sys2Proof.Machine.execValveNotFollowing s
  | .lossOfVacuum => Sys2Proof.Machine.execLossOfVacuum s
  | .rateOfChange => Sys2Proof.Machine.execRateOfChange s
  | .warmstopTimeout => Sys2Proof.Machine.execWarmstopTimeout s
  | .cool => Sys2Proof.Machine.execCool s
  | .warmup => Sys2Proof.Machine.execWarmup s
  | .resume => Sys2Proof.Machine.execResume s
  | .freeze => Sys2Proof.Machine.execFreeze s
  | .thaw => Sys2Proof.Machine.execThaw s
  | .warmrun => Sys2Proof.Machine.execWarmrun s
  | .warmstop => Sys2Proof.Machine.execWarmstop s
  | .status => Sys2Proof.Machine.execStatus s
  | .log => Sys2Proof.Machine.execLog s
  | .attest => Sys2Proof.Machine.execAttest s
  | .pubkey => Sys2Proof.Machine.execPubkey s
  | .chainReadOut => Sys2Proof.Machine.execChainReadOut s
  | .ptpHoldover => Sys2Proof.Machine.execPtpHoldover s
  | .unknownCommand => Sys2Proof.Machine.execUnknownCommand s

end Sys2Proof.Machine
end

