-- ==== Sys2Proof/Machine/Slots.lean ====
section
/-!
DEFINITION. What the slot instructions name: the registers that count as destinations of a bundle (06 R131) and the
parts of a context that a lazy restore may still owe (15 R278).
-/
namespace Sys2Proof.Machine

/-- A register a slot names as its destination. -/
inductive RegName where
  | g (r : Nat) | p (r : Nat) | a (r : Nat) | v (r : Nat) | vm (r : Nat) | t (r : Nat) | m (r : Nat) | lc (r : Nat)
  deriving DecidableEq, Repr

/-- The destinations a slot instruction names (06 R131): a load, store or atomic names its address register exactly when
its step is not zero. -/
def destsOf : Instr → List RegName
  | .add d _ _ => [.g d.val]
  | .sub d _ _ => [.g d.val]
  | .and d _ _ => [.g d.val]
  | .or d _ _ => [.g d.val]
  | .xor d _ _ => [.g d.val]
  | .shl d _ _ => [.g d.val]
  | .shr d _ _ => [.g d.val]
  | .sar d _ _ => [.g d.val]
  | .mul d _ _ => [.g d.val]
  | .mulhS d _ _ => [.g d.val]
  | .mulhU d _ _ => [.g d.val]
  | .divu d _ _ => [.g d.val]
  | .remu d _ _ => [.g d.val]
  | .cmpEq p _ _ => [.p p.val]
  | .cmpNe p _ _ => [.p p.val]
  | .cmpLt p _ _ => [.p p.val]
  | .cmpLtu p _ _ => [.p p.val]
  | .addi d _ _ => [.g d.val]
  | .shiL d _ _ => [.g d.val]
  | .shiR d _ _ => [.g d.val]
  | .shiA d _ _ => [.g d.val]
  | .shiRol d _ _ => [.g d.val]
  | .cmpiEq p _ _ => [.p p.val]
  | .cmpiNe p _ _ => [.p p.val]
  | .cmpiLt p _ _ => [.p p.val]
  | .cmpiLtu p _ _ => [.p p.val]
  | .lis d _ => [.g d.val]
  | .shin d _ => [.g d.val]
  | .call d _ => [.g d.val]
  | .loops k _ _ => [.lc k.val]
  | .mfs d _ => [.g d.val]
  | .swaps d _ => [.g d.val]
  | .plogAnd d _ _ => [.p d.val]
  | .plogOr d _ _ => [.p d.val]
  | .plogXor d _ _ => [.p d.val]
  | .plogAndn d _ _ => [.p d.val]
  | .barArr d _ _ => [.g d.val]
  | .clz d _ => [.g d.val]
  | .rdcyc d => [.g d.val]
  | .bstep d _ => [.g d.val]
  | .rqrd d _ _ => [.g d.val]
  | .rqret d _ _ => [.g d.val]
  | .tld4 a t _ => if t = 0 then [] else [.a a.val]
  | .tld64 a t _ => if t = 0 then [] else [.a a.val]
  | .tld256 a t _ => if t = 0 then [] else [.a a.val]
  | .tst4 a t _ => if t = 0 then [] else [.a a.val]
  | .tst64 a t _ => if t = 0 then [] else [.a a.val]
  | .tst256 a t _ => if t = 0 then [] else [.a a.val]
  | .aset a _ _ => [.a a.val]
  | .ainc a _ _ => [.a a.val]
  | .amovTo d _ => [.a d.val]
  | .amovFrom d _ _ => [.g d.val]
  | .atomAdd a t _ => if t = 0 then [] else [.a a.val]
  | .atomMin a t _ => if t = 0 then [] else [.a a.val]
  | .atomMax a t _ => if t = 0 then [] else [.a a.val]
  | .atomCas a t _ => if t = 0 then [] else [.a a.val]
  | .tldt _ k _ => [.t k.val]
  | .vadd d _ _ _ => [.v d.val]
  | .vsub d _ _ _ => [.v d.val]
  | .vmul d _ _ _ => [.v d.val]
  | .vfma d _ _ _ => [.v d.val]
  | .vmax d _ _ _ => [.v d.val]
  | .vmin d _ _ _ => [.v d.val]
  | .vsel d _ _ _ => [.v d.val]
  | .vmov d _ _ => [.v d.val]
  | .vcmpEq d _ _ _ => [.vm d.val]
  | .vcmpNe d _ _ _ => [.vm d.val]
  | .vcmpLt d _ _ _ => [.vm d.val]
  | .vcmpLe d _ _ _ => [.vm d.val]
  | .vsfn d _ _ _ => [.v d.val]
  | .vredAdd d _ _ => [.v d.val]
  | .vredMax d _ _ => [.v d.val]
  | .vredMin d _ _ => [.v d.val]
  | .vredArgmax d _ _ => [.v d.val]
  | .vperm d _ _ _ => [.v d.val]
  | .vbcast d _ _ _ => [.v d.val]
  | .vcvtRne d _ _ _ => [.v d.val]
  | .vcvtSr d _ _ _ => [.v d.val]
  | .vcvtRtz d _ _ _ => [.v d.val]
  | .vcvtMode d _ _ _ => [.v d.val]
  | .vpop d _ => [.v d.val]
  | .vlogAnd d _ _ _ => [.v d.val]
  | .vlogOr d _ _ _ => [.v d.val]
  | .vlogXor d _ _ _ => [.v d.val]
  | .vlogAndn d _ _ _ => [.v d.val]
  | .vshfL d _ _ _ => [.v d.val]
  | .vshfR d _ _ _ => [.v d.val]
  | .vshfA d _ _ _ => [.v d.val]
  | .vshfRol d _ _ _ => [.v d.val]
  | .vsplit d _ _ _ => [.v d.val, .v (d.val + 1), .v (d.val + 2)]
  | .vjoin d _ _ _ => [.v d.val]
  | .vmlogAnd d _ _ => [.vm d.val]
  | .vmlogOr d _ _ => [.vm d.val]
  | .vmlogXor d _ _ => [.vm d.val]
  | .vmlogNot d _ => [.vm d.val]
  | .vretagSet d _ _ _ => [.v d.val]
  | .vretagRead d _ _ => [.v d.val]
  | .vretagClr d _ _ => [.v d.val]
  | .vscl d _ _ _ => [.v d.val]
  | .msetp k _ => [.m k.val]
  | .mseth k _ => [.m k.val]
  | .relax z _ _ _ _ => [.t z.val]
  | .relaxb z _ _ => [.t z.val]
  | .mma d _ _ _ => [.t d.val]
  | .mmaZ d _ _ _ => [.t d.val]
  | .mmaT d _ _ _ => [.t d.val]
  | .mmaZt d _ _ _ => [.t d.val]
  | .copyadd d _ _ _ => [.t d.val]
  | .xtest p _ _ => [.p p.val]
  | .sdraw d _ _ => [.g d.val]
  | .saccept d _ _ => [.g d.val]
  | .smatch d _ _ => [.g d.val]
  | .spen d _ _ => [.v d.val]
  | _ => []

/-- The v registers, tiles, candidate register file and microprogram area an instruction uses by name (15 R278). -/
def usesOf : Instr → List Part
  | .tldG _ v _ => [.v v.val]
  | .tst4 _ _ v => [.v v.val]
  | .tst64 _ _ v => [.v v.val]
  | .tst256 _ _ v => [.v v.val]
  | .tstS _ i v => [.v v.val, .v i.toNat]
  | .atomAdd _ _ v => [.v v.val]
  | .atomMin _ _ v => [.v v.val]
  | .atomMax _ _ v => [.v v.val]
  | .atomCas _ _ v => [.v v.val, .v (v.val + 1)]
  | .tldt _ k _ => [.tile k.val]
  | .tstt _ k _ => [.tile k.val]
  | .vadd d a b _ => [.v d.val, .v a.val, .v b.val]
  | .vsub d a b _ => [.v d.val, .v a.val, .v b.val]
  | .vmul d a b _ => [.v d.val, .v a.val, .v b.val]
  | .vfma d a b _ => [.v d.val, .v a.val, .v b.val]
  | .vmax d a b _ => [.v d.val, .v a.val, .v b.val]
  | .vmin d a b _ => [.v d.val, .v a.val, .v b.val]
  | .vsel d a b _ => [.v d.val, .v a.val, .v b.val]
  | .vmov d a _ => [.v d.val, .v a.val]
  | .vcmpEq _ a b _ => [.v a.val, .v b.val]
  | .vcmpNe _ a b _ => [.v a.val, .v b.val]
  | .vcmpLt _ a b _ => [.v a.val, .v b.val]
  | .vcmpLe _ a b _ => [.v a.val, .v b.val]
  | .vsfn d a _ _ => [.v d.val, .v a.val]
  | .vredAdd d a _ => [.v d.val, .v a.val]
  | .vredMax d a _ => [.v d.val, .v a.val]
  | .vredMin d a _ => [.v d.val, .v a.val]
  | .vredArgmax d a _ => [.v d.val, .v a.val]
  | .vperm d a b _ => [.v d.val, .v a.val, .v b.val]
  | .vbcast d a b _ => [.v d.val, .v a.val, .v b.val]
  | .vcvtRne d a _ _ => [.v d.val, .v a.val]
  | .vcvtSr d a _ _ => [.v d.val, .v a.val]
  | .vcvtRtz d a _ _ => [.v d.val, .v a.val]
  | .vcvtMode d a _ _ => [.v d.val, .v a.val]
  | .vpop d _ => [.v d.val]
  | .vlogAnd d a b _ => [.v d.val, .v a.val, .v b.val]
  | .vlogOr d a b _ => [.v d.val, .v a.val, .v b.val]
  | .vlogXor d a b _ => [.v d.val, .v a.val, .v b.val]
  | .vlogAndn d a b _ => [.v d.val, .v a.val, .v b.val]
  | .vshfL d a b _ => [.v d.val, .v a.val, .v b.val]
  | .vshfR d a b _ => [.v d.val, .v a.val, .v b.val]
  | .vshfA d a b _ => [.v d.val, .v a.val, .v b.val]
  | .vshfRol d a b _ => [.v d.val, .v a.val, .v b.val]
  | .vsplit d a b _ => [.v d.val, .v a.val, .v b.val, .v (d.val + 1), .v (d.val + 2)]
  | .vjoin d a b _ => [.v d.val, .v a.val, .v b.val, .v (b.val + 1), .v (b.val + 2), .v (b.val + 3), .v (b.val + 4), .v (b.val + 5)]
  | .vretagSet d a _ _ => [.v d.val, .v a.val]
  | .vretagRead d a _ => [.v d.val, .v a.val]
  | .vretagClr d a _ => [.v d.val, .v a.val]
  | .vscl d a b _ => [.v d.val, .v a.val, .v b.val]
  | .mcall _ _ => [.micro]
  | .muwr _ _ => [.micro]
  | .relax z u _ _ _ => [.tile z.val, .tile u.val]
  | .relaxb z t _ => [.tile z.val, .tile t.val]
  | .mma d a _ _ => [.tile d.val, .tile a.val]
  | .mmaZ d a _ _ => [.tile d.val, .tile a.val]
  | .mmaT d a _ _ => [.tile d.val, .tile a.val]
  | .mmaZt d a _ _ => [.tile d.val, .tile a.val]
  | .copyadd d _ _ _ => [.tile d.val]
  | .qpush _ b => [.v b.toNat]
  | .smerge _ _ v => [.v v.val, .crf]
  | .sreset _ _ => [.crf]
  | .ssoft _ v => [.v v.val, .crf]
  | .sdraw _ _ _ => [.crf]
  | .saccept _ _ v => [.v v.val]
  | .spen d _ _ => [.v d.val]
  | _ => []

end Sys2Proof.Machine
end

