-- ==== Sys2Proof/Machine/Issue.lean ====
section
/-!
DEFINITION. The issue of one core's bundle (06 R130-R132): its fetch and the decode checks, the look-ahead nullifier
(02 R48), the hardware loops (22 R354), and what its slots do together.
-/
namespace Sys2Proof.Machine

/-! ### Fetch and decode (06 R130, R131) -/

/-- The words from an address up to and including the first with S = 1, at most `k`. -/
def wordsFrom (m : Memory) (a : Nat) : Nat → List Nat
  | 0 => []
  | k + 1 => let w := m.read a 4; if bitAt w 31 then [w] else w :: wordsFrom m (a + 4) k

/-- The class of a slot by its major opcode: 0 C, 1 A, 2 V, 3 M, 4 X, 5 S, 6 none (06 R138). -/
def slotClass (w : Nat) : Nat :=
  let op := field w 20 6
  if op ≤ 0x13 then 0 else if op ≤ 0x1A then 1 else if op ≤ 0x2B then 2 else if op ≤ 0x2F then 3
  else if op ≤ 0x34 then 4 else if op ≤ 0x39 then 5 else 6

/-- A decoded slot that meets its instruction's operand limits. -/
def legalSlot (w : Nat) : Option Slot := (decodeSlot w).filter fun x => x.instr.wellFormed

/-- The position of the first slot with a reserved encoding, and its word. -/
def firstIllegal : Nat → List Nat → Option (Nat × Nat)
  | _, [] => none
  | k, w :: r => if (legalSlot w).isNone then some (k, w) else firstIllegal (k + 1) r

/-- A list names no member twice. -/
def distinct (l : List RegName) : Bool :=
  match l with
  | [] => true
  | x :: r => !r.contains x && distinct r

/-- A word may be fetched: inside the image for a task, anywhere in HBM for supervisor code (06 R131). -/
def State.mayFetch (s : State) (a : Nat) : Bool :=
  a % 4 = 0 &&
  (if s.sup then a + 4 ≤ hbmSize
   else match s.core.task with
     | some t => t.image ≤ a && a + 4 ≤ t.image + t.imlen
     | none => false)

/-- A decode trap (06 R131, R132). -/
def decodeTrap (cause tval : Nat) : TrapReq := { cause := cause, tval := BitVec.ofNat 64 tval, cls := 1 }

/-- The bundle at the present core's pc: its words and its slots, or the decode trap of 06 R131.  Words that may not be
fetched are not decoded. -/
def State.fetch (s : State) : Except TrapReq (List Nat × List Slot) :=
  let pc := s.core.bank.pc
  let ws := (wordsFrom s.hbm pc 8).take ((List.range 8).takeWhile fun k => s.mayFetch (pc + 4 * k)).length
  let slots := ws.filterMap legalSlot
  let count (k : Nat) : Nat := (ws.filter fun w => slotClass w = k).length
  match firstIllegal 0 ws with
  | some (k, w) => .error (decodeTrap cIllegalInsn (k + w * 2 ^ 32))
  | none =>
    if !(ws.any fun w => bitAt w 31) then .error (decodeTrap cIllegalBundle (if ws.length < 8 then 6 else 2))
    else if ws.length < 4 then .error (decodeTrap cIllegalBundle 1)
    else if 1 < count 0 ∨ 2 < count 1 ∨ 2 < count 2 ∨ 1 < count 3 ∨ 1 < count 4 ∨ 1 < count 5 then .error (decodeTrap cIllegalBundle 3)
    else if !distinct (slots.flatMap fun x => destsOf x.instr) then .error (decodeTrap cIllegalBundle 4)
    else .ok (ws, slots)

/-! ### Guards, loops and the nullifier -/

/-- A slot's guard as it stands. -/
def State.guardOf (s : State) (x : Slot) : Bool := s.p x.guard != x.neg

/-- A guard's predicate meets the nullifier's condition: last written by a bundle issued three or more issue cycles ago,
and landed (02 R48). -/
def Bank.settled (b : Bank) (p : Nat) : Bool :=
  p = 0 || (max (SMap.get 0 b.pw p) b.resumed ≤ b.issues - 2 && !(b.inflight.any fun r => match r.write with
    | .p q _ => q = p
    | _ => false))

/-- A bundle is skipped: all its guards are false and each meets the condition. -/
def State.skips (s : State) (slots : List Slot) : Bool :=
  slots.all fun x => !s.guardOf x && s.core.bank.settled x.guard

/-- The end test of the hardware loops for the bundle at `pc`, the highest first: the next bundle and the loops
(22 R354). -/
def loopTest (pc fall : Nat) (lc : SMap Loop) : List Nat → Nat × SMap Loop
  | [] => (fall, lc)
  | k :: r =>
    let l := SMap.get {} lc k
    if 0 < l.count ∧ l.stop = pc then
      if 1 < l.count then (l.start, SMap.set {} lc k { l with count := l.count - 1 })
      else loopTest pc fall (SMap.set {} lc k { l with count := 0 }) r
    else loopTest pc fall lc r

/-- The bundle that follows the one at the present core's pc, and the loops, when it takes no transfer. -/
def State.flow (s : State) (n : Nat) : Nat × SMap Loop :=
  let b := s.core.bank
  loopTest b.pc ((b.pc + 4 * n) % 2 ^ 40) b.lc [3, 2, 1, 0]

/-! ### The debug trace (12 R241) -/

/-- The branch outcomes of a bundle: a guarded BR or CALL, taken or not; the target of a JMPR or RET. -/
def State.branchRecord (s : State) (x : Slot) : State :=
  let guarded : Bool := x.guard ≠ 0 || x.neg
  let image := (s.core.task.map Task.image).getD 0
  let go := s.guardOf x
  match x.instr with
  | .br _ => if guarded then s.traced 1 0x22 (if go then 1 else 0) 0 else s
  | .call _ _ => if guarded then s.traced 1 0x22 (if go then 1 else 0) 0 else s
  | .jmpr a => if go then s.traced 1 0x22 (((s.g a).toNat - image) / 4) 0 else s
  | .ret a => if go then s.traced 1 0x22 (((s.g a).toNat - image) / 4) 0 else s
  | _ => s

/-- The record of a freeze, or of its part with one cause, that ends, and of a run of governor cycles. -/
def State.freezeRecord (s : State) : State :=
  let c := s.core
  let s := if 0 < c.stalled then s.traced 0 0x20 (c.cause % 65536) c.stalled else s
  -- a relaxation's wait for a refresh window or for its operands (07 R175)
  let s := if 0 < c.stalled ∧ c.relax.isSome ∧ (c.cause % 256 = 4 ∨ c.cause % 256 = 20) then s.traced 3 0x24 (4 + 8 * c.cause) c.stalled else s
  let s := if 0 < c.gov then s.traced 0 0x21 0 c.gov else s
  s.onCore fun c => { c with stalled := 0, gov := 0 }

/-- The present core's freeze is over: its record, and what the bundle held had waited for. -/
def State.freezeOver (s : State) : State :=
  s.freezeRecord.onCore fun c => { c with frozen := 0, held := 0, waits := [], recvWait := false, fetched := [], recvFrom := none }

/-! ### Parts a lazy restore still owes (15 R278) -/

/-- The v registers and tiles an instruction uses that its operands alone do not name. -/
def State.moreUses (s : State) (i : Instr) : List Part :=
  let tiles (z u w : Nat) (back : Bool) : List Part :=
    let par := (s.core.bank.readM (w + 1)).toNat
    let n := (field par 0 2 + 1) * (field par 2 2 + 1)
    let ahd := if back then 0 else s.core.bank.sys.ahd.toNat
    let hist := if ahd = 0 then 0 else (2 * ahd + 2) * n
    ((List.range n).flatMap fun k => [.tile (z + k), .tile (u + k)]) ++ (List.range hist).map fun k => .tile (32 - hist + k)
  match i with
  | .vjoin _ a _ _ => (List.range (modesOf s.core.bank.sys.fmode).fps).map fun k => .v (a + k)
  | .relax z u w _ _ => tiles z u w false
  | .relaxb z u w => tiles z u w true
  | _ => []

/-! ### The slots of a bundle together (06 R132, 10 R201) -/

/-- A slot that issues: its position, its draining rank (C, A0, A1, V0, V1, M, X, S), its place in the order in which
the model applies effects, and its instruction. -/
structure Live where
  pos : Nat
  rank : Nat
  order : Nat
  instr : Instr
  deriving DecidableEq, Repr

/-- An instruction that stores from an A slot: the loads of a bundle read before it (10 R201). -/
def storesOf : Instr → Bool
  | .tst4 _ _ _ => true
  | .tst64 _ _ _ => true
  | .tst256 _ _ _ => true
  | .tstS _ _ _ => true
  | .atomAdd _ _ _ => true
  | .atomMin _ _ _ => true
  | .atomMax _ _ _ => true
  | .atomCas _ _ _ => true
  | .tstt _ _ _ => true
  | _ => false

/-- The rank of a slot of a class, the `k`-th of it. -/
def rankOf (cls k : Nat) : Nat := match cls with
  | 0 => 0
  | 1 => 1 + k
  | 2 => 3 + k
  | 3 => 5
  | 4 => 6
  | _ => 7

/-- Effects apply in the order M, X, S, SPAWN and FILLQ, which read the scratchpad, V, A loads, A stores, BLATCH, the other
C slots: no slot sees another's. -/
def orderOf (cls k : Nat) (i : Instr) : Nat := match cls with
  | 0 => match i with
    | .spawn _ _ => 3
    | .fillq _ _ => 3
    | _ => 20
  | 1 => (if storesOf i then 12 else 10) + k
  | 2 => 6 + k
  | 3 => 0
  | 4 => match i with
    | .blatch _ => 14
    | _ => 1
  | _ => 2

/-- The slots whose guard is true, NOPs left out; `seen` lists the classes of the slots before.  A VCVT.SR whose guard is
false is not among them and pops no RBQ word: the spec does not say whether it does (DESIGN CHOICE, log 50). -/
def State.liveSlots (s : State) (pos : Nat) (seen : List Nat) : List Nat → List Slot → List Live
  | w :: ws, x :: xs =>
    let k := slotClass w
    let n := (seen.filter (· = k)).length
    let rest := State.liveSlots s (pos + 1) (k :: seen) ws xs
    if s.guardOf x && k ≠ 6 then { pos := pos, rank := rankOf k n, order := orderOf k n x.instr, instr := x.instr } :: rest else rest
  | _, _ => []

/-- What the slots of a bundle answer together. -/
structure Gather where
  s : State
  holds : List (Nat × Bool) := []
  reqs : List Sched := []
  traps : List (TrapReq × Option Core) := []
  /-- A TRAP or BRKP with its trap, or a TRET: it acts once the bundle has committed. -/
  post : Option (Live × Option TrapReq) := none
  /-- Scratchpad banks of the A slots so far, by rank, and whether two of them met (04 R84). -/
  banks : List (Nat × Nat) := []
  met : Bool := false
  stop : Option (Fault ⊕ Refusal) := none
  deriving DecidableEq, Repr

/-- An instruction whose effect follows its bundle's commit (15 R256, R258). -/
def actsAfter : Instr → Bool
  | .trap _ => true
  | .brkp => true
  | .tret => true
  | _ => false

/-- Scratchpad banks of the accesses that stand in a core now and did not before (04 R84). -/
def newBanks (before after : Core) : List Nat :=
  let here (n : Nat) (l : Loc) : List Nat := if l.space = .spad after.id then banksOf l.addr n else []
  let loads := (after.bank.laq.filter fun x => x.isLocal && decide (before.accSeq ≤ x.seq)).flatMap fun x =>
    x.elems.flatMap fun e => e.loc.toList.flatMap (here (max 1 (eltBytes x.desc.tag)))
  (loads ++ (after.cur.stored.drop before.cur.stored.length).flatMap fun p => here p.2 p.1).eraseDups

/-- The state a slot's instruction sees. -/
def State.atSlot (s : State) (x : Live) : State :=
  { s with raised := none, holding := none
           core := { s.core with cur := { s.core.cur with pos := x.pos, rank := x.rank } } }

/-- One slot's instruction: its effect, its hold or its trap. -/
def Gather.slot (g : Gather) (x : Live) : Gather :=
  let s := g.s.atSlot x
  match exec x.instr s with
  | .fault f => { g with stop := some (.inl f) }
  | .refused r => { g with stop := some (.inr r) }
  | .next t =>
    match t.raised, t.holding with
    | some r, _ =>
      if r.cls = 7 then { g with post := some (x, some r) }
      else
        -- a MUWR's scan that fails leaves its entry invalid (08 R197)
        let left := match x.instr with
          | .muwr _ _ => some { s.core with routines := t.core.routines, stall := (t.core.stall.1 * s.core.ctl.per, t.core.stall.2) }
          | _ => none
        { g with traps := g.traps ++ [({ r with rank := x.rank }, left)] }
    | none, some h => { g with holds := g.holds ++ [h], reqs := g.reqs ++ t.calendar.filter fun e => !s.calendar.contains e }
    | none, none =>
      if actsAfter x.instr then { g with post := some (x, none) }
      else
        -- the rows of a TSTT pass through the store queues, not the A slot's port
        let bs := match x.instr with
          | .tstt _ _ _ => []
          | _ => newBanks s.core t.core
        { g with s := t, banks := g.banks ++ bs.map fun b => (x.rank, b)
                 met := g.met || bs.any fun b => g.banks.any fun y => decide (y.1 ≠ x.rank ∧ y.2 = b) }

/-- The first of the traps in the order of 06 R132, then in draining order. -/
def firstTrap (l : List (TrapReq × Option Core)) : Option (TrapReq × Option Core) :=
  (sortBy (fun (t : TrapReq × Option Core) => t.1.cls * 8 + t.1.rank) l).head?

/-- SACCEPT's trim predicates are destinations of its bundle (17 R294). -/
def State.trimClash (s : State) (slots : List Slot) (live : List Live) : Bool :=
  let x := s.core.bank.sys.sctrim.toNat
  let pb := field x 2 4
  bitAt x 0 && live.any fun (y : Live) => match y.instr with
    | .saccept _ _ _ => slots.any fun z => (destsOf z.instr).any fun d => match d with
      | .p r => pb ≤ r && r < pb + 4
      | _ => false
    | _ => false

/-- Weights of the slots that issue (02 R44). -/
def slotCharge (l : List Live) : Nat := (l.map fun x => match x.rank with
  | 0 => 1
  | 1 => 2
  | 2 => 2
  | 3 => 4
  | 4 => 4
  | 5 => 16
  | 6 => 3
  | _ => 2).foldl (· + ·) 0

/-- How a core's bundle answers: it does not issue now, it is held, it traps (with what the trap leaves of it), it
commits with the weight of its slots and what follows its commit, or the machine stops. -/
inductive Issued where
  | idle (s : State)
  | held (codes : List (Nat × Bool)) (reqs : List Sched)
  | trap (t : TrapReq) (left : Option Core)
  | done (s : State) (charge : Nat) (post : Option (Live × Option TrapReq))
  | stop (o : Fault ⊕ Refusal)
  deriving DecidableEq, Repr

/-- Other domains advance under a hold that waits for their work: WAIT, CLKDIV and TEND, and a DRAIN or a barrier while
row operations or RECVs are under way (log 10). -/
def Core.advances (c : Core) (a : After) : Bool :=
  a.cause = 11 || a.cause = 17 || a.cause = 18 || !c.rowOps.isEmpty || !c.recvs.isEmpty

/-- The state in which a bundle's slots are tried: what they know of the bundle. -/
def State.openBundle (s : State) (ws : List Nat) : State :=
  let next := s.flow ws.length
  s.onCore fun c => { c with cur := { words := ws, npc := next.1, follow := (c.bank.pc + 4 * ws.length) % 2 ^ 40 } }

/-- The bundle commits: the next bundle, the loops, the issue count, the numbers; the core's freeze is over. -/
def State.commit (s : State) (lc : SMap Loop) (met : Bool) : State :=
  let c := s.core
  let wait : Nat × Nat := (c.stall.1 * c.ctl.per + (if met then c.ctl.per else 0), if met then 6 else c.stall.2)
  let b := c.bank
  let b := { b with pc := c.cur.npc % 2 ^ 40, bubbles := if c.cur.taken then 2 else 0, issues := b.issues + 1
                    lc := if c.cur.taken then b.lc else lc }
  { s with core := { c with bank := b, seq := c.seq + 1, stall := wait } }

/-- The edge of a bundle released from a tile's scoreboard (12 R235). -/
def State.scoreEdge (s : State) : State :=
  if 0 < s.core.waited 5 then
    match s.core.dones.find? (fun e => e.1 = 3) with
    | some (_, d) => s.adoptWait 5 0x0A d.at' d.path 5 s.core.id 0
    | none => s
  else s

/-- Two A slots of a bundle met in a scratchpad bank (04 R84): the later one performs in the next control-domain cycle,
but for a load beside a store, which reads before it (10 R201). -/
def lateOne (live : List Live) : Option Live :=
  match live.filter fun x => x.rank = 1 || x.rank = 2 with
  | [x, y] => if storesOf x.instr && !storesOf y.instr then none else some y
  | _ => none

/-- The slot that performs late, with what it knew of its bundle. -/
def State.lateSlot (s : State) (x : Live) : LateSlot :=
  { instr := x.instr, cur := { s.core.cur with pos := x.pos, rank := x.rank }, pc := s.core.bank.pc, seq := s.core.seq }

/-- The slot that performs late does so, its latencies counted from its bundle (04 R84). -/
def State.runLate (s : State) (x : LateSlot) : State :=
  let c := s.core
  let t := { s with core := { c with late := none, cur := x.cur, seq := x.seq, bank := { c.bank with pc := x.pc }
                                     ctl := { c.ctl with cycles := c.ctl.cycles - 1 } } }
  match exec x.instr t with
  | .next u => u.onCore fun d => { d with cur := c.cur, seq := c.seq, ctl := c.ctl, bank := { d.bank with pc := c.bank.pc } }
  | _ => { s with core := { c with late := none } }

/-- The holds of a bundle that an absent part of its context puts before it (15 R278), and the fetch they ask for. -/
def State.partHolds (s : State) (live : List Live) : List (Nat × Bool) × List Sched :=
  match s.partsThere (live.flatMap fun x => usesOf x.instr ++ s.moreUses x.instr) with
  | .error (.hold k a q) => ([(k, a)], q.toList.map fun i => { at' := s.now + 1, event := i })
  | _ => ([], [])

/-- The slots of a bundle tried together; two A slots that meet in a bank are tried apart (04 R84). -/
def State.tryBundle (s : State) (live : List Live) : Gather :=
  let g := (sortBy Live.order live).foldl Gather.slot { s := s }
  match lateOne live with
  | some y =>
    if g.met && g.traps.isEmpty && g.holds.isEmpty then
      let h := (sortBy Live.order (live.filter fun x => x.pos ≠ y.pos)).foldl Gather.slot { s := s }
      { h with met := true, s := h.s.onCore fun c => { c with late := some (s.lateSlot y) } }
    else g
  | none => g

/-- The slots of a bundle issue together; `extra` holds it beside what its slots meet. -/
def State.run (s : State) (ws : List Nat) (slots : List Slot) (extra : List (Nat × Bool)) : Issued :=
  let live := s.liveSlots 0 [] ws slots
  let s1 := s.openBundle ws
  let owed := s1.partHolds live
  let g := s1.tryBundle live
  let traps := if s.trimClash slots live then (decodeTrap cIllegalBundle 4, none) :: g.traps else g.traps
  let holds := extra ++ owed.1 ++ g.holds
  match g.stop with
  | some o => .stop o
  | none =>
    if !holds.isEmpty then .held holds (owed.2 ++ g.reqs)
    else match firstTrap traps with
    | some (t, left) => .trap t left
    | none =>
      let t := slots.foldl State.branchRecord g.s.scoreEdge.freezeOver
      .done (t.commit (s1.flow ws.length).2 g.met) (slotCharge live) g.post

/-- An all-false bundle that is not skipped issues as an empty cycle (02 R48). -/
def State.runEmpty (s : State) (slots : List Slot) : Issued :=
  let next := s.flow slots.length
  let t := slots.foldl State.branchRecord s.freezeOver
  let b := { t.core.bank with pc := next.1, lc := next.2, issues := t.core.bank.issues + 1 }
  .done { t with core := { t.core with bank := b, seq := t.core.seq + 1 } } 0 none

/-- An empty cycle of a taken transfer (02 R40). -/
def State.runBubble (s : State) : Issued :=
  .done (s.onBank fun b => { b with bubbles := b.bubbles - 1, issues := b.issues + 1 }) 0 none

/-- A link down on the way of an access that a freeze of the present core meets (04 R98): of a queued access or, until it
is translated, of the read of its span table; of a copy, an operand fetch or a row that is next. -/
def State.deadAccess (s : State) : Option Nat :=
  let b := s.core.bank
  let table (x : Access) : List Loc := if x.known then [] else [{ space := .hbm, addr := x.desc.base }]
  let queued := b.unperformed.flatMap fun x => x.elems.flatMap Elt.places ++ table x
  let copies := s.core.chans.flatMap fun ch => (ch.2.queue.take 1).flatMap s.copyPlaces
  let rows := s.core.rowOps.flatMap s.rowPlaces
  ((queued ++ copies ++ rows).filterMap (s.deadLink s.core.id)).head?

/-- LINK_TIMEOUT in place of a freeze that waits on a link that is down. -/
def State.orDead (s : State) (r : Issued) : Issued :=
  match r with
  | .held codes reqs =>
    match s.deadAccess with
    | some k => .trap (linkDown k) none
    | none => .held codes reqs
  | r => r

/-- Accesses of a bank whose translation is still under way (15 R269). -/
def Bank.resolving (b : Bank) : Bool :=
  (b.laq.any fun x => x.reply.isNone && !x.known && !b.ring.any fun e => e.seq = x.seq) ||
  (b.stq.any fun x => !x.known && !b.ring.any fun e => e.seq = x.seq)

/-- Core `n` at a reference cycle of its domain: pending traps first, then what still holds its next bundle, then the
bundle. -/
def State.issue (s : State) (n : Nat) : Issued :=
  let s := s.focus n
  let c := s.core
  -- a row that a fault stops lets its cycle pass no more than a freeze would: its trap is taken at once
  if !c.running || c.returned || (c.ctl.phase ≠ 0 && !c.rowOps.any fun r => r.stopped = 1 || r.stopped = 2) then .idle s
  else match drainOrder c.bank.pending with
  | t :: rest =>
    if t.ring && c.bank.resolving then .held [(2, false)] []
    else .trap t (some { c with bank := { c.bank with pending := rest } })
  | [] =>
  if c.ctl.phase ≠ 0 then .idle s
  else if 0 < c.stall.1 then .held [(c.stall.2, false)] []
  else if 0 < c.bank.bubbles then s.runBubble
  else match c.bank.after with
  | some (a, _) => s.orDead (.held [(a.cause, c.advances a)] [])
  | none =>
  match s.fetch with
  | .error t => .trap t none
  | .ok (ws, slots) =>
    let extra : List (Nat × Bool) := if c.scinv || s.wenNext.any (fun w => w.core = n) then [(15, false)] else []
    if slots.all fun x => !s.guardOf x then (if extra.isEmpty then s.runEmpty slots else .held extra [])
    else s.orDead (s.run ws slots extra)

/-- A bundle of core `n` that the nullifier skips now, taking no cycle: the machine past it (02 R48, 22 R354). -/
def State.skip (s : State) (n : Nat) : Option State :=
  let s := s.focus n
  let c := s.core
  if !c.running || c.returned || c.ctl.phase ≠ 0 || 0 < c.stall.1 || 0 < c.bank.bubbles || c.bank.after.isSome then none
  else match s.fetch with
  | .error _ => none
  | .ok (ws, slots) =>
    if s.skips slots then
      let next := s.flow ws.length
      let image := (c.task.map Task.image).getD 0
      some ((s.traced 1 0x23 ((c.bank.pc - image) / 4) 0).onBank fun b => { b with pc := next.1, lc := next.2 })
    else none

end Sys2Proof.Machine
end

