-- ==== Sys2Proof/Machine/Cycle.lean ====
section
/-!
DEFINITION. One reference cycle of a freeze domain (02 R40-R47): what is due in it, what freezes it, what its cores issue,
the governor, and the clocks.
-/
namespace Sys2Proof.Machine

/-! ### What is due before the cycle's bundles -/

/-- The event of a row operation's next row. -/
def RowOp.event (r : RowOp) (core : Nat) : Instr :=
  let c := BitVec.ofNat 8 core
  let q := BitVec.ofNat 48 r.seq
  match r.kind with
  | .copyAdd => .copyaddRow c (q, false)
  | .load => .tldtRow c (q, false)
  | .store => .tsttRow c q

/-- A RECV whose lines can go on: none of those that wait is held behind the retry ring (20 R327). -/
def Core.recvReady (c : Core) (r : RecvOp) : Bool :=
  !(c.due.any fun d => d.event = .recvComplete (BitVec.ofNat 8 c.id) (BitVec.ofNat 64 r.id)) && !c.halted &&
  ((c.bankOf r.bank).stq.filter fun x => r.waits.contains x.seq).all fun x => !x.held

/-- The event that ends the hold before the present core's next bundle, once it may end. -/
def State.holdEnds (s : State) : Option (Sum Instr State) :=
  let c := s.core
  let n := BitVec.ofNat 8 c.id
  if c.returned || c.ctl.phase ≠ 0 || 0 < c.bank.bubbles || 0 < c.stall.1 || !c.bank.pending.isEmpty || !s.afterMet then none
  else match c.bank.after with
  | none => none
  | some (.wait _ _ _ _, _) => some (.inl (.waitRelease n))
  | some (.drain _ _, _) => some (.inl (.drainRelease n))
  | some (.acq, _) => some (.inl (.drainRelease n))
  | some (.bar _, _) => some (.inr s.passAfter)
  | some (.tend, _) => some (.inl (.taskEnd n false))
  | some (.clkdiv x, _) => some (.inl (.clkdivApply n (BitVec.ofNat 16 x)))

/-- What is due at core `n` before its bundle: an event with the machine it acts on, or the machine past a hold. -/
def State.dueAt (s : State) (n : Nat) : Option (Sum (Instr × State) State) :=
  let s := s.focus n
  let c := s.core
  let k := BitVec.ofNat 8 n
  if c.landMiss.isNone && c.bank.inflight.any c.lands then some (.inl (.resultLanding k, s))
  else match c.due.find? fun d => decide (d.cycle ≤ (c.clock d.dom).cycles) with
  | some d => some (.inl (d.event, { s with core := { c with due := c.due.erase d } }))
  | none =>
  match if c.ctl.phase = 0 then c.late else none with
  | some x => some (.inr (s.runLate x))
  | none =>
  match s.rowNext with
  | some r => some (.inl (r.event n, s))
  | none =>
  match c.recvs.find? c.recvReady with
  | some r => some (.inl (.recvComplete k (BitVec.ofNat 64 r.id), s))
  | none =>
  if c.bank.windows.any fun w => decide (w.ends ≤ c.bank.issues) then some (.inl (.touchWindowExpiry k, s))
  else match s.holdEnds with
  | some (.inl i) => some (.inl (i, s))
  | some (.inr t) => some (.inr t)
  | none => none

/-- The first thing due among cores. -/
def State.dueIn? (s : State) : List Nat → Option (Sum (Instr × State) State)
  | [] => none
  | n :: r => match s.dueAt n with
    | some x => some x
    | none => s.dueIn? r

/-- The first bundle that the nullifier skips among cores. -/
def State.skipIn (s : State) : List Nat → Option State
  | [] => none
  | n :: r => match s.skip n with
    | some t => some t
    | none => s.skipIn r

/-! ### Freezes (02 R42, R43) -/

/-- A relaxation comes to a tile of the weight store inside a refresh window of its die (04 R90, 07 R179). -/
def State.refreshed (s : State) (c : Core) : Bool := c.streams && decide (s.now < SMap.get 0 s.windows (dieOf c.id))

/-- Freezes of core `n` that no bundle of this cycle causes: causes of 15 R430 with their queue codes. -/
def State.standing (s : State) (n : Nat) : List (Nat × Bool) :=
  let s := s.focus n
  let c := s.core
  let rows := c.rowOps.filter fun r => c.rowDue r && s.rowLate r
  let late := !rows.isEmpty
  let full := c.rowOps.any fun r => c.rowDue r && c.rowFull r
  let fetch := c.fetchLags
  let push := c.bank.stq.any Access.waiting
  let shut := (c.bank.unperformed.flatMap (fun x => x.elems.flatMap Elt.places) ++ rows.flatMap s.rowPlaces).map s.shut
    |>.filter fun k => decide (0 < k)
  let owed := (c.chans.flatMap fun ch => ch.2.queue.take 1).any fun t => [(t.src, c.spad), (t.dst, c.spad)].any fun r =>
    (r.1.desc.kind = .spad && (blocksOf (r.1.off.getD 0) t.len).any fun k => c.owes (.spad k)) ||
    (r.1.desc.kind = .wbuf && (blocksOf (r.1.off.getD 0) t.len).any fun k => c.owes (.wbuf k))
  (if c.landMiss.isSome then [(19, false)] else []) ++ (if full then [(3 + 256 * 3, false)] else []) ++ (if push then [(3 + 256 * 16, false)] else []) ++
    shut.map (fun k => (k, false)) ++ (if owed then [(19, false)] else []) ++ (if fetch then [(20, false)] else []) ++
    (if late then [(22, false)] else []) ++ (if s.refreshed c then [(4, false)] else [])

/-- The part that a landing of core `n` waits for, and those that a copy at the head of a channel does (15 R263, R278). -/
def State.owedParts (s : State) (n : Nat) : List Sched :=
  let c := s.coreOf n
  let parts := (c.chans.flatMap fun ch => ch.2.queue.take 1).flatMap fun t => [t.src, t.dst].flatMap fun r =>
    if r.desc.kind = .spad then (blocksOf (r.off.getD 0) t.len).map Part.spad
    else if r.desc.kind = .wbuf then (blocksOf (r.off.getD 0) t.len).map Part.wbuf else []
  ((c.landMiss.toList ++ parts.filter c.owes).take 1).map fun p =>
    { at' := s.now + 1, event := .registerMiss (BitVec.ofNat 8 n) (BitVec.ofNat 16 p.code) }

/-- The freezes in which the decompressor catches up with the array pass (04 R88). -/
def Core.catchUp (c : Core) : Core :=
  { c with lag := (c.lag.map fun x => if x.1 ≤ c.mat.cycles then (x.1, x.2 - 1) else x).filter fun x => decide (0 < x.2) }

/-- A freeze that holds a core's bundle: the core, its cause, whether the other domains advance. -/
abbrev Held := Nat × Nat × Bool

/-- What a core's engines draw in a cycle. -/
def Core.draw (c : Core) : Nat :=
  let relax := match c.relax with
    | some r => ceilDiv (12 * c.passLive r) 64
    | none => if c.mat.cycles < c.mBusy then 12 else 0
  relax + (if c.chans.any fun ch => !ch.2.queue.isEmpty then 2 else 0)

/-- The lowest cause of several (15 R430). -/
def lowestCause (l : List Held) : Nat :=
  (l.map fun h => h.2.1).foldl (fun m k => if m = 0 ∨ k % 256 < m % 256 then k else m) 0

/-- The causes that hold core `n`'s bundle: its own, or, where only its freeze domain stands, the domain's (02 R42). -/
def causesOf (held : List Held) (n : Nat) : List Held :=
  let mine := held.filter fun h => h.1 = n
  if mine.isEmpty then held else mine

/-- An exchange of row sums between the cores of a relaxation is under way (07 R173). -/
def Core.exchanging (c : Core) : Bool :=
  c.relax.any fun r => r.parts.head?.any fun p => p.1 = .ctl

/-- The domains that advance while a hold waits for them (log 10). -/
def Core.goOn (c : Core) (codes : List Nat) : Core :=
  let all := codes.contains 17
  let wait := all || codes.any [9, 11, 12, 18].contains
  { c with mat := c.mat.tick
           vec := if wait || c.relax.isSome then c.vec.tick else c.vec
           cpy := if wait then c.cpy.tick else c.cpy
           ctl := if all || c.exchanging then c.ctl.tick else c.ctl }

/-- A charge enters a core's window of 15 reference cycles (02 R45). -/
def Core.charged (c : Core) (now charge : Nat) : Core :=
  { c with window := ((now, charge) :: c.window).filter fun w => decide (now < w.1 + 15) && decide (0 < w.2) }

/-- A barrier wait of core `n` whose launch has a checkpointed group: its watchdog is suspended (12 R224). -/
def State.suspended (s : State) (held : List Held) : Bool :=
  held.any fun h => h.2.1 = 9 && match (s.coreOf h.1).task with
    | some t => s.saved.any fun g => g.launch = t.launch
    | none => false

/-- One core in a reference cycle of a freeze of its domain: the watchdog's count, which the wait of a RECV alone leaves
at 0 and the end of one starts afresh (02 R43), the trace's count, the bundle's waits. -/
def Core.freeze (c : Core) (held : List Held) (suspended : Bool) (now : Nat) : Core :=
  let codes := held.map fun h => h.2.1 % 256
  let mine := held.filter fun h => h.1 = c.id
  let cause := lowestCause (causesOf held c.id)
  let count := if codes.all (· = 10) then 0 else if suspended then c.frozen
    else if c.recvWait && !codes.contains 10 then 1 else c.frozen + 1
  { c with frozen := count, cause := cause, stalled := if c.cause = cause then c.stalled + 1 else 1
           held := if mine.isEmpty then c.held else c.held + 1
           waits := (mine.map fun h => h.2.1 % 256).eraseDups.foldl (fun m k => SMap.set 0 m k (SMap.get 0 m k + 1)) c.waits
           recvWait := codes.contains 10, stall := (c.stall.1 - 1, c.stall.2), nextAt := now + 1 }

/-- The record of a freeze of core `n` whose cause changes (02 R42, 12 R241). -/
def State.causeChange (s : State) (held : List Held) (n : Nat) : State :=
  let c := s.coreOf n
  if 0 < c.stalled ∧ c.cause ≠ lowestCause (causesOf held n) then (s.focus n).freezeRecord.focus s.core.id else s

/-- The wait of a RECV begins: its own count runs from here (20 R326). -/
def State.recvBegins (s : State) (n : Nat) : State :=
  if (s.coreOf n).recvFrom.isSome then s
  else (s.onCoreOf n fun c => { c with recvFrom := some s.now }).exactly (2 ^ 20) (.recvTimeout (BitVec.ofNat 8 n))

/-- One reference cycle of a freeze of a domain. -/
def State.freezeFor (s : State) (ids : List Nat) (held : List Held) (reqs : List Sched) : State :=
  let codes := held.map fun h => h.2.1 % 256
  let go := held.all fun h => h.2.2
  let now := s.now
  let cal := reqs.foldl (fun cal e => if cal.any (fun x => x.event = e.event) then cal else putSched e cal) s.calendar
  let s := { s with calendar := cal, lates := s.lates.drop reqs.length }
  let quiet := s.suspended held
  let s := ids.foldl (fun s n => (s.causeChange held n).onCoreOf n fun c =>
    let c := (c.freeze held quiet now).catchUp
    if go then (c.goOn codes).charged now c.draw else c) s
  ((held.filter fun h => h.2.1 = 10).map Prod.fst).eraseDups.foldl State.recvBegins s

/-- The core whose watchdog expires: of a frozen group, the first whose bundle the freeze holds (02 R43). -/
def State.expired (s : State) (ids : List Nat) : Option Nat :=
  match ids.find? fun n => decide (2 ^ 20 ≤ (s.coreOf n).frozen) with
  | none => none
  | some n => match (s.members (s.coreOf n)).find? fun c => decide (0 < c.held) with
    | some c => some c.id
    | none => some n

/-! ### What a domain's cores do in one cycle -/

/-- The groups among a domain's cores. -/
def splitGroups (same : Nat → Nat → Bool) : Nat → List Nat → List (List Nat)
  | 0, _ => []
  | _, [] => []
  | k + 1, n :: r => (n :: r.filter (same n)) :: splitGroups same k (r.filter fun m => !same n m)

/-- Two cores belong to one lockstep group. -/
def State.sameGroup (s : State) (a b : Nat) : Bool :=
  a = b || match (s.coreOf a).task, (s.coreOf b).task with
    | some t, some u => t.launch = u.launch && t.first = u.first
    | _, _ => false

/-- A domain's cycle as it is tried: the machine so far, what holds it, the traps and the ends of bundles of the group at
hand, the charges, the cores that entered their handlers. -/
structure Turn where
  s : State
  held : List Held := []
  reqs : List Sched := []
  charges : List (Nat × Nat) := []
  traps : List (Nat × TrapReq × Option Core) := []
  posts : List (Nat × Live × Option TrapReq) := []
  entered : List Nat := []
  stop : Option (Fault ⊕ Refusal) := none
  deriving DecidableEq, Repr

/-- One core's bundle. -/
def Turn.core (t : Turn) (n : Nat) : Turn :=
  match t.s.issue n with
  | .idle s => { t with s := s }
  | .held codes reqs => { t with held := t.held ++ codes.map fun k => (n, k), reqs := t.reqs ++ reqs }
  | .trap r left => { t with traps := t.traps ++ [(n, r, left)] }
  | .done s charge post =>
    { t with s := s, charges := t.charges ++ [(n, charge)]
             posts := match post with
               | some p => t.posts ++ [(n, p)]
               | none => t.posts }
  | .stop o => { t with stop := some o }

/-- A core's freeze is over: its record, and what the bundle held had fetched. -/
def State.unfreeze (s : State) (n : Nat) : State :=
  (s.focus n).freezeOver

/-- The traps of a group, one core's or several cores' own (15 R255). -/
def State.groupTrap (s : State) (ids : List Nat) (l : List (Nat × TrapReq)) : State :=
  match l with
  | [] => s
  | (n, r) :: rest =>
    let s := ((ids.foldl State.unfreeze s).focus n).recordsOf rest
    s.takeTrapAt r s.core.bank.pc rest

/-- The traps of a group, each with what it leaves of its core. -/
def State.groupTraps (s : State) (ids : List Nat) (l : List (Nat × TrapReq × Option Core)) : State :=
  let left (s : State) (x : Nat × TrapReq × Option Core) : State := match x.2.2 with
    | some c => s.onCoreOf x.1 fun _ => c
    | none => s
  (l.foldl left s).groupTrap ids (l.map fun x => (x.1, x.2.1))

/-- A core's clocks go one reference cycle on. -/
def Core.clocks (c : Core) : Core := { c with ctl := c.ctl.tick, mat := c.mat.tick, vec := c.vec.tick, cpy := c.cpy.tick }

/-- A TRET of a bundle that has committed (15 R256). -/
def State.afterTret (s : State) (n : Nat) : State :=
  match exec .tret (s.focus n) with
  | .next t => t
  | _ => s

/-- A group's cores issue; on a trap nothing of its bundles commits (06 R132). -/
def Turn.group (t : Turn) (ids : List Nat) : Turn :=
  let g := ids.foldl Turn.core { t with traps := [], posts := [] }
  if !g.traps.isEmpty then
    { g with s := t.s.groupTraps ids g.traps, charges := t.charges, entered := t.entered ++ ids }
  else
    let own := g.posts.filterMap fun p => p.2.2.map fun r => (p.1, r)
    if own.isEmpty then { g with s := g.posts.foldl (fun s p => s.afterTret p.1) g.s }
    -- the bundle has issued: its cycle passes before what it left in flight is captured (15 R259)
    else { g with s := (ids.foldl (fun s n => s.onCoreOf n Core.clocks) g.s).groupTrap ids own, entered := t.entered ++ ids }

/-! ### The governor (02 R44, R45) -/

/-- A core's charge in this cycle. -/
def Turn.charge (t : Turn) (c : Core) : Nat := ((t.charges.find? fun x => x.1 = c.id).map Prod.snd).getD 0 + c.draw

/-- A core whose charges of 16 reference cycles would exceed its limit (02 R45, R46). -/
def Turn.over (t : Turn) (ids : List Nat) : Option Nat :=
  ids.find? fun n =>
    let s := t.s
    let c := s.coreOf n
    let past := ((c.window.filter fun w => decide (s.now ≤ w.1 + 15)).map Prod.snd).foldl (· + ·) 0
    decide (max 64 (min c.bank.sys.limit c.elim) < past + t.charge c)

/-! ### The clocks -/

/-- Work of core `n` that goes on by itself: its SENDs, its TRIG, its channels, its random bits. -/
def State.upkeep (s : State) (n : Nat) : State :=
  let s := (s.focus n).sendsGo
  let s := match s.core.bank.trigAt, s.core.task with
    | some q, some t => if s.core.storesBefore 2 q then s else (s.onBank fun b => { b with trigAt := none }).trigger t.launch
    | _, _ => s
  let s := s.focus n
  let s := if s.core.halted then s else [0, 1, 2, 3].foldl (fun s k => s.chanGo n k 1) s
  let word : Instr := .rbqWordAdded (BitVec.ofNat 8 n)
  if s.core.bank.rbq.held < 8 ∧ !(s.core.due.any fun d => d.event = word) then s.dueIn .ctl 1 word else s

/-- A core's clocks pass one reference cycle, but for the time of a context switch (02 R40). -/
def Core.pass (c : Core) (now : Nat) (switched : Bool) (charge : Nat) : Core :=
  let c := if switched then c else c.clocks
  { (c.charged now charge) with bank := c.bank.settle, other := c.other.settle, nextAt := now + 1 }

/-- Lines on a cluster's bus grow older by a bus cycle: the control-domain cycle of the domain's lowest core (04 R96). -/
def State.busCycle (s : State) (ids : List Nat) : State :=
  match ids with
  | [] => s
  | n :: _ =>
    let c := s.coreOf n
    if (c.task.map Task.bc).getD false && c.ctl.phase + 1 ≥ c.ctl.per then
      { s with buses := (s.buses.map fun b => if b.cluster = clusterOf n then { b with age := b.age + 1 } else b).filter
                 fun b => decide (b.age ≤ 4) }
    else s

/-- The cycle passes for a domain whose bundles have issued; a context switch holds it longer. -/
def Turn.pass (t : Turn) (old : State) (ids : List Nat) : State :=
  let s := (ids.foldl State.upkeep t.s).busCycle ids
  let switched (n : Nat) : Bool := t.entered.contains n || (s.coreOf n).bank.id ≠ (old.coreOf n).bank.id
  let u := ids.foldl (fun u n =>
    -- nothing of a core advances in its context switch (15 R252)
    let charge := if switched n && !t.charges.any (fun x => x.1 = n) then 0 else t.charge (t.s.coreOf n)
    u.onCoreOf n fun c => c.pass old.now (switched n) charge) s
  if ids.any switched then u.switchTime ids else u

/-- A governor cycle: nothing of the domain advances (02 R45). -/
def State.governed (s : State) (ids : List Nat) (n : Nat) : Out :=
  match exec (.governorCycle (BitVec.ofNat 8 n)) s with
  | .next t => .next (ids.foldl (fun t k => t.onCoreOf k fun c => { c with nextAt := s.now + 1 }) t)
  | o => o

/-! ### The domain's cycle -/

/-- What a checkpoint waits for on a core: a relaxation's iteration with its finish (07 R174), and operands that no fault
keeps from a matrix operation (15 R261). -/
def Core.unfinished (c : Core) : Bool :=
  (c.relax.any fun r => r.started && !r.paused) ||
    ((c.matOps.any MatOp.fetching) && !((SMap.get {} c.chans 3).queue.head?.any fun t => t.stopped = 1 || t.stopped = 2))

/-- The engines of a core advance one reference cycle while it waits to be frozen, as far as its operands keep up. -/
def State.engineCycle (s : State) (n : Nat) : State :=
  s.onCoreOf n fun c =>
    { (if c.fetchLags || s.refreshed c then c.catchUp else c.goOn []) with nextAt := s.now + 1 }

/-- A pre-emption waits for a domain at its bundle boundary (15 R274); while a checkpoint's operations run to their ends the
domain issues nothing. -/
def State.preempting (s : State) (ids : List Nat) : Option State :=
  match ids.find? fun n => (s.coreOf n).preempt.any fun p => !p.stopped with
  | none => none
  | some n =>
    let kill := (s.coreOf n).preempt.any Preempt.kill
    let waits := !kill && ids.any fun k => (s.coreOf k).unfinished
    if waits && ids.any (fun k => (s.coreOf k).relax.isSome) then some (ids.foldl State.engineCycle s)
    else if !ids.all fun k => (s.coreOf k).ctl.phase = 0 then none
    else if waits then some (ids.foldl State.engineCycle s)
    -- a checkpoint brings matrix operations to their ends first
    else if !kill && ids.any (fun k => (s.coreOf k).matOps.any fun o => !o.fetching) then
      some (ids.foldl (fun t k => t.onCoreOf k Core.endMatrix) s)
    else some (s.stopDomain n)

/-- A reference cycle in which a freeze holds a domain.  Where its engines advance, the governor may hold them too (02 R44,
R45). -/
def State.heldCycle (s : State) (ids : List Nat) (held : List Held) (reqs : List Sched) : Out :=
  if held.all fun h => h.2.2 then
    match ({ s := s } : Turn).over ids with
    | some n => s.governed ids n
    | none => .next (s.freezeFor ids held reqs)
  else .next (s.freezeFor ids held reqs)

/-- The traps of a group's cores that no freeze delays: decode traps (06 R132), and traps already due, which are taken
before a bundle that a freeze holds (15 R258, R259; DEDUCED, log 10); with what is left of the core. -/
def State.earlyTraps (s : State) (ids : List Nat) : List (Nat × TrapReq × Option Core) :=
  ids.filterMap fun n => match s.issue n with
    | .trap t left => if t.cls ≤ 1 || !(s.coreOf n).bank.pending.isEmpty then some (n, t, left) else none
    | _ => none

/-- Traps taken in a cycle in which a freeze holds the domain: the other groups' cores stay frozen. -/
def State.decodeFirst (s : State) (ids : List Nat) (held : List Held) (reqs : List Sched) : Option State :=
  match (splitGroups s.sameGroup ids.length ids).find? fun g => !(s.earlyTraps g).isEmpty with
  | none => none
  | some g =>
    let t := s.groupTraps g (s.earlyTraps g)
    some ((t.freezeFor (ids.filter fun n => !g.contains n) held reqs).switchTime ids)

/-- One reference cycle of a freeze domain. -/
def State.turn (s : State) (ids : List Nat) : Out :=
  match s.expired ids with
  | some n => match exec (.watchdogExpiry (BitVec.ofNat 8 n)) s with
    | .next t => .next (t.switchTime ids)
    | o => o
  | none =>
  match s.dueIn? ids with
  | some (.inl (i, t)) => exec i t
  | some (.inr t) => .next t
  | none =>
  match s.preempting ids with
  | some t => .next t
  | none =>
  match s.skipIn ids with
  | some t => .next t
  | none =>
  let standing : List Held := ids.flatMap fun n => (s.standing n).map fun k => (n, k)
  let t := (splitGroups s.sameGroup ids.length ids).foldl Turn.group { s := s }
  match t.stop with
  | some (.inl f) => .fault f
  | some (.inr r) => .refused r
  | none =>
    let held := standing ++ t.held
    if !held.isEmpty then
      let reqs := ids.flatMap s.owedParts ++ t.reqs
      match s.decodeFirst ids held reqs with
      | some u => .next u
      | none => s.heldCycle ids held reqs
    else match t.over ids with
    | some n => s.governed ids n
    | none => .next (t.pass s ids)

/-- The running cores of the freeze domain whose cycle is next, if one is due now. -/
def State.acting (s : State) : Option (List Nat) :=
  match s.cores.find? fun c => c.running && decide (c.nextAt ≤ s.now) with
  | none => none
  | some c => some ((s.domainOf c).map Core.id)

/-- The next reference cycle in which anything happens. -/
def State.nextTime (s : State) : Nat :=
  let ts := (s.calendar.head?.map Sched.at').toList ++ (s.cores.filter Core.running).map Core.nextAt
  match ts with
  | [] => s.now + 1
  | t :: r => max (s.now + 1) (r.foldl min t)

/-- What happens next when nothing comes from outside: an event of the calendar that is due, a freeze domain's cycle, or
time passes.  A frozen package does nothing (19 R312). -/
def State.tick (s : State) : Out :=
  if s.cryo.frozen then .next s
  else
    let cycle : Out := match s.acting with
      | some ids => s.turn ids
      | none => .next { s with now := s.nextTime }
    match s.calendar with
    | [] => cycle
    | e :: r => if e.at' ≤ s.now then exec e.event { s with calendar := r } else cycle

end Sys2Proof.Machine
end

