-- ==== Sys2Proof/Machine/Step.lean ====
section
/-!
DEFINITION. One step of the machine, and the placing of one instruction where the next step fetches it.
-/
namespace Sys2Proof.Machine

/-- One step: the next event from outside the machine, where one stands in the agenda; else what happens next by itself. -/
def step (s : State) : Host.Outcome State Fault Refusal :=
  match s.agenda with
  | i :: r => exec i { s with agenda := r }
  | [] => s.tick

/-- The core of a task in bank 0 that issues its first bundle now: what a launch of one task with its image at HBM address
0 leaves (log 6). -/
def placedCore (c : Core) (now : Nat) : Core :=
  { c with running := true, nextAt := now
           task := some { launch := 1, first := c.id, image := 0, imlen := 65536, began := now }
           bank := { id := 0, use := .task } }

/-- A core that holds its next bundle back for nothing. -/
def readyCore (c : Core) (now : Nat) : Core :=
  { c with nextAt := now, returned := false, frozen := 0, stall := (0, 0), scinv := false, due := [], rowOps := [], recvs := []
           preempt := none, ctl := { c.ctl with phase := 0 }
           bank := { c.bank with bubbles := 0, pending := [], inflight := [], after := none, windows := [] } }

/-- The machine with a table word in the slot it issues next, behind it three NOPs that end the bundle; the word's S, G
and N are 0, so that it is the first slot and its guard is p0.  The present core runs a task; nothing else is due first. -/
def State.withFetchWord (s : State) (_nbits w : Nat) : State :=
  let c := readyCore (if s.core.running then s.core else placedCore s.core s.now) s.now
  let a := c.bank.pc
  let later (d : Core) : Core := { d with nextAt := max d.nextAt (s.now + 1) }
  { s with agenda := [], calendar := s.calendar.filter fun e => decide (s.now < e.at')
           core := c, others := s.others.map later
           hbm := (((s.hbm.write a (w % 2 ^ 26) 4).write (a + 4) 0x03C00000 4).write (a + 8) 0x03C00000 4).write (a + 12) 0x83C00000 4
           cryo := { s.cryo with state := 5, released := true, frozen := false, band := 0, rband := 0, floor := 1 } }

end Sys2Proof.Machine
end

