-- ==== Sys2Proof/Safety.lean ====
section
/-!
DEFINITION. What counts as a safe run, in the terms statements use: the states a machine passes through, and runs in
which no step stops.
-/
namespace Sys2Proof

open Sys2Proof.Machine

/-- `t` is reached from `s` by steps that each answer a next state. -/
inductive Reaches : State → State → Prop where
  | refl (s : State) : Reaches s s
  | step {s t u : State} : Reaches s t → step t = .next u → Reaches s u

/-- None of the next `k` steps from `s` ends in a fault or a refusal. -/
def SafeFor : Nat → State → Prop
  | 0, _ => True
  | k + 1, s => ∃ t, step s = .next t ∧ SafeFor k t

/-- No run from `s` ends in a fault or a refusal. -/
def Safe (s : State) : Prop := ∀ k, SafeFor k s

/-! ### What statements say of one instruction -/

/-- `t` is `s` with one result more in flight: the write `w`, landing `lat` cycles of domain `d` after the bundle being
issued (06 R139, R140), with no flags.  Nothing else differs. -/
def PutsInFlight (s t : State) (w : RegWrite) (d : Dom) (lat : Nat) : Prop :=
  t = { s with core := { s.core with bank := { s.core.bank with
        inflight := s.core.bank.inflight ++ [{
          write := w, dom := d, due := (s.core.clock d).cycles + lat, bundle := s.core.bank.pc
          rank := s.core.cur.rank, seq := s.core.seq }] } } }

/-- `t` is `s` with a predicate result more in flight, latency 1, and the issue cycle of the predicate's last write noted
for the nullifier (02 R48).  Nothing else differs. -/
def PutsPredicate (s t : State) (p : PReg) (x : Bool) (d : Dom) : Prop :=
  t = { s with core := { s.core with bank := { s.core.bank with
        inflight := s.core.bank.inflight ++ [{
          write := .p p.val x, dom := d, due := (s.core.clock d).cycles + 1, bundle := s.core.bank.pc
          rank := s.core.cur.rank, seq := s.core.seq }]
        pw := SMap.set 0 s.core.bank.pw p.val (s.core.bank.issues + 1) } } }

/-- `t` is `s` with the transfer of the bundle being issued taken to `target` (06 R144).  Nothing else differs. -/
def Transfers (s t : State) (target : Nat) : Prop :=
  t = { s with core := { s.core with cur := { s.core.cur with npc := target, taken := true } } }

/-- The S, G and N bits of a slot word (06 R127). -/
def slotBits (last : Bool) (guard : PReg) (neg : Bool) : Nat :=
  (if last then 2 ^ 31 else 0) + guard.val * 2 ^ 27 + (if neg then 2 ^ 26 else 0)

/-- The class C register layout of 21 R330: the opcode at bit 20, fields D, A, B and F below it. -/
def classC (op d a b f : Nat) : Nat := op * 2 ^ 20 + d * 2 ^ 14 + a * 2 ^ 8 + b * 2 ^ 2 + f

/-- The digits of coordinates `j` to `n - 1` read as a number, coordinate `j` least significant (21 R332). -/
def linearIndex (d : Desc) (c : Nat → Nat) (j : Nat) : Nat → Nat
  | 0 => 0
  | k + 1 => if j ≤ k then linearIndex d c j k + c k * d.prod j k else 0

/-- The two banks' registers of 06 R129 are the same. -/
def SameRegisters (b c : Bank) : Prop :=
  b.g = c.g ∧ b.p = c.p ∧ b.a = c.a ∧ b.v = c.v ∧ b.vtag = c.vtag ∧ b.vm = c.vm ∧ b.t = c.t ∧ b.ttag = c.ttag ∧
  b.m = c.m ∧ b.lc = c.lc

/-- The two banks' decoupled queues and counters are the same (06 R141). -/
def SameQueues (b c : Bank) : Prop :=
  b.laq = c.laq ∧ b.ldq = c.ldq ∧ b.stq = c.stq ∧ b.loads = c.loads ∧ b.stores = c.stores ∧ b.copies = c.copies ∧
  b.tiles = c.tiles ∧ b.pushes = c.pushes

/-- Every register of the bank holds zero, every tag is 0, and its queues are empty (15 R252). -/
def FreshBank (b : Bank) : Prop := SameRegisters b {} ∧ SameQueues b {} ∧ b.replay = [] ∧ b.inflight = [] ∧ b.crf = [] ∧ b.rbq.held = 0

/-- No core but the present one belongs to its lockstep group. -/
def Alone (s : State) : Prop := s.members s.core = [s.core]

/-- The memories outside the cores are the same. -/
def SameOuterMemory (s t : State) : Prop := t.hbm = s.hbm ∧ t.host = s.host ∧ t.wstore = s.wstore

/-- A result in flight is due now: its domain has passed the cycle in which it lands (06 R139). -/
def DueNow (c : Core) (r : Result) : Prop := r.due ≤ (c.clock r.dom).cycles

/-- A result that raises an enabled exception, or SNAN, when it lands, and is discarded (05 R120, R121). -/
def Excepts (r : Result) : Prop := r.snan = true ∨ r.excepts ≠ 0

/-- Which register a write names (06 R129). -/
def writeName : RegWrite → RegName
  | .g r _ => .g r
  | .p r _ => .p r
  | .a r _ => .a r
  | .v r _ _ _ => .v r
  | .vm r _ => .vm r
  | .m r _ => .m r
  | .lc r _ => .lc r

/-- A result lands now and its value stands: it is due, raises nothing, and every other result due now that names its
register was issued before it. -/
def LandsLast (c : Core) (r : Result) : Prop :=
  r ∈ c.bank.inflight ∧ DueNow c r ∧ ¬ Excepts r ∧
  ∀ x ∈ c.bank.inflight, DueNow c x → writeName x.write = writeName r.write → x ≠ r →
    x.seq * 8 + x.rank < r.seq * 8 + r.rank

/-- No result due now names the register. -/
def LandsNot (c : Core) (n : RegName) : Prop := ∀ x ∈ c.bank.inflight, DueNow c x → writeName x.write = n → Excepts x

/-! ### Memory, byte by byte -/

/-- Two places name the same byte. -/
def SameByte (l k : Loc) : Prop :=
  match l.space, k.space with
  | .host _ _, .host _ _ => l.addr = k.addr
  | .wstore d, .wstore e => wsKey d l.addr = wsKey e k.addr
  | _, _ => l = k

/-- A place is one of the bytes of an element of a list, of a tag's size. -/
def BytesOf (es : List Elt) (tag : Nat) (l : Loc) : Prop :=
  ∃ e ∈ es, ∃ p ∈ e.pieces tag, ∃ i < p.2, SameByte l { p.1 with addr := p.1.addr + i }

/-- An element lies in one piece, or in two that make up its bytes and share none (04 R81). -/
def WholeElt (e : Elt) (tag : Nat) : Prop :=
  e.loc ≠ none ∧ ∀ k r, e.rest = some (k, r) → 0 < k ∧ k < eltBytes tag ∧
    ∀ l, e.loc = some l → ∀ i < k, ∀ j < eltBytes tag - k, ¬ SameByte { l with addr := l.addr + i } { r with addr := r.addr + j }

/-- Every byte that core `n`'s bank `i` can name reads as before. -/
def SameBytes (s t : State) (n i : Nat) : Prop := ∀ l, t.byteAt n i l = s.byteAt n i l

/-! ### Accesses -/

/-- A place in the executing core's own memories (10 R200). -/
def OwnPlaces (s : State) (p : Placed) : Prop := p.known = true ∧ ∀ e ∈ p.elts, ∀ l, e.loc = some l → l.isOwn s.core.id = true

/-- The checks of a load of elements `cs` of tensor `d` (25 R398) find nothing to stop it, its elements placed as `p` says:
the loads counter, the scoreboard, the permissions, the translation, the parts of a restored context, the race check. -/
def LoadPasses (s : State) (a : BitVec 128) (d : Desc) (cs : List (Nat × Int)) (mask : Word) (p : Placed) : Prop :=
  let es := eltsOf d a cs (selected mask d.tag)
  s.core.bank.loads < 63 ∧ s.tilesFree false (accTiles d es) = .ok () ∧
  (es ≠ [] → s.permit (aTid a) d .read = .ok ()) ∧ s.placeAll false (aTid a) d es = .ok p ∧
  s.partsThere (locParts s.core.id (eltBytes d.tag) (p.elts.flatMap Elt.places)) = .ok () ∧
  ∃ q, (if s.det then s.placeAll true (aTid a) d es else .ok p) = .ok q ∧
    s.raceCheck (aTid a) d .read (q.elts.flatMap Elt.places) = .ok ()

/-- The store counter and the store queues have room for another store (06 R141). -/
def StoreRoom (s : State) : Prop := s.core.bank.stores < 31 ∧ s.core.bank.storeEntries.length < 32

/-- No byte of the pieces is stored to by an earlier slot of the bundle (10 R201). -/
def StoresApart (s : State) (ps : List (Loc × Nat)) : Prop := ∀ p ∈ ps, ∀ k ∈ s.core.cur.stored, overlaps p.1 p.2 k.1 k.2 = false

/-- No byte of the pieces is stored to by an earlier slot of the bundle, or is still to be read by an operand fetch (10 R201,
08 R191). -/
def StoresFree (s : State) (ps : List (Loc × Nat)) : Prop := s.core.crosses ps = false ∧ StoresApart s ps

/-- The checks of a store of elements `cs` of tensor `d` (25 R404) find nothing to stop it. -/
def StorePasses (s : State) (a : BitVec 128) (d : Desc) (cs : List (Nat × Int)) (p : Placed) : Prop :=
  let es := eltsOf d a cs fun _ => true
  StoreRoom s ∧ s.tilesFree true (accTiles d es) = .ok () ∧
  (es ≠ [] → s.permit (aTid a) d .write = .ok ()) ∧ s.placeAll false (aTid a) d es = .ok p ∧
  ∃ q, s.placeAll true (aTid a) d es = .ok q ∧
    s.partsThere (locParts s.core.id (eltBytes d.tag) (q.elts.flatMap Elt.places)) = .ok () ∧
    StoresFree s (q.elts.flatMap fun e => e.pieces d.tag) ∧
    s.raceCheck (aTid a) d .write (q.elts.flatMap Elt.places) = .ok ()

/-- The address register's step after an access (06 R134): a step of 0 writes nothing, another steps coordinate 0 as AINC
does. -/
def Steps (s t : State) (d : Desc) (a : AReg) (st : BitVec 6) : Prop :=
  if st = 0 then t.core.bank.inflight = s.core.bank.inflight
  else ∃ y, stepCoord d (s.a a) 0 st.toInt = .ok y ∧
    t.core.bank.inflight = s.core.bank.inflight ++ [s.result (.a a.val y) .ctl 1]

/-- The access register's step raises nothing (21 R332). -/
def StepOk (s : State) (d : Desc) (a : AReg) (st : BitVec 6) : Prop := st ≠ 0 → ∃ y, stepCoord d (s.a a) 0 st.toInt = .ok y

/-- Every load queued so far still waits for its reply, or for the time of its reply. -/
def RepliesOutstanding (b : Bank) : Prop := ∀ x ∈ b.laq, x.reply = none ∨ x.ready = false

/-- A load has been pushed: one more in the LAQ and in the loads counter, its elements placed; where they all lie in the
core's own memories its value is read already, and returns eight cycles later at the soonest (06 R140); the registers and the
memories stand. -/
def LoadPushed (s t : State) (k : AccKind) (a : BitVec 128) (d : Desc) (n : Nat) (p : Placed) : Prop :=
  t.core.bank.loads = s.core.bank.loads + 1 ∧
  t.core.bank.laq.map Access.seq = s.core.bank.laq.map Access.seq ++ [s.core.accSeq] ∧ t.core.bank.ldq = s.core.bank.ldq ∧
  t.core.bank.stq = s.core.bank.stq ∧ t.core.bank.stores = s.core.bank.stores ∧
  (∃ x, t.core.bank.laq.getLast? = some x ∧ x.kind = k ∧ x.areg = a ∧ x.tid = aTid a ∧ x.desc = d ∧ x.elems = p.elts ∧
    x.count = n ∧ x.bundle = s.core.bank.pc ∧ x.issue = s.core.seq ∧
    (OwnPlaces s p → x.reply = some (s.replyOf s.core.id s.core.bank.id x) ∧ x.ready = false ∧
      ∃ e ∈ t.calendar, e.event = .loadReply (BitVec.ofNat 8 s.core.id) (BitVec.ofNat 1 s.core.bank.id) (BitVec.ofNat 48 s.core.accSeq) false ∧
        s.now + 8 ≤ e.at') ∧
    (¬ OwnPlaces s p → x.reply = none)) ∧
  SameRegisters t.core.bank s.core.bank ∧ SameOuterMemory s t ∧ t.core.spad = s.core.spad ∧ t.core.wbuf = s.core.wbuf

/-- A store has been pushed: one more in the store queues and in the stores counter with its data; no byte has changed
yet. -/
def StorePushed (s t : State) (k : AccKind) (a : BitVec 128) (d : Desc) (data : Words) (p : Placed) : Prop :=
  t.core.bank.stores = s.core.bank.stores + 1 ∧ t.core.bank.laq = s.core.bank.laq ∧ t.core.bank.loads = s.core.bank.loads ∧
  (∃ x, t.core.bank.stq = s.core.bank.stq ++ [x] ∧ x.seq = s.core.accSeq ∧ x.kind = k ∧ x.areg = a ∧ x.tid = aTid a ∧
    x.desc = d ∧ x.elems = p.elts ∧ x.data = data ∧ x.bundle = s.core.bank.pc ∧ x.issue = s.core.seq) ∧
  SameRegisters t.core.bank s.core.bank ∧ SameOuterMemory s t ∧ t.core.spad = s.core.spad ∧ t.core.wbuf = s.core.wbuf

/-- Elements of a tag have been written: each element that shares no byte with another holds its datum, and every byte
outside them reads as before. -/
def ElementsWritten (s t : State) (n i tag : Nat) (es : List Elt) (data : Words) : Prop :=
  (∀ l, ¬ BytesOf es tag l → t.byteAt n i l = s.byteAt n i l) ∧
  (tag ≠ 6 → ∀ e ∈ es, WholeElt e tag → (∀ p ∈ e.pieces tag, ∀ g, p.1.space ≠ .map g) →
    (∀ f ∈ es, f ≠ e → ∀ l, BytesOf [e] tag l → ¬ BytesOf [f] tag l) →
    t.readElt n i tag e = elem data tag e.idx)

/-- A range's byte `b` is written from the other range's byte `b`, out-of-range source bytes as 0 (21 R347). -/
def SectorMoved (s t : State) (n : Nat) (x : Transfer) (k : Nat) : Prop :=
  let v := s.view x.bank
  (∀ b < k, ∀ l, v.rangeByte x.dst (x.written + b) = .at l → (∀ g, l.space ≠ .map g) →
    (∀ c < k, ∀ m, v.rangeByte x.dst (x.written + c) = .at m → SameByte l m → c = b) →
    t.byteAt n x.bank l = match v.rangeByte x.src (x.written + b) with
      | .at m => s.byteAt n x.bank m
      | _ => 0) ∧
  (∀ l, (∀ b < k, ∀ m, v.rangeByte x.dst (x.written + b) = .at m → ¬ SameByte l m) → t.byteAt n x.bank l = s.byteAt n x.bank l)

/-- No freeze meets a COPY of `x` bytes on channel `n` (21 R347): the channel and the counter have room, the descriptors are
read, no tile of the ranges is awaited, and no check of a range waits. -/
def CopyRuns (s : State) (d a : AReg) (n x : Nat) (ds dd : Desc) : Prop :=
  (s.core.chan n).queue.length < 16 ∧ s.core.bank.copies < 63 ∧ s.desc (aTid (s.a a)) = .ok ds ∧ s.desc (aTid (s.a d)) = .ok dd ∧
  s.tilesFree false (tilesOf (rangeOf (s.a a) ds) x) = .ok () ∧ s.tilesFree true (tilesOf (rangeOf (s.a d) dd) x) = .ok () ∧
  (∀ k b q, s.checkRange (rangeOf (s.a a) ds) x .read ≠ .error (.hold k b q)) ∧
  ∀ k b q, s.checkRange (rangeOf (s.a d) dd) x .copy ≠ .error (.hold k b q)

/-- Bank `i` of core `n`. -/
def bankIn (s : State) (n i : Nat) : Bank := (s.coreOf n).bankOf i

/-! ### Numbers -/

/-- The real number that a finite value is. -/
def realOf : Exact → Rat
  | .fin n m e => (if n then -1 else 1) * m * 2 ^ e
  | _ => 0

/-- The magnitude that a format's code `c` without a sign would stand for, continued past the largest finite one. -/
def codeValue (f : Fmt) (c : Nat) : Rat :=
  if c < 2 ^ f.m then c * 2 ^ (f.emin - f.m) else (2 ^ f.m + c % 2 ^ f.m : Nat) * 2 ^ ((c / 2 ^ f.m : Int) - f.bias - f.m)

/-- The distance of two numbers. -/
def gap (x y : Rat) : Rat := if x ≤ y then y - x else x - y

/-- Code `c` is the one that a mode takes for the positive magnitude `x` (05 R109, R114): the nearest, the even one of two
equally near; the one below; the one above; or by the element's 16 random bits. -/
def Chosen (f : Fmt) (rm : Rm) (neg : Bool) (x : Rat) (c : Nat) : Prop :=
  let low : Prop := codeValue f c ≤ x ∧ x < codeValue f (c + 1)
  let high : Prop := x ≤ codeValue f c ∧ 0 < c ∧ codeValue f (c - 1) < x
  match rm with
  | .rne => ∀ b, b ≠ c → gap x (codeValue f c) < gap x (codeValue f b) ∨
      (gap x (codeValue f c) = gap x (codeValue f b) ∧ c % 2 = 0)
  | .rtz => low
  | .up => if neg then low else high
  | .down => if neg then high else low
  | .sr r => ∃ b, codeValue f b ≤ x ∧ x < codeValue f (b + 1) ∧
      c = if (r : Int) < ((x - codeValue f b) / (codeValue f (b + 1) - codeValue f b) * 2 ^ 16).floor then b + 1 else b

/-- The outcome of rounding the positive magnitude `x` once to a format (05 R112, R113): the chosen code, a zero where FTZ
flushes, the overflow result past the largest finite value; with the flags these raise. -/
def Rounded (f : Fmt) (rm : Rm) (ftz sat neg : Bool) (x : Rat) (o : FpOut) : Prop :=
  ∃ c, Chosen f rm neg x c ∧ o.snan = false ∧
    (f.maxBits < c → o.bits = f.overflow rm sat neg ∧ o.flags = fOF + fNX) ∧
    (c ≤ f.maxBits → ftz = true → 0 < c → c < 2 ^ f.m → o.bits = f.signBit neg ∧ o.flags = fUF + fNX) ∧
    (c ≤ f.maxBits → (ftz = false ∨ c = 0 ∨ 2 ^ f.m ≤ c) → o.bits = f.signBit neg + c ∧
      (codeValue f c = x → o.flags = 0) ∧
      (codeValue f c ≠ x → 2 ^ f.emin ≤ x → o.flags = fNX) ∧
      (codeValue f c ≠ x → x ≤ codeValue f (2 ^ f.m - 1) → o.flags = fNX + fUF) ∧
      (codeValue f c ≠ x → x < 2 ^ f.emin → o.flags = fNX ∨ o.flags = fNX + fUF))

/-- One value is below another: infinities at the ends, no NaN. -/
def NumLt (a b : Exact) : Prop :=
  match a, b with
  | .inf n, .inf k => n = true ∧ k = false
  | .inf n, .fin _ _ _ => n = true
  | .fin _ _ _, .inf k => k = false
  | .fin _ _ _, .fin _ _ _ => realOf a < realOf b
  | _, _ => False

/-- Two values are equal as numbers: no NaN. -/
def NumEq (a b : Exact) : Prop :=
  match a, b with
  | .inf n, .inf k => n = k
  | .fin _ _ _, .fin _ _ _ => realOf a = realOf b
  | _, _ => False

/-! ### Vector results -/

/-- The V slots do not wait for a relaxation with acceleration (07 R164). -/
def VectorFree (s : State) : Prop := ∀ r, s.core.relax = some r → r.ahd = 0

/-- The registers all carry one tag that the arithmetic forms accept (05 R102). -/
def Arithmetic (s : State) (tag : Nat) (rs : List VReg) : Prop := tag ∈ [1, 2, 3, 8, 10] ∧ ∀ r ∈ rs, s.tag r = tag

/-- `w` is the mask of the lanes written: both lanes of an FP64 element go by the even lane's bit (25 R406). -/
def MaskLanes (m w : Word) (tag : Nat) : Prop := ∀ l < 64, w.getLsbD l = m.getLsbD (if tag = 10 then 2 * (l / 2) else l)

/-- `t` is `s` with one vector result more in flight, with flags, under the trap enables of FMODE.TE (05 R110). -/
def PutsFlagged (s t : State) (w : RegWrite) (lat flags : Nat) (snan : Bool) : Prop :=
  t = { s with core := { s.core with bank := { s.core.bank with
        inflight := s.core.bank.inflight ++ [{
          write := w, dom := .vec, due := s.core.vec.cycles + lat, bundle := s.core.bank.pc
          rank := s.core.cur.rank, seq := s.core.seq
          flags := flags, snan := snan, enables := field s.core.bank.sys.fmode.toNat 6 5 }] } } }

/-- A v result made lane by lane, without flags. -/
def PutsLanes (s t : State) (d : VReg) (tag lat : Nat) (m : Word) (f : Nat → Lane) : Prop :=
  ∃ x w, PutsInFlight s t (.v d.val x w tag) .vec lat ∧ MaskLanes m w tag ∧ ∀ i < 64, x.at i = f i

/-- A v result made element by element, with the flags of the elements the mask selects. -/
def PutsElements (s t : State) (d : VReg) (tag lat : Nat) (m : Word) (f : Nat → FpOut) : Prop :=
  ∃ x w fl sn, PutsFlagged s t (.v d.val x w tag) lat fl sn ∧ MaskLanes m w tag ∧
    (∀ i < tagCount tag, m.getLsbD (laneOf tag i) = true → elem x tag i = (f i).bits % 2 ^ tagBits tag) ∧
    (∀ k, fl.testBit k = true ↔ ∃ i < tagCount tag, m.getLsbD (laneOf tag i) = true ∧ (f i).flags.testBit k = true) ∧
    (sn = true ↔ ∃ i < tagCount tag, m.getLsbD (laneOf tag i) = true ∧ (f i).snan = true)

/-- The value an arithmetic form reads of an element (05 R112, DAZ). -/
def valueOf (s : State) (tag : Nat) (r : VReg) (i : Nat) : Exact :=
  (tagFmt tag).valueDaz s.modes.daz (elem (s.v r) tag i)

/-- An INT32 element as a signed number. -/
def intOf (s : State) (r : VReg) (i : Nat) : Int := ((s.v r).at i).toInt

/-- The node of a reduction by pairs over `2^k` leaves (05 R123). -/
def pairTree {α : Type} (op : α → α → α) (leaf : Nat → α) : Nat → Nat → α
  | 0, i => leaf i
  | k + 1, i => op (pairTree op leaf k (2 * i)) (pairTree op leaf k (2 * i + 1))

/-- A result carries on the flags of what it was made from. -/
def withFlags (o x y : FpOut) : FpOut :=
  { o with flags := o.flags ||| x.flags ||| y.flags, snan := o.snan || x.snan || y.snan }

/-- A reduction's result: element 0 holds it, every other bit of the register is 0, and its flags go with it. -/
def PutsReduced (s t : State) (d : VReg) (tag : Nat) (o : FpOut) : Prop :=
  ∃ x, PutsFlagged s t (.v d.val x (BitVec.allOnes 64) tag) 6 o.flags o.snan ∧
    ∀ i < tagCount tag, elem x tag i = if i = 0 then o.bits % 2 ^ tagBits tag else 0

/-! ### System registers -/

/-- The system registers of 06 R145: number, access from user and from supervisor mode (0 none, 1 readable, 2 readable and
writable), and the bits that a permitted write of a value stores (05 R109, R116, 07 R156, 12 R240, 15 R257, 17 R284, and the
others that R145 names); 0 for a register that hardware alone writes, and for WSCTL and SCINV, which hold no written bit. -/
def registerTable : List (Nat × Nat × Nat × Word) :=
  [(0x010, 2, 2, 0x1F0FFF), (0x011, 2, 2, 0x3F), (0x012, 1, 1, 0), (0x013, 2, 2, 0xFFFFFFFFFFFFFFFF),
    (0x014, 2, 2, 0xFFFFFFFFFFFFFFFF)] ++
  [(0x100, 1, 1, 0), (0x101, 1, 1, 0), (0x102, 2, 2, 0xFFFF), (0x103, 2, 2, 0xFFFFFFFF), (0x104, 2, 2, 0xFFFFFFFF),
    (0x105, 2, 2, 0xFFFFFFFF), (0x106, 2, 2, 0xF), (0x107, 2, 2, 0xFFFFFFFF), (0x110, 1, 1, 0), (0x111, 2, 2, 1),
    (0x112, 2, 2, 1)] ++
  ((List.range 8).map fun k => (0x108 + k, 1, 1, 0)) ++ ((List.range 12).map fun k => (0x200 + k, 1, 1, 0)) ++
  [(0x210, 1, 1, 0), (0x211, 1, 2, 0), (0x300, 1, 1, 0), (0x301, 1, 1, 0), (0x302, 1, 2, 0xFFFFFFFFC0), (0x303, 1, 2, 0xF1),
    (0x400, 1, 2, 0xFFF), (0x401, 1, 2, 0xFFFFFFFFFFFFFFFF), (0x402, 1, 1, 0), (0x403, 1, 1, 0), (0x404, 1, 1, 0),
    (0x405, 1, 1, 0)] ++
  [(0x500, 0, 2, 0x380FF), (0x501, 0, 2, 0x800000FFFFFFFFFF), (0x502, 0, 2, 0xFFFFFFFFFFFFFFFF), (0x503, 0, 2, 0xFFFFFFFFFF),
    (0x504, 0, 1, 0), (0x505, 0, 2, 0xFFFC00007F), (0x510, 1, 1, 0), (0x511, 1, 2, 0xFFFFFFFFFFFFFFFF),
    (0x512, 1, 2, 0xFFFFFFFF), (0x513, 1, 2, 0xFF), (0x514, 1, 2, 0xFFFFF0FFFFFFFFC0), (0x515, 1, 2, 0)] ++
  [(0x600, 1, 1, 0), (0x601, 1, 1, 0), (0x602, 1, 1, 0), (0x603, 1, 1, 0), (0x604, 1, 1, 0), (0x605, 1, 2, 0xFFFC000001),
    (0x606, 1, 2, 0xFFFFFFF001), (0x700, 2, 2, 0xFFFFFFFF), (0x701, 2, 2, 0x3FFFFFFD), (0x702, 1, 1, 0)]

/-- The bits that a write stores in register `n` now: RQBASE takes EN alone while it is enabled (03 R51). -/
def writableNow (s : State) (n : Nat) (mask : Word) : Word :=
  if n = 0x605 ∧ s.rqbase.getLsbD 0 = true then 1 else mask

/-- What a read of a read-to-clear register or field leaves of it: SSTAT clears, CLKD loses FL (17 R284, 19 R308). -/
def afterRead (n : Nat) (x : Word) : Word :=
  if n = 0x702 then 0 else if n = 0x402 then x &&& 0xFFFFFFFFFFEFFFFF else x

/-- A waiter that polls goes on with the producer's path where that is the longer (12 R235). -/
def Polls (c t : Core) (now ta : Nat) (p : Path) : Prop :=
  t.path.at now = max (c.path.at now) (p.at now) ∧
  (p.at now ≤ c.path.at now → t.path = c.path) ∧
  (c.path.at now < p.at now → ∃ e : Edge, t.path.chain = p.chain ++ [e] ∧ e.time = ta ∧ e.waiter = c.id ∧ e.l = p.at ta)

/-! ### Holds, barriers, queues -/

/-- `t` is `s` with a hold before the executing bank's next bundle.  Nothing else differs. -/
def PutsHold (s t : State) (a : After) : Prop :=
  t = { s with core := { s.core with bank := { s.core.bank with after := some (a, s.core.seq) } } }

/-- The executing task may arrive at barrier `k` with count `n` (12 R222, R223): its earlier stores have performed, no
arrival of its own is unreleased there, and the operands are in order. -/
def MayArrive (s : State) (k n : Nat) : Prop :=
  s.core.storesBefore 2 s.core.seq = false ∧ (∀ y, s.core.bank.arrival k = some y → y.released = true) ∧
  ((s.barrier s.launchId k).arrivals = [] ∨ (s.barrier s.launchId k).n = n) ∧
  1 ≤ n ∧ n ≤ ((s.core.task.map Task.ntask).getD 1) ∧ (s.det = true → n = (s.core.task.map Task.ntask).getD 1)

/-- The task has arrived: one arrival more in the open generation, or, with the last, the generation is released and each
arriver's core hears of it 48 cycles later and 64 more for each hop between the dies (12 R222). -/
def Arrives (s t : State) (k n : Nat) : Prop :=
  let id := s.launchId
  let old := s.barrier id k
  let new := t.barrier id k
  let all := old.arrivals ++ [{ core := s.core.id, task := s.core.bank.sys.taskix.toNat, at' := s.now, path := s.core.path }]
  (∃ y, t.core.bank.arrival k = some y ∧ y.gen = old.gen ∧ y.released = false) ∧
  (old.arrivals.length + 1 < n → new.gen = old.gen ∧ new.arrivals = all ∧ new.n = n ∧ t.calendar = s.calendar) ∧
  (n ≤ old.arrivals.length + 1 → new.gen = old.gen + 1 ∧ new.arrivals = [] ∧
    ∃ last ∈ all, ∀ a ∈ all, ∃ e ∈ t.calendar,
      e.event = .barrierRelease (BitVec.ofNat 8 a.core) (BitVec.ofNat 64 id) (BitVec.ofNat 4 k) (BitVec.ofNat 64 old.gen) ∧
      e.at' = s.now + 48 + 64 * hops (last.core / 64) (a.core / 64)) ∧
  SameRegisters t.core.bank s.core.bank ∧ SameOuterMemory s t

/-- A QPUSH or QPOP of tensor `d` finds nothing to stop it: the X slot is free, the id names a queue in HBM that is
accessible, translated, and bound to the task in deterministic mode (12 R225-R227). -/
def QueuePasses (s : State) (a : GReg) (d : Desc) (pop : Bool) (off : Nat) (p : Placed) (u : State) : Prop :=
  let tid := (s.g a).toNat
  s.xFree = .ok () ∧ tid < 2 ^ 32 ∧ s.desc tid = .ok d ∧ (queueLog d).isSome = true ∧ s.permit tid d .write = .ok () ∧
  (pop = true → s.permit tid d .read = .ok ()) ∧ s.queueBind tid d off = .ok u ∧ u.placeAll false tid d (queueElts d) = .ok p

/-- The queue that an access is of has its header at `addr`, its size in entries, and its counts PUSHED and POPPED
(12 R225). -/
def QueueAt (s : State) (x : Access) (addr size pushed popped : Nat) : Prop :=
  s.queueAddr x.tid x.desc 0 = some addr ∧ (∃ k, queueLog x.desc = some k ∧ size = 2 ^ k) ∧
  pushed = s.queueRead x.tid x.desc 0 8 ∧ popped = s.queueRead x.tid x.desc 8 8

/-- An arrival at a queue's port finds another of its kind there before it: the first that waits is not itself, its turn come
(12 R226). -/
def PortBusy (s : State) (w : QueueWait) : Prop :=
  ∃ x, s.queueWaits.find? (fun x => x.addr = w.addr && x.push == w.push) = some x ∧
    ¬ (x.woken = true ∧ x.core = w.core ∧ x.bank = w.bank ∧ x.seq = w.seq)

/-- The port holds an arrival: behind those that wait, or in the place that it had. -/
def PortHolds (s t : State) (w : QueueWait) : Prop :=
  t.queueWaits = if s.queueWaits.contains { w with woken := true } then
      s.queueWaits.map fun x => if x = { w with woken := true } then w else x
    else s.queueWaits ++ [w]

/-- The first of a kind that still waits at the port comes to its turn once `served` has left it. -/
def PortWakes (s t : State) (served : QueueWait) (push : Bool) : Prop :=
  ∀ v, (s.queueWaits.filter fun w => !(w.core = served.core && w.bank = served.bank && w.seq = served.seq)).find?
      (fun w => w.addr = served.addr && w.push == push) = some v →
    (if push then Instr.queuePushPerform (BitVec.ofNat 8 v.core) (BitVec.ofNat 1 v.bank) (BitVec.ofNat 48 v.seq)
      else Instr.queuePopServe (BitVec.ofNat 8 v.core) (BitVec.ofNat 1 v.bank) (BitVec.ofNat 48 v.seq)) ∈ t.agenda

/-- Bank `i` of core `n` holds the reply `v` of its access `seq`, or has it in its LDQ. -/
def Replied (t : State) (n i seq : Nat) (v : Words) : Prop :=
  (∃ y ∈ ((t.coreOf n).bankOf i).laq, y.seq = seq ∧ y.reply = some v) ∨ ∃ y ∈ ((t.coreOf n).bankOf i).ldq, y.seq = seq ∧ y.data = v

/-! ### Reads by hardware -/

/-- The read that a held bundle waits for has come: its answer is noted, and nothing else of the core has changed. -/
def Answered (u t : State) (what addr data : Nat) : Prop :=
  t = { u with core := { u.core with fetched := { what := what, addr := addr, data := data } :: u.core.fetched }, stamps := t.stamps }

/-- A block's stamp that counts now (12 R230): of its die and block, the launch, and the phase. -/
def LiveStamp (s : State) (die block : Nat) (x : Stamp) : Prop :=
  x ∈ s.stamps ∧ x.die = die ∧ x.block = block ∧ x.launch = s.launchId ∧ x.phase = s.core.bank.phase

/-- What an access of a kind (0 read, 1 write, 2 order-free atomic) by task `me` makes of a stamp's mode (12 R231): 0 none,
1 one reader, 2 readers, 3 one writer, 4 one atomic, 5 atomics; none where it races. -/
def nextMode (mode : Nat) (mine : Bool) (kind : Nat) : Option Nat :=
  if mode = 0 then some (if kind = 0 then 1 else if kind = 1 then 3 else 4)
  else if mode = 1 then (if kind = 0 then some (if mine then 1 else 2) else if mine then some (if kind = 1 then 3 else 4) else none)
  else if mode = 2 then (if kind = 0 then some 2 else none)
  else if mode = 3 then (if mine then some 3 else none)
  else if mode = 4 then (if kind = 2 then some (if mine then 4 else 5) else if mine then some 3 else none)
  else if kind = 2 then some 5 else none

/-- A core's part that a lazy restore still owes is of the code. -/
def Owed (b : Bank) (code : Nat) : Prop := ∃ p ∈ b.absent, p.code = code

/-! ### Matrix operations -/

/-- Fields M, N and K of a shape word (08 R184). -/
def shapeM (sh : Nat) : Nat := sh % 128
def shapeN (sh : Nat) : Nat := sh / 2 ^ 7 % 128
def shapeK (sh : Nat) : Nat := sh / 2 ^ 14 % 128

/-- An MMA of form `mode` finds nothing to stop it at its issue (08 R187); its operand is of format `tag`, fetched as `op`
with the machine then as `u`. -/
def MmaPasses (s u : State) (mode : Nat) (d a : TReg) (b : MReg) (e : BitVec 5) (tag : Nat) (op : Operand) : Prop :=
  let h := (s.core.bank.readM b).toNat
  let sh := (s.core.bank.readM (b.val + 1)).toNat
  let beats := if e = 0 then 1 else 8 * e.toNat
  s.mFree = .ok () ∧ s.tilesFree false [a.val] = .ok () ∧ s.tilesFree true [d.val] = .ok () ∧ s.core.bank.tiles < 31 ∧
  s.handleFormat h = .ok (.ok tag) ∧ operandTag tag = true ∧ s.core.bank.tagT a = accTag tag ∧
  (mode % 2 = 0 → s.core.bank.tagT d = accTag tag) ∧
  sh < 2 ^ 25 ∧ shapeM sh ≤ 64 ∧ shapeN sh ≤ 64 ∧ shapeK sh ≤ 64 ∧
  (if shapeM sh = 0 ∨ shapeN sh = 0 ∨ shapeK sh = 0 then 1 else if tag = 2 ∨ tag = 3 then 64
    else if tag = 6 ∧ sh.testBit 24 = true then 16 else 32) ≤ beats ∧
  s.core.rowClaims (d.val % 8) (s.core.mat.cycles + beats + 5) = false ∧ (sh.testBit 21 = true → s.bgrp ≠ none) ∧
  s.fetchOperand h 0 0 0 true = .ok (op, u) ∧ op.failed = false ∧
  (op.desc.isSome = true → op.id = none → u.copyRoom 3 = .ok ()) ∧ ∀ q ∈ u.core.matOps, q.seq ≠ s.core.seq

/-- An MMA has issued: it is the last operation in flight, will write tile `d` and completes at issue + beats + 6; the
counter has risen, the array is taken for its beats, and no tile has changed. -/
def MmaIssued (s u t : State) (mode : Nat) (d a : TReg) (b : MReg) (e : BitVec 5) (op : Operand) : Prop :=
  let beats := if e = 0 then 1 else 8 * e.toNat
  let now := s.core.mat.cycles
  let sh := (s.core.bank.readM (b.val + 1)).toNat
  t.core.bank.tiles = u.core.bank.tiles + 1 ∧ t.core.mBusy = now + beats ∧ SameRegisters t.core.bank s.core.bank ∧
  (∃ x ∈ t.core.due, x.dom = .mat ∧ x.cycle = now + (beats + 6) ∧
    x.event = .mmaComplete (BitVec.ofNat 8 s.core.id) (BitVec.ofNat 48 s.core.seq)) ∧
  ∃ o, t.core.matOps = u.core.matOps ++ [o] ∧ o.seq = s.core.seq ∧ o.bundle = s.core.bank.pc ∧ o.bank = s.core.bank.id ∧
    o.due = now + beats + 6 ∧ o.dests = [(d.val, now + beats + 5)] ∧ o.fmode = s.core.bank.sys.fmode ∧ o.routine = false ∧
    (op.tile = none → o.fetching = true ∧ o.results = []) ∧
    (∀ x, op.tile = some x → o.fetching = false ∧ ∃ rows, rows.length = 64 ∧
      (sh.testBit 21 = false → ∀ i < 64, rows.getD i true = true) ∧
      (sh.testBit 21 = true → ∀ i < 64, rows.getD i true = s.rowLive (64 * (sh / 2 ^ 22 % 4) + i)) ∧
      let r := mmaRows s.core.bank.sys.fmode (s.rcont && sh.testBit 21) rows mode sh (s.core.bank.readT d) (s.core.bank.readT a) x
      o.results = [(d.val, r.tile, r.tag)] ∧ o.nv = r.nv ∧ o.ov = r.ov ∧ o.flags = r.flags ∧ o.snan = r.snan)

/-- What an operation of the array has formed commits in reference cycle `now` (05 R119, R120, R121): with no enabled
exception its tiles are written whole, and its counts and flags are the cycle's commits; otherwise no tile changes and one
trap waits, where no other exception of the cycle does. -/
def TilesCommit (b e : Bank) (o : MatOp) (now : Nat) : Prop :=
  let ex := o.flags &&& (modesOf o.fmode).te &&& 5
  (o.snan = false → ex = 0 →
    (∀ r ∈ o.results, (∀ q ∈ o.results, q.1 = r.1 → q = r) → e.readT r.1 = r.2.1 ∧ e.tagT r.1 = r.2.2) ∧
    (∀ k, (∀ r ∈ o.results, r.1 ≠ k) → e.readT k = b.readT k ∧ e.tagT k = b.tagT k) ∧
    e.lateNv = b.lateNv + o.nv ∧ e.lateOv = b.lateOv + o.ov ∧ e.lateFlags = b.lateFlags ||| o.flags ∧ e.pending = b.pending) ∧
  (o.snan = true ∨ ex ≠ 0 → e.t = b.t ∧ e.ttag = b.ttag ∧ ((∀ t ∈ b.pending, t.fp ≠ some now) → ∃ q, e.pending = b.pending ++ [q] ∧
    q.cause = (if o.snan then 0x06 else 0x07) ∧ q.tval = BitVec.ofNat 64 (o.bundle % 2 ^ 40 + ex * 2 ^ 40 + 2 * 2 ^ 45) ∧
    q.seq = o.seq ∧ q.rank = 5))

/-- An operation in flight as it ends: it commits, or the trap that abandoned it falls due, and the counter falls. -/
def OperationEnds (c d : Core) (o : MatOp) (now : Nat) : Prop :=
  let b := c.bankOf o.bank
  let e := d.bankOf o.bank
  d.matOps = c.matOps.filter (fun p => p.seq ≠ o.seq) ∧ e.tiles = b.tiles - 1 ∧
  (o.error = none → TilesCommit b e o now) ∧
  (∀ f, o.error = some f → e.t = b.t ∧ e.ttag = b.ttag ∧ ∃ q, e.pending = b.pending ++ [q] ∧ q.cause = f.cause ∧ q.tval = f.tval)

/-- A part of an instruction meets no freeze. -/
def NoHold {α : Type} (r : Chk α) : Prop := ∀ k a q, r ≠ .error (.hold k a q)

/-- Nothing stops a RELAX or RELAXB, read at its issue as `r`, before its blocks and parameters are checked (07 R155). -/
def RelaxReaches (s : State) (r : RelaxRun) : Prop :=
  s.mFree = .ok () ∧ s.tilesFree true ((r.tiles ++ r.block r.tu).filter (· < 32)) = .ok () ∧ s.core.bank.tiles < 31 ∧
  hKind r.handle ≠ 3 ∧ (hKind r.handle = 0 → ∃ x, s.desc (hTid r.handle) = .ok x ∧ x.tag ∈ [2, 4, 6]) ∧
  ∀ t ∈ r.block r.tz ++ r.block r.tu ++ (if r.back then r.block r.td else []), t < 32 → s.core.bank.tagT t = 1

/-- A BC = 1 group issues. -/
def IsBroadcast (s : State) : Prop := ∃ t, s.core.task = some t ∧ t.bc = true

/-- Dot product of row (or, for the transpose, column) `j` of a relaxation's W with `p` (07 R157): the products of the 64-element
blocks, each as an MMA forms it, added in ascending order. -/
def relaxDot (r : RelaxRun) (p : List Nat) (j : Nat) : Nat :=
  let md := matModes r.fmode
  let w (j q : Nat) : Exact := (r.wTile (j / 64) (q / 64)).numAt md (j % 64) (q % 64)
  ((List.range r.nc).map fun b =>
    (kBlock md r.fmt (aform md r.fmt false ((p.drop (64 * b)).take 64))
      ((List.range 64).map fun q => if r.back then w (64 * b + q) j else w j (64 * b + q))).bits).foldl add32 0

/-- The damped iterate of one row (07 R159, 08 R181): state `z`, injection or gradient `u`, derivatives `fd`. -/
def relaxDamped (r : RelaxRun) (z u fd : List Nat) (j : Nat) : Nat :=
  let c := sub32 kOne r.beta
  if r.back then
    add32 (add32 (mul32 c (z.getD j 0)) (mul32 r.beta (relaxDot r ((fd.zip z).map fun p => mul32 p.1 p.2) j))) (u.getD j 0)
  else
    add32 (mul32 c (z.getD j 0)) (mul32 r.beta (actF r.f (add32 (relaxDot r z j) (u.getD j 0))).bits)

/-- The new state of a live row after iteration `k` of a relaxation on one core, its tiles as in bank `b` (07 R164). -/
def relaxNext (r : RelaxRun) (b : Bank) (k : Nat) (x : RelaxRow) : List Nat :=
  let block (t : Nat) : List Nat := blockRow b r.nc t x.row
  let past (n : Nat) : List Nat := block (r.histBlock n)
  let y := (List.range (64 * r.nc)).map (relaxDamped r x.z (block r.tu) (if r.back then block r.td else []))
  let res := (y.zip x.z).map fun p => sub32 p.1 p.2
  let m := r.ahd
  if m = 0 then y
  else
    let fresh : Bool := decide (2 ≤ k) && x.ran
    let h := if fresh then min (x.hist + 1) m else x.hist
    let at' (first : Nat) (new : List Nat) (a : Nat) : List Nat :=
      let e := (((k : Int) - h - 1 + a) % m).toNat
      if fresh = true ∧ e = (k - 2) % m then new else past (first + e)
    let g := (y.zip (past 0)).map fun p => sub32 p.1 p.2
    let d := (res.zip (past 1)).map fun p => sub32 p.1 p.2
    (mixRow (matModes r.fmode) r.ahl y res ((List.range h).map (at' 2 g)) ((List.range h).map (at' (m + 2) d))).x.map FpOut.bits

/-- The operand words of SEND and RECV are in range (20 R324): reserved bits zero, a length, and ROUTED only with RECV and at
most 64 lines. -/
def PeerWords (recv : Bool) (x y : Nat) : Prop :=
  x < 2 ^ 56 ∧ y / 2 ^ 5 % 2 ^ 11 = 0 ∧ y / 2 ^ 26 % 2 ^ 6 = 0 ∧ y < 2 ^ 35 ∧ y / 2 ^ 16 % 2 ^ 10 ≠ 0 ∧
  (y / 2 ^ 34 % 2 = 1 → recv = true ∧ y / 2 ^ 16 % 2 ^ 10 ≤ 64)

/-- The tensor of a SEND or RECV with words `x` and `y` is as 20 R324 asks. -/
def PeerTensor (s : State) (x y : Nat) (d : Desc) : Prop :=
  s.desc (x % 2 ^ 32) = .ok d ∧ d.tag = 0 ∧ d.layout = 0 ∧ x / 2 ^ 32 % 2 ^ 24 % 256 = 0 ∧
  x / 2 ^ 32 % 2 ^ 24 + 256 * (y / 2 ^ 16 % 2 ^ 10) ≤ d.ext0

/-- The lines of a sender's list that its credit covers are all on the wire (20 R323). -/
def CreditUsed (t : State) (p : Nat) : Prop := (t.peer p).sent = min (t.peer p).credit (t.peer p).out.length

/-- The launch `l` has ended with a status (02 R25, 20 R317): it is with the dispatcher no more, its end is the newest on record,
and where a queue brought it the completion entry stands at CDONE's place in host memory. -/
def LaunchEnds (s t : State) (l : Launch) (status : Nat) : Prop :=
  t.launches.map Launch.id = (s.launches.filter fun m => m.id ≠ l.id).map Launch.id ∧
  (∃ e, t.ended.head? = some e ∧ e.fn = l.src.fn ∧ e.tag = l.tag ∧ e.status = status) ∧
  ∀ q, l.src.origin = .queue q →
    let w := s.queue q
    let a := w.cbase + 16 * (w.cdone % 2 ^ w.logn)
    (t.queue q).cdone = (w.cdone + 1) % 2 ^ 32 ∧ (w.msix ≠ 0xFFFF → t.msix.head? = some (w.func, w.msix)) ∧
    (l.tag < 2 ^ 64 → a % 16 = 0 → ∀ h, s.hostAddr w.func w.under a = some h →
      t.host.read h 16 = l.tag + status * 2 ^ 64 ∧ ∀ b, b < h ∨ h + 16 ≤ b → t.host.byte b = s.host.byte b)

/-- The dispatcher has taken a record, no launch having its number (02 R24, R25, R31-R33, 19 R297): `tm` its template as read,
`ok` the checks of 02 R24; a launch that waits for nothing counts as unplaced from now, and no group of it starts before `due`. -/
def Accepted (s t : State) (l : Launch) (tm : TemplateRead) (ok : Bool) (due : Nat) : Prop :=
  (∀ m ∈ s.launches, m.id ≠ l.id) →
    let hot : Prop := s.cryo.band = 3 ∨ (s.cryo.band = 4 ∧ l.src.diag = false)
    let left := l.deps.filter fun d => s.dep l d = .waits
    (∀ c, tm = .ok c → ok = true →
      (hot → LaunchEnds s t l 2) ∧
      (¬ hot → (∃ d ∈ l.deps, s.dep l d = .failed) → LaunchEnds s t l 3) ∧
      (¬ hot → (∀ d ∈ l.deps, s.dep l d ≠ .failed) → t.ended = s.ended ∧
        t.launches = s.launches ++
          [{ l with tmpl := c, due := due, deps := left, readyAt := if left = [] ∧ l.readyAt = none then some s.now else l.readyAt }] ∧
        (left = [] → l.readyAt = none →
          ∃ e ∈ t.calendar, e.at' = s.now + l.bound ∧ e.event = .starvationBound (BitVec.ofNat 64 l.id)))) ∧
    (tm = .unread ∨ tm = .bad ∨ ok = false → LaunchEnds s t l 1)

/-- The completion tensor of a SPAWN with word `y` is as 24 R389 asks: none, or a place for 16 bytes. -/
def DestOk (s : State) (y : Nat) (dest : Option Dest) : Prop :=
  (y = 2 ^ 63 ∧ dest = none) ∨
  (y < 2 ^ 56 ∧ ∃ d, s.desc (y % 2 ^ 32) = .ok d ∧ d.kind = .table ∧ d.tag = 0 ∧ d.loc = 0 ∧ y / 2 ^ 32 % 16 = 0 ∧
    y / 2 ^ 32 + 16 ≤ d.ext0 ∧ s.permit (y % 2 ^ 32) d .write = .ok () ∧
    ∃ off b, storeOff d (fun j => if j = 0 then y / 2 ^ 32 else 0) = some (off, b) ∧ s.place true (y % 2 ^ 32) d off ≠ .beyond ∧
      dest = some { tid := y % 2 ^ 32, desc := d, off := off })

/-- The `n` bytes of a stack-engine operand from storage offset `off` lie under pinned span entries, byte `k` at HBM address
`f k`, no two at one address (13 R244). -/
def Pinned (c : EngineCmd) (r : EngineRef) (off n : Nat) (f : Nat → Nat) : Prop :=
  (∀ k < n, ∃ e, findSpan c.spans r.tid (off + k) = some e ∧ f k = spanFrame e.raw + (off + k - e.start)) ∧
  ∀ j < n, ∀ k < n, f j = f k → j = k

/-- Two placed ranges share no byte. -/
def Apart (m n : Nat) (f g : Nat → Nat) : Prop := ∀ j < m, ∀ k < n, f j ≠ g k

/-- The four bytes from byte `4 * j` of a placed range hold `x`. -/
def HoldsWord (t : State) (f : Nat → Nat) (j x : Nat) : Prop := ∀ b < 4, (t.hbm.byte (f (4 * j + b))).toNat = x / 256 ^ b % 256

/-- A completion line (13 R246): FLAG, STATUS, AUXCNT and FIRST. -/
def CompletionLine (t : State) (f : Nat → Nat) (token status aux first : Nat) : Prop :=
  HoldsWord t f 0 token ∧ HoldsWord t f 1 (token / 2 ^ 32) ∧ HoldsWord t f 2 status ∧ HoldsWord t f 5 aux ∧ HoldsWord t f 6 first

/-- The parameter-block tensor of a stack-engine command is as 13 R244 asks. -/
def BlockTensor (s : State) (tid c least : Nat) (d : Desc) : Prop :=
  s.desc tid = .ok d ∧ d.kind = .table ∧ d.tag = 0 ∧ d.loc = 0 ∧ d.layout = 0 ∧ c % 64 = 0 ∧ c + least ≤ d.ext0

/-- The fields of a block, by the kind of its command (13 R247-R249). -/
def fieldsOf (s : State) (kind : Nat) (b : Block) : Chk Parsed :=
  if kind = 0 then s.parseRed b else if kind = 1 then s.parseIdx b else s.parseTopk b

/-- The warmest of the four zones' readings (19 R301), in 1/64 K. -/
def warmestOf (z0 z1 z2 z3 : BitVec 16) : Nat := max (max z0.toNat z1.toNat) (max z2.toNat z3.toNat)

/-- The band that holds a reading (19 R301), in 1/64 K: above its lower bound and at or below its upper one. -/
def InBand (t b : Nat) : Prop :=
  (b = 0 ∧ t ≤ 5248) ∨ (b = 1 ∧ 5248 < t ∧ t ≤ 6080) ∨ (b = 2 ∧ 6080 < t ∧ t ≤ 8320) ∨ (b = 3 ∧ 8320 < t ∧ t ≤ 12800) ∨
  (b = 4 ∧ 12800 < t)

/-- TFLOOR in a band (19 R301). -/
def bandFloor (b : Nat) : Nat := if b ≤ 1 then 1 else if b = 2 then 2 else if b = 3 then 4 else 8

/-- Nothing that a task holds has changed: the memories, and every core's banks, scratchpad and weight buffer. -/
def TasksKept (s t : State) : Prop :=
  SameOuterMemory s t ∧ ∀ n, (t.coreOf n).bank = (s.coreOf n).bank ∧ (t.coreOf n).other = (s.coreOf n).other ∧
    (t.coreOf n).task = (s.coreOf n).task ∧ (t.coreOf n).spad = (s.coreOf n).spad ∧ (t.coreOf n).wbuf = (s.coreOf n).wbuf

/-- A core alone in its freeze domain runs at the stretch of the floor over its smallest requested divisor (19 R306). -/
def StretchFits (t : State) : Prop :=
  ∀ c ∈ t.cores, c.task = none → t.coreOf c.id = c → c.stretch = max 1 (ceilDiv t.cryo.floor (max 1 (min 8 c.minDiv)))

/-- The cryogenic state that follows a band change (19 R298): OPERATE gives way to RETREAT above B0, RETREAT to OPERATE in B0
and to HOLD in B4; another state stands. -/
def stateIn (state band : Nat) : Nat :=
  if state = 5 ∨ state = 6 then (if band = 0 then 5 else if band = 4 then 8 else 6) else state

/-- The newest entry of the error log is of a kind, unit and detail (20 R320). -/
def Logged (t : State) (kind unit detail : Nat) : Prop :=
  ∃ e, t.log.head? = some e ∧ e.kind = kind ∧ e.unit = unit ∧ e.detail = detail

/-- Nothing but the sensors' readings has changed. -/
def Reads (s t : State) (z0 z1 z2 z3 : BitVec 16) : Prop :=
  t = { s with cryo := { s.cryo with temps := [z0.toNat, z1.toNat, z2.toNat, z3.toNat] } }

/-- A controller command answers with a completion code and a payload, the newest response (20 R319, R320). -/
def Answers (s t : State) (cmd code : Nat) (payload : List Nat) : Prop :=
  t.replies = { cmd := cmd + 0x80, seq := s.request.seq, code := code, payload := payload } :: s.replies

/-- A controller command only answers. -/
def OnlyAnswers (s t : State) (cmd code : Nat) (payload : List Nat) : Prop :=
  t = { s with replies := { cmd := cmd + 0x80, seq := s.request.seq, code := code, payload := payload } :: s.replies }

/-- The dies have returned to reset (01 R17): their cores and weight stores are as at reset, what had started is gone, and
with nothing started HBM, the host's memory, the queues and the waiting launches stand. -/
def DiesReset (s t : State) : Prop :=
  t.core = {} ∧ t.others = [] ∧ t.wstore = [] ∧ (∀ l ∈ t.launches, l.started = false) ∧
  ((∀ l ∈ s.launches, l.started = false) → t.hbm = s.hbm ∧ t.host = s.host ∧ t.queues = s.queues ∧ t.launches = s.launches)

/-! ### Steps -/

/-- A slot word may be fetched (06 R131): a task's lies in its image, supervisor code in HBM. -/
def MayFetch (s : State) (a : Nat) : Prop :=
  a % 4 = 0 ∧ if s.core.bank.use = .supervisor then a + 4 ≤ hbmSize
    else ∃ t, s.core.task = some t ∧ t.image ≤ a ∧ a + 4 ≤ t.image + t.imlen

/-- A slot word has an encoding of 06 R128 that is not reserved. -/
def LegalWord (w : Nat) : Prop := ∃ x, decodeSlot w = some x ∧ x.instr.WellFormed

/-- The present core, alone in its freeze domain, acts in this reference cycle, and nothing is due before its bundle: no event
from outside or of the calendar, no result that lands, no freeze that stands, no pre-emption, no pending trap, no hold, no
empty cycle of a transfer; its charges of the last cycles are none. -/
def Quiet (s : State) : Prop :=
  s.agenda = [] ∧ s.cryo.frozen = false ∧ (∀ e, s.calendar.head? = some e → s.now < e.at') ∧
  s.acting = some [s.core.id] ∧ s.expired [s.core.id] = none ∧ s.dueIn? [s.core.id] = none ∧
  s.preempting [s.core.id] = none ∧ s.standing s.core.id = [] ∧ s.core.running = true ∧ s.core.returned = false ∧
  s.core.ctl.phase = 0 ∧ s.core.bank.pending = [] ∧ s.core.stall.1 = 0 ∧ s.core.bank.bubbles = 0 ∧ s.core.bank.after = none ∧
  s.core.window = [] ∧ s.core.relax = none

/-- The registers a program names are the same (06 R129), but for the loops. -/
def SameValues (b c : Bank) : Prop :=
  b.g = c.g ∧ b.p = c.p ∧ b.a = c.a ∧ b.v = c.v ∧ b.vtag = c.vtag ∧ b.vm = c.vm ∧ b.t = c.t ∧ b.ttag = c.ttag ∧ b.m = c.m

/-- The present core of `s` has taken trap `r` at its bundle, and the reference cycle has passed (15 R252, 02 R40). -/
def TrapTaken (s u : State) (r : TrapReq) : Prop :=
  let v := s.groupTrap [s.core.id] [(s.core.id, r)]
  let c := u.coreOf s.core.id
  SameValues c.bank v.core.bank ∧ SameValues c.other v.core.other ∧ c.bank.pc = v.core.bank.pc ∧ c.bank.use = v.core.bank.use ∧
  c.bank.sys.tcause = v.core.bank.sys.tcause ∧ c.bank.sys.tpc = v.core.bank.sys.tpc ∧ c.bank.sys.tval = v.core.bank.sys.tval ∧
  c.running = v.core.running ∧ u.now = s.now

/-- The bundle `ws` of `s` whose slots have left the machine as `t` has committed. -/
def committed (s t : State) (ws : List Nat) (slots : List Slot) (met : Bool) : State :=
  (slots.foldl State.branchRecord t.scoreEdge.freezeOver).commit ((s.openBundle ws).flow ws.length).2 met

/-- Every memory of a core is in canonical form: its own, the map it acquired, and those that its results in flight bring. -/
def CoreCanonical (c : Core) : Prop :=
  c.spad.wf = true ∧ c.wbuf.wf = true ∧ (∀ x, c.map = some x → x.2.wf = true) ∧
  ∀ b ∈ [c.bank, c.other], ∀ r ∈ b.inflight ++ b.replay, ∀ v, r.acquire = some v → v.map.wf = true

/-- Every memory of the machine is in canonical form: those outside the cores, the cores', those of checkpointed cores, and
the batch groups' maps. -/
def Canonical (s : State) : Prop :=
  s.hbm.wf = true ∧ s.host.wf = true ∧ s.wstore.wf = true ∧ (∀ c ∈ s.core :: s.others, CoreCanonical c) ∧
  (∀ x ∈ s.saved, ∀ c ∈ x.cores, CoreCanonical c) ∧ ∀ e ∈ s.groups, e.2.map.wf = true

end Sys2Proof
end

