-- ==== Sys2Proof/Certificates/Slice0/Obligations.lean ====
section
/-!
DEFINITION. The statements about the model that the provers prove.
-/

open Sys2Proof Sys2Proof.Machine

/-! ### Scalar arithmetic -/

/-- 21 R330: ADD, SUB, AND, OR, with their encodings. -/
def Obligations.AddSubAndOr : Prop :=
  (∀ (last neg : Bool) (guard : PReg) (d a b : GReg),
    decodeSlot (slotBits last guard neg + classC 0 d a b 0) = some ⟨last, guard, neg, .add d a b⟩ ∧
    decodeSlot (slotBits last guard neg + classC 0 d a b 1) = some ⟨last, guard, neg, .sub d a b⟩ ∧
    decodeSlot (slotBits last guard neg + classC 0 d a b 2) = some ⟨last, guard, neg, .and d a b⟩ ∧
    decodeSlot (slotBits last guard neg + classC 0 d a b 3) = some ⟨last, guard, neg, .or d a b⟩) ∧
  (∀ (s : State) (d a b : GReg), ∃ t x, exec (.add d a b) s = .next t ∧ PutsInFlight s t (.g d x) .ctl 1 ∧
    x.toNat = ((s.g a).toNat + (s.g b).toNat) % 2 ^ 64) ∧
  (∀ (s : State) (d a b : GReg), ∃ t x, exec (.sub d a b) s = .next t ∧ PutsInFlight s t (.g d x) .ctl 1 ∧
    (x.toNat : Int) = ((s.g a).toNat - (s.g b).toNat : Int) % 2 ^ 64) ∧
  (∀ (s : State) (d a b : GReg), ∃ t x, exec (.and d a b) s = .next t ∧ PutsInFlight s t (.g d x) .ctl 1 ∧
    ∀ i : Nat, x.getLsbD i = ((s.g a).getLsbD i && (s.g b).getLsbD i)) ∧
  (∀ (s : State) (d a b : GReg), ∃ t x, exec (.or d a b) s = .next t ∧ PutsInFlight s t (.g d x) .ctl 1 ∧
    ∀ i : Nat, x.getLsbD i = ((s.g a).getLsbD i || (s.g b).getLsbD i)) ∧
  (∀ (k : Bank) (x : Word), k.put (.g 0 x) = k) ∧
  decodeSlot 0x0000420C = some ⟨false, 0, false, .add 1 2 3⟩ ∧
  (∀ s : State, s.g 2 = 0xFFFFFFFFFFFFFFFF → s.g 3 = 2 → ∃ t, exec (.add 1 2 3) s = .next t ∧ PutsInFlight s t (.g 1 1) .ctl 1)

/-- 24 R381: XOR and the shifts by a register, whose count is not reduced. -/
def Obligations.XorAndShifts : Prop :=
  (∀ (last neg : Bool) (guard : PReg) (d a b : GReg),
    decodeSlot (slotBits last guard neg + classC 1 d a b 0) = some ⟨last, guard, neg, .xor d a b⟩ ∧
    decodeSlot (slotBits last guard neg + classC 1 d a b 1) = some ⟨last, guard, neg, .shl d a b⟩ ∧
    decodeSlot (slotBits last guard neg + classC 1 d a b 2) = some ⟨last, guard, neg, .shr d a b⟩ ∧
    decodeSlot (slotBits last guard neg + classC 1 d a b 3) = some ⟨last, guard, neg, .sar d a b⟩) ∧
  (∀ (s : State) (d a b : GReg), ∃ t x, exec (.xor d a b) s = .next t ∧ PutsInFlight s t (.g d x) .ctl 1 ∧
    ∀ i : Nat, x.getLsbD i = ((s.g a).getLsbD i != (s.g b).getLsbD i)) ∧
  (∀ (s : State) (d a b : GReg), ∃ t x, exec (.shl d a b) s = .next t ∧ PutsInFlight s t (.g d x) .ctl 1 ∧
    ((s.g b).toNat < 64 → x.toNat = (s.g a).toNat * 2 ^ (s.g b).toNat % 2 ^ 64) ∧ (64 ≤ (s.g b).toNat → x = 0)) ∧
  (∀ (s : State) (d a b : GReg), ∃ t x, exec (.shr d a b) s = .next t ∧ PutsInFlight s t (.g d x) .ctl 1 ∧
    ((s.g b).toNat < 64 → x.toNat = (s.g a).toNat / 2 ^ (s.g b).toNat) ∧ (64 ≤ (s.g b).toNat → x = 0)) ∧
  (∀ (s : State) (d a b : GReg), ∃ t x, exec (.sar d a b) s = .next t ∧ PutsInFlight s t (.g d x) .ctl 1 ∧
    ((s.g b).toNat < 64 → x.toInt = (s.g a).toInt / 2 ^ (s.g b).toNat) ∧
    (64 ≤ (s.g b).toNat → x = if (s.g a).msb then 0xFFFFFFFFFFFFFFFF else 0)) ∧
  (∀ (k : Bank) (x : Word), k.put (.g 0 x) = k) ∧
  decodeSlot 0x0010420D = some ⟨false, 0, false, .shl 1 2 3⟩ ∧ decodeSlot 0x0010420E = some ⟨false, 0, false, .shr 1 2 3⟩ ∧
  decodeSlot 0x0010420F = some ⟨false, 0, false, .sar 1 2 3⟩ ∧
  (∀ s : State, s.g 2 = 0xFFFFFFFFFFFFFF00 → s.g 3 = 4 → ∃ t u v,
    exec (.shl 1 2 3) s = .next t ∧ PutsInFlight s t (.g 1 0xFFFFFFFFFFFFF000) .ctl 1 ∧
    exec (.shr 1 2 3) s = .next u ∧ PutsInFlight s u (.g 1 0x0FFFFFFFFFFFFFF0) .ctl 1 ∧
    exec (.sar 1 2 3) s = .next v ∧ PutsInFlight s v (.g 1 0xFFFFFFFFFFFFFFF0) .ctl 1) ∧
  (∀ s : State, s.g 2 = 0xFFFFFFFFFFFFFF00 → s.g 3 = 200 → ∃ t u v,
    exec (.shl 1 2 3) s = .next t ∧ PutsInFlight s t (.g 1 0) .ctl 1 ∧
    exec (.shr 1 2 3) s = .next u ∧ PutsInFlight s u (.g 1 0) .ctl 1 ∧
    exec (.sar 1 2 3) s = .next v ∧ PutsInFlight s v (.g 1 0xFFFFFFFFFFFFFFFF) .ctl 1)

/-- 22 R362: the multiplications land after 3 cycles; 22 R349, 23 R374: the divisions after 18, a zero divisor giving all
ones and the dividend. -/
def Obligations.MultiplyDivide : Prop :=
  (∀ (last neg : Bool) (guard : PReg) (d a b : GReg),
    decodeSlot (slotBits last guard neg + classC 2 d a b 0) = some ⟨last, guard, neg, .mul d a b⟩ ∧
    decodeSlot (slotBits last guard neg + classC 2 d a b 1) = some ⟨last, guard, neg, .mulhS d a b⟩ ∧
    decodeSlot (slotBits last guard neg + classC 2 d a b 2) = some ⟨last, guard, neg, .mulhU d a b⟩ ∧
    decodeSlot (slotBits last guard neg + classC 2 d a b 3) = some ⟨last, guard, neg, .divu d a b⟩ ∧
    decodeSlot (slotBits last guard neg + classC 3 d a b 0) = some ⟨last, guard, neg, .remu d a b⟩) ∧
  (∀ (s : State) (d a b : GReg), ∃ t x, exec (.mul d a b) s = .next t ∧ PutsInFlight s t (.g d x) .ctl 3 ∧
    x.toNat = (s.g a).toNat * (s.g b).toNat % 2 ^ 64) ∧
  (∀ (s : State) (d a b : GReg), ∃ t x, exec (.mulhS d a b) s = .next t ∧ PutsInFlight s t (.g d x) .ctl 3 ∧
    x.toInt = (s.g a).toInt * (s.g b).toInt / 2 ^ 64) ∧
  (∀ (s : State) (d a b : GReg), ∃ t x, exec (.mulhU d a b) s = .next t ∧ PutsInFlight s t (.g d x) .ctl 3 ∧
    x.toNat = (s.g a).toNat * (s.g b).toNat / 2 ^ 64) ∧
  (∀ (s : State) (d a b : GReg), ∃ t x, exec (.divu d a b) s = .next t ∧ PutsInFlight s t (.g d x) .ctl 18 ∧
    (s.g b ≠ 0 → x.toNat = (s.g a).toNat / (s.g b).toNat) ∧ (s.g b = 0 → x = 0xFFFFFFFFFFFFFFFF)) ∧
  (∀ (s : State) (d a b : GReg), ∃ t x, exec (.remu d a b) s = .next t ∧ PutsInFlight s t (.g d x) .ctl 18 ∧
    (s.g b ≠ 0 → x.toNat = (s.g a).toNat - (s.g b).toNat * ((s.g a).toNat / (s.g b).toNat)) ∧ (s.g b = 0 → x = s.g a)) ∧
  -- with DIVU's result q and REMU's r, g(ga) = q g(gb) + r modulo 2^64 for every pair of operands
  (∀ (s : State) (d e a b : GReg) (t u : State) (q r : Word), exec (.divu d a b) s = .next t → exec (.remu e a b) s = .next u →
    PutsInFlight s t (.g d q) .ctl 18 → PutsInFlight s u (.g e r) .ctl 18 → s.g a = q * s.g b + r) ∧
  decodeSlot 0x0020420C = some ⟨false, 0, false, .mul 1 2 3⟩ ∧ decodeSlot 0x0020420F = some ⟨false, 0, false, .divu 1 2 3⟩ ∧
  decodeSlot 0x0030420C = some ⟨false, 0, false, .remu 1 2 3⟩ ∧
  (∀ s : State, s.g 2 = 0x8000000000000000 → s.g 3 = 4 → ∃ t u v,
    exec (.mul 1 2 3) s = .next t ∧ PutsInFlight s t (.g 1 0) .ctl 3 ∧
    exec (.mulhS 1 2 3) s = .next u ∧ PutsInFlight s u (.g 1 0xFFFFFFFFFFFFFFFE) .ctl 3 ∧
    exec (.mulhU 1 2 3) s = .next v ∧ PutsInFlight s v (.g 1 2) .ctl 3) ∧
  (∀ s : State, s.g 2 = 0xFFFFFFFFFFFFFFFF → s.g 3 = 0xFFFFFFFFFFFFFFFF → ∃ t u v,
    exec (.mul 1 2 3) s = .next t ∧ PutsInFlight s t (.g 1 1) .ctl 3 ∧
    exec (.mulhS 1 2 3) s = .next u ∧ PutsInFlight s u (.g 1 0) .ctl 3 ∧
    exec (.mulhU 1 2 3) s = .next v ∧ PutsInFlight s v (.g 1 0xFFFFFFFFFFFFFFFE) .ctl 3) ∧
  (∀ s : State, s.g 2 = 100 → s.g 3 = 7 → ∃ t u, exec (.divu 1 2 3) s = .next t ∧ PutsInFlight s t (.g 1 14) .ctl 18 ∧
    exec (.remu 1 2 3) s = .next u ∧ PutsInFlight s u (.g 1 2) .ctl 18)

/-- 21 R331, 24 R384, 22 R353, 24 R385, 21 R344, 23 R368, R364: the forms with a constant, CLZ, the
cycle counter with its die's offset (01 R16), and NOP. -/
def Obligations.Constants : Prop :=
  (∀ (last neg : Bool) (guard : PReg) (d a : GReg) (i : BitVec 8) (k : BitVec 6),
    decodeSlot (slotBits last guard neg + (5 * 2 ^ 20 + d.val * 2 ^ 14 + a.val * 2 ^ 8 + i.toNat)) = some ⟨last, guard, neg, .addi d a i⟩ ∧
    decodeSlot (slotBits last guard neg + classC 6 d a k.toNat 0) = some ⟨last, guard, neg, .shiL d a k⟩ ∧
    decodeSlot (slotBits last guard neg + classC 6 d a k.toNat 1) = some ⟨last, guard, neg, .shiR d a k⟩ ∧
    decodeSlot (slotBits last guard neg + classC 6 d a k.toNat 2) = some ⟨last, guard, neg, .shiA d a k⟩ ∧
    decodeSlot (slotBits last guard neg + classC 6 d a k.toNat 3) = some ⟨last, guard, neg, .shiRol d a k⟩ ∧
    decodeSlot (slotBits last guard neg + classC 0x11 d a 0 0) = some ⟨last, guard, neg, .clz d a⟩) ∧
  decodeSlot 0x0050C264 = some ⟨false, 0, false, .addi 3 2 100⟩ ∧ decodeSlot 0x01108300 = some ⟨false, 0, false, .clz 2 3⟩ ∧
  decodeSlot 0x00618660 = some ⟨false, 0, false, .shiL 6 6 24⟩ ∧ decodeSlot 0x00608323 = some ⟨false, 0, false, .shiRol 2 3 8⟩ ∧
  (∀ (s : State) (d a : GReg) (i : BitVec 8), ∃ t x, exec (.addi d a i) s = .next t ∧ PutsInFlight s t (.g d x) .ctl 1 ∧
    (x.toNat : Int) = ((s.g a).toNat + i.toInt) % 2 ^ 64) ∧
  (∀ (s : State) (d a : GReg) (i : BitVec 6), ∃ t x, exec (.shiL d a i) s = .next t ∧ PutsInFlight s t (.g d x) .ctl 1 ∧
    x.toNat = (s.g a).toNat * 2 ^ i.toNat % 2 ^ 64) ∧
  (∀ (s : State) (d a : GReg) (i : BitVec 6), ∃ t x, exec (.shiR d a i) s = .next t ∧ PutsInFlight s t (.g d x) .ctl 1 ∧
    x.toNat = (s.g a).toNat / 2 ^ i.toNat) ∧
  (∀ (s : State) (d a : GReg) (i : BitVec 6), ∃ t x, exec (.shiA d a i) s = .next t ∧ PutsInFlight s t (.g d x) .ctl 1 ∧
    x.toInt = (s.g a).toInt / 2 ^ i.toNat) ∧
  (∀ (s : State) (d a : GReg) (i : BitVec 6), ∃ t x, exec (.shiRol d a i) s = .next t ∧ PutsInFlight s t (.g d x) .ctl 1 ∧
    ∀ k < 64, x.getLsbD ((k + i.toNat) % 64) = (s.g a).getLsbD k) ∧
  (∀ (s : State) (d : GReg) (i : BitVec 14), ∃ t x, exec (.lis d i) s = .next t ∧ PutsInFlight s t (.g d x) .ctl 1 ∧
    x.toInt = i.toInt) ∧
  (∀ (s : State) (d : GReg) (i : BitVec 14), ∃ t x, exec (.shin d i) s = .next t ∧ PutsInFlight s t (.g d x) .ctl 1 ∧
    x.toNat = (s.g d).toNat * 2 ^ 14 % 2 ^ 64 + i.toNat) ∧
  (∀ (s : State) (d a : GReg), ∃ t x, exec (.clz d a) s = .next t ∧ PutsInFlight s t (.g d x) .ctl 1 ∧
    (s.g a = 0 → x = 64) ∧
    ∀ k < 64, (s.g a).getLsbD k = true → (∀ j, k < j → (s.g a).getLsbD j = false) → x.toNat = 63 - k) ∧
  (∀ (s : State) (d : GReg), ∃ t, exec (.rdcyc d) s = .next t ∧ PutsInFlight s t (.g d
    (BitVec.ofNat 64 (s.now - s.trained + SMap.get 0 s.offsets (s.core.id / 64)))) .ctl 1) ∧
  (∀ s : State, ∃ t, exec .nop s = .next t ∧ t = s)

/-- 21 R345, R346: comparisons into a predicate; 23 R365: predicate logic.  A write of p0 is discarded. -/
def Obligations.Predicates : Prop :=
  (∀ (s : State) (p : PReg) (a b : GReg),
    (∃ t, exec (.cmpEq p a b) s = .next t ∧ PutsPredicate s t p (decide ((s.g a).toNat = (s.g b).toNat)) .ctl) ∧
    (∃ t, exec (.cmpNe p a b) s = .next t ∧ PutsPredicate s t p (decide ((s.g a).toNat ≠ (s.g b).toNat)) .ctl) ∧
    (∃ t, exec (.cmpLt p a b) s = .next t ∧ PutsPredicate s t p (decide ((s.g a).toInt < (s.g b).toInt)) .ctl) ∧
    (∃ t, exec (.cmpLtu p a b) s = .next t ∧ PutsPredicate s t p (decide ((s.g a).toNat < (s.g b).toNat)) .ctl)) ∧
  (∀ (s : State) (p : PReg) (a : GReg) (i : BitVec 6),
    (∃ t, exec (.cmpiEq p a i) s = .next t ∧ PutsPredicate s t p (decide ((s.g a).toInt = i.toInt)) .ctl) ∧
    (∃ t, exec (.cmpiNe p a i) s = .next t ∧ PutsPredicate s t p (decide ((s.g a).toInt ≠ i.toInt)) .ctl) ∧
    (∃ t, exec (.cmpiLt p a i) s = .next t ∧ PutsPredicate s t p (decide ((s.g a).toInt < i.toInt)) .ctl) ∧
    (∃ t, exec (.cmpiLtu p a i) s = .next t ∧
      PutsPredicate s t p (decide (((s.g a).toNat : Int) < i.toInt % 2 ^ 64)) .ctl)) ∧
  (∀ (s : State) (d a b : PReg),
    (∃ t, exec (.plogAnd d a b) s = .next t ∧ PutsPredicate s t d (decide (s.p a = true ∧ s.p b = true)) .ctl) ∧
    (∃ t, exec (.plogOr d a b) s = .next t ∧ PutsPredicate s t d (decide (s.p a = true ∨ s.p b = true)) .ctl) ∧
    (∃ t, exec (.plogXor d a b) s = .next t ∧ PutsPredicate s t d (decide (s.p a ≠ s.p b)) .ctl) ∧
    (∃ t, exec (.plogAndn d a b) s = .next t ∧ PutsPredicate s t d (decide (s.p a = true ∧ s.p b = false)) .ctl)) ∧
  (∀ (s : State), s.p 0 = true) ∧ (∀ (k : Bank) (x : Bool), k.put (.p 0 x) = k)

/-! ### Address registers -/

/-- 21 R333, R334, R332: AMOV and ASET touch no descriptor; AINC steps one coordinate with carry over the dimensions
above it, leaves a register that is out of range already, and makes it out of range when the carry leaves the last
dimension. -/
def Obligations.AddressRegisters : Prop :=
  (∀ (s : State) (d a : AReg), ∃ t, exec (.amovTo d a) s = .next t ∧ PutsInFlight s t (.a d.val (s.a a)) .ctl 1) ∧
  (∀ (s : State) (d : GReg) (a : AReg) (k : BitVec 3), ∃ t x, exec (.amovFrom d a k) s = .next t ∧
    PutsInFlight s t (.g d x) .ctl 1 ∧ (k = 0 → x.toNat = (s.a a).toNat % 2 ^ 32) ∧
    ∀ j < 4, k.toNat = j + 1 → x.toNat = (s.a a).toNat / 2 ^ (32 + 24 * j) % 2 ^ 24) ∧
  (∀ (s : State) (a : AReg) (r : GReg) (k : BitVec 3), k.toNat ≤ 4 → ∃ t x, exec (.aset a r k) s = .next t ∧
    PutsInFlight s t (.a a.val x) .ctl 1 ∧
    aTid x = (if k = 0 then (s.g r).toNat % 2 ^ 32 else aTid (s.a a)) ∧
    ∀ j < 4, aCoord x j = if k.toNat = j + 1 then (s.g r).toNat % 2 ^ 24 else aCoord (s.a a) j) ∧
  (∀ (s : State) (a : AReg) (r : GReg) (j : BitVec 2) (d : Desc),
    let x := s.a a
    let n := d.ndim
    let w : Int := linearIndex d (aCoord x) j.toNat (n + 1) + (s.g r).toInt
    let p := d.prod j.toNat (n + 1)
    s.desc (aTid x) = .ok d → n ≤ 3 → (∀ k < 4, d.ext k ≤ 2 ^ 24) →
    -- a dimension above NDIM
    (n < j.toNat → ∃ t y, exec (.ainc a r j) s = .next t ∧ PutsInFlight s t (.a a.val y) .ctl 1 ∧ aTid y = aTid x ∧
      Int.ofNat (aCoord y j.toNat) = (Int.ofNat (aCoord x j.toNat) + (s.g r).toInt) % 2 ^ 24 ∧
      ∀ k < 4, k ≠ j.toNat → aCoord y k = aCoord x k) ∧
    -- out of range already
    ((∃ k, j.toNat ≤ k ∧ k ≤ n ∧ d.ext k ≤ aCoord x k) →
      ∃ t, exec (.ainc a r j) s = .next t ∧ PutsInFlight s t (.a a.val x) .ctl 1) ∧
    (j.toNat ≤ n → (∀ k, j.toNat ≤ k → k ≤ n → aCoord x k < d.ext k) →
      -- within the dimensions
      (0 ≤ w → w < p → ∃ t y, exec (.ainc a r j) s = .next t ∧ PutsInFlight s t (.a a.val y) .ctl 1 ∧ aTid y = aTid x ∧
        Int.ofNat (linearIndex d (aCoord y) j.toNat (n + 1)) = w ∧
        (∀ k, j.toNat ≤ k → k ≤ n → aCoord y k < d.ext k) ∧
        ∀ k < 4, k < j.toNat ∨ n < k → aCoord y k = aCoord x k) ∧
      -- a carry out of the last dimension
      (w < 0 ∨ (p : Int) ≤ w → d.ext n ≠ 2 ^ 24 →
        ∃ t y, exec (.ainc a r j) s = .next t ∧ PutsInFlight s t (.a a.val y) .ctl 1 ∧ aTid y = aTid x ∧
        aCoord y n = d.ext n ∧ Int.ofNat (linearIndex d (aCoord y) j.toNat n) = w % Int.ofNat (p / d.ext n) ∧
        (∀ k, j.toNat ≤ k → k < n → aCoord y k < d.ext k) ∧
        ∀ k < 4, k < j.toNat ∨ n < k → aCoord y k = aCoord x k) ∧
      (w < 0 ∨ (p : Int) ≤ w → d.ext n = 2 ^ 24 →
        exec (.ainc a r j) s = .next (s.takeTrap (protection (aTid x) 13)))))

/-! ### Control transfer -/

/-- 21 R339, R342, 22 R352, 23 R375: branches, calls and jumps.  CALL writes the address of the bundle that follows its
own; a jump to an address that is no word address below 2^40 traps at the jump's own bundle. -/
def Obligations.BranchesAndCalls : Prop :=
  (∀ (s : State) (i : BitVec 20), ∃ t n, exec (.br i) s = .next t ∧ Transfers s t n ∧
    Int.ofNat n = ((s.core.bank.pc : Int) + 4 * i.toInt) % 2 ^ 40) ∧
  (∀ (s : State) (d : GReg) (i : BitVec 12), ∃ u t n, exec (.call d i) s = .next t ∧
    PutsInFlight s u (.g d (BitVec.ofNat 64 (s.core.cur.follow % 2 ^ 40))) .ctl 1 ∧ Transfers u t n ∧
    Int.ofNat n = ((s.core.bank.pc : Int) + 4 * i.toInt) % 2 ^ 40) ∧
  (∀ (s : State) (a : GReg),
    ((s.g a).toNat % 4 = 0 → (s.g a).toNat < 2 ^ 40 →
      (∃ t, exec (.ret a) s = .next t ∧ Transfers s t (s.g a).toNat) ∧
      (∃ t, exec (.jmpr a) s = .next t ∧ Transfers s t (s.g a).toNat)) ∧
    ((s.g a).toNat % 4 ≠ 0 ∨ 2 ^ 40 ≤ (s.g a).toNat →
      exec (.ret a) s = .next (s.takeTrap (own cIllegalBundle 7)) ∧
      exec (.jmpr a) s = .next (s.takeTrap (own cIllegalBundle 7))))

/-- 22 R354: LOOPS, and the end test that a bundle makes of the four loops, the highest first. -/
def Obligations.HardwareLoops : Prop :=
  (∀ (s : State) (k : LReg) (a : GReg) (i : BitVec 8),
    let n := (s.g a).toNat
    let stop := s.core.bank.pc + 4 * i.toNat
    let old := SMap.get {} s.core.bank.lc k.val
    (65535 < n ∨ stop < s.core.cur.follow → exec (.loops k a i) s = .next (s.takeTrap (violation 11))) ∧
    (n ≤ 65535 → s.core.cur.follow ≤ stop → 0 < n → ∃ t, exec (.loops k a i) s = .next t ∧
      PutsInFlight s t (.lc k.val { count := n, start := s.core.cur.follow, stop := stop }) .ctl 1) ∧
    (s.core.cur.follow ≤ stop → n = 0 → ∃ u t, exec (.loops k a i) s = .next t ∧
      PutsInFlight s u (.lc k.val { count := 0, start := old.start, stop := old.stop }) .ctl 1 ∧
      Transfers u t (stop + 4 * bundleLen s.hbm stop 8))) ∧
  (∀ (pc fall : Nat) (lc : SMap Loop),
    let get (k : Nat) : Loop := SMap.get {} lc k
    let ends (k : Nat) : Prop := 0 < (get k).count ∧ (get k).stop = pc
    let r := loopTest pc fall lc [3, 2, 1, 0]
    ((∀ k < 4, ends k → (get k).count = 1) → r.1 = fall ∧
      ∀ j < 4, (ends j → (SMap.get {} r.2 j).count = 0) ∧ (¬ ends j → SMap.get {} r.2 j = get j)) ∧
    (∀ k < 4, ends k → 1 < (get k).count → (∀ j < 4, k < j → ends j → (get j).count = 1) → r.1 = (get k).start ∧
      ∀ j < 4, SMap.get {} r.2 j =
        { get j with count := if j = k then (get j).count - 1 else if k < j ∧ (get j).stop = pc then 0 else (get j).count }))

/-! ### Taking a trap, and returning -/

/-- 15 R252, R257, R258, R261: a task's trap.  The core's other bank becomes the supervisor's, with TCAUSE, TPC and TVAL
written and the pc at TVEC; the trapped bank keeps its registers and queues, its results in flight in its replay buffer.
A bank that holds no supervisor code starts empty, with copies of the trapped bank's system registers.

15 R254: a trap in the supervisor bank enters TVEC again in the same bank, with NEST set; the trapped bank is not
touched, and no register changes but TCAUSE, TPC and TVAL.

TPC names the bundle of the trap's own access where it has one (R258), and otherwise the bundle at which the trap is taken; a
core that had executed TRET and waits for its group keeps the address its TRET was to resume at.

Where the rules leave a reading open it takes that of notes/assumptions/22.md. -/
def Obligations.TrapEntry : Prop :=
  (∀ (s : State) (r : TrapReq) (tpc : Nat), Alone s → s.core.id < 256 → r.record = none → s.core.bank.use = .task →
      s.core.bank.sys.tvec ≠ 0 →
      let t := s.takeTrapAt r tpc []
      let b := s.core.bank
      let saved := if s.core.returned then b.sys.tpc.toNat % 2 ^ 40 else r.tpc.getD tpc
      let cause : Word := BitVec.ofNat 64 (r.cause + if r.ring then 2 ^ 15 else 0)
      t.raised = some r ∧ t.core.bank.use = .supervisor ∧ t.core.bank.id = s.core.other.id ∧
      t.core.bank.pc = b.sys.tvec.toNat ∧ t.core.bank.bubbles = 0 ∧
      t.core.bank.sys.tcause = cause ∧ t.core.bank.sys.tpc = BitVec.ofNat 64 (saved % 2 ^ 40) ∧ t.core.bank.sys.tval = r.tval ∧
      t.core.other.use = .task ∧ t.core.other.pc = saved ∧ SameRegisters t.core.other b ∧ SameQueues t.core.other b ∧
      (s.core.other.id < 2 → t.core.ctxb / 4 = 3) ∧
      t.core.other.inflight = [] ∧
      t.core.other.replay.map Result.write = b.inflight.map Result.write ∧
      t.core.other.replay.map Result.due = b.inflight.map (fun x => x.due - (s.core.clock x.dom).cycles) ∧
      (s.core.other.use = .supervisor → SameRegisters t.core.bank s.core.other ∧ SameQueues t.core.bank s.core.other) ∧
      (s.core.other.use ≠ .supervisor → FreshBank t.core.bank ∧
        t.core.bank.sys = { b.sys with fflags := 0, mxnv := 0, mxof := 0, missc := 0
                                       tcause := cause, tpc := BitVec.ofNat 64 (saved % 2 ^ 40), tval := r.tval }) ∧
      SameOuterMemory s t ∧ t.core.spad = s.core.spad ∧ t.core.wbuf = s.core.wbuf ∧ t.others = s.others ∧
      t.calendar = s.calendar ∧ t.now = s.now) ∧
  (∀ (s : State) (r : TrapReq) (tpc : Nat), Alone s → r.record = none → s.core.bank.use = .supervisor →
      s.core.bank.sys.tvec ≠ 0 →
      let t := s.takeTrapAt r tpc []
      let b := s.core.bank
      let saved := if s.core.returned then b.sys.tpc.toNat % 2 ^ 40 else r.tpc.getD tpc
      t.raised = some r ∧ t.core.other = s.core.other ∧ t.core.bank.use = .supervisor ∧ t.core.bank.pc = b.sys.tvec.toNat ∧
      t.core.bank.sys = { b.sys with tcause := BitVec.ofNat 64 (r.cause + (if r.ring then 2 ^ 15 else 0) + 2 ^ 16)
                                     tpc := BitVec.ofNat 64 (saved % 2 ^ 40), tval := r.tval } ∧
      SameRegisters t.core.bank b ∧ SameQueues t.core.bank b ∧ t.core.bank.inflight = b.inflight ∧
      SameOuterMemory s t ∧ t.core.spad = s.core.spad ∧ t.core.wbuf = s.core.wbuf ∧ t.others = s.others)

/-- 15 R255: every core of a lockstep group enters its handler with the core that traps; one without a trap of its own has
PART set, the cause of the other and its number in TVAL, and its next bundle in TPC, or the address its TRET was to resume at.

15 R253: with TVEC = 0 the group is terminated instead: none of its cores goes on, the dispatcher learns it, and
TCAUSE, TPC and TVAL hold what the controller logs.  No register of the bank changes.

Where the rules leave a reading open it takes that of notes/assumptions/22.md. -/
def Obligations.GroupTraps : Prop :=
  (∀ (s : State) (r : TrapReq) (tpc n : Nat) (c : Core), (s.cores.map Core.id).Nodup → r.record = none →
      (∀ d ∈ s.members s.core, d.bank.sys.tvec ≠ 0) → c ∈ s.members s.core → c.id = n → n ≠ s.core.id →
      let d := (s.takeTrapAt r tpc []).coreOf n
      (s.takeTrapAt r tpc []).core.bank.use = .supervisor ∧
      d.bank.use = .supervisor ∧ d.bank.pc = c.bank.sys.tvec.toNat ∧
      d.bank.sys.tcause = BitVec.ofNat 64 (r.cause + (if c.bank.use = .supervisor then 2 ^ 16 else 0) + 2 ^ 17) ∧
      d.bank.sys.tpc = BitVec.ofNat 64 ((if c.returned then c.bank.sys.tpc.toNat else c.bank.pc) % 2 ^ 40) ∧
      d.bank.sys.tval = BitVec.ofNat 64 s.core.id) ∧
  (∀ (s : State) (r : TrapReq) (tpc : Nat), Alone s → r.record = none → s.core.bank.sys.tvec = 0 →
      let t := s.takeTrapAt r tpc []
      t.raised = some r ∧ t.core.running = false ∧ SameRegisters t.core.bank s.core.bank ∧
      t.core.bank.use = s.core.bank.use ∧ t.core.bank.sys.tpc = BitVec.ofNat 64 (r.tpc.getD tpc % 2 ^ 40) ∧
      t.core.bank.sys.tval = r.tval ∧ t.core.bank.sys.tcause.toNat % 256 = r.cause % 256 ∧
      (∃ e ∈ t.calendar, e.event = .taskEnd (BitVec.ofNat 8 s.core.id) true) ∧ SameOuterMemory s t)

/-- 25 R402, 21 R340: TRAP and BRKP take their trap with TPC the bundle that would have issued next.

Where the rules leave a reading open it takes that of notes/assumptions/22.md. -/
def Obligations.SoftwareTraps : Prop :=
  (∀ (s : State) (a : GReg), exec (.trap a) s =
    .next (s.takeTrapAt { cause := 0x12, tval := s.g a, cls := 7 } s.core.cur.npc [])) ∧
  (∀ s : State, exec .brkp s =
    .next (s.takeTrapAt { cause := 0x13, tval := BitVec.ofNat 64 s.core.bank.pc, cls := 7 } s.core.cur.npc [])) ∧
  (∀ (s : State) (a : GReg), Alone s → s.core.returned = false → s.core.bank.use = .task → s.core.bank.sys.tvec ≠ 0 →
    (∃ t, exec (.trap a) s = .next t ∧ t.core.bank.sys.tcause = 0x12 ∧ t.core.bank.sys.tval = s.g a ∧
      t.core.bank.sys.tpc = BitVec.ofNat 64 (s.core.cur.npc % 2 ^ 40) ∧ t.core.bank.pc = s.core.bank.sys.tvec.toNat ∧
      SameRegisters t.core.other s.core.bank) ∧
    (∃ t, exec .brkp s = .next t ∧ t.core.bank.sys.tcause = 0x13 ∧ t.core.bank.sys.tval = BitVec.ofNat 64 s.core.bank.pc ∧
      t.core.bank.sys.tpc = BitVec.ofNat 64 (s.core.cur.npc % 2 ^ 40) ∧ t.core.bank.pc = s.core.bank.sys.tvec.toNat ∧
      SameRegisters t.core.other s.core.bank))

/-- 15 R256, R263, R267, 06 R132: TRET is privileged; with nothing trapped it gives the position back; an entry of the
retry ring that is not DONE traps; END terminates; otherwise the trapped bank resumes at TPC with its replay entries in
flight again at their offsets, FREC.V clear, and the supervisor's bank keeps its code.

Where the rules leave a reading open it takes that of notes/assumptions/22.md. -/
def Obligations.TrapReturn : Prop :=
  ∀ s : State,
    (s.core.bank.use ≠ .supervisor → exec .tret s = .next (s.takeTrap s.privilege)) ∧
    (s.core.bank.use = .supervisor → s.core.other.use ≠ .task → ∃ t, exec .tret s = .next t ∧ t.core.bank.use = .empty ∧
      t.core.running = false ∧ t.core.task = none ∧ ∃ e ∈ t.calendar, e.event = .groupPlacement) ∧
    (s.core.bank.use = .supervisor → s.core.other.use = .task →
      ((∃ e ∈ s.core.other.ring, e.done = false) → exec .tret s = .next (s.takeTrap (violation 12))) ∧
      ((∀ e ∈ s.core.other.ring, e.done = true) →
        (s.core.bank.sys.tpc.getLsbD 63 = true → Alone s → ∃ t, exec .tret s = .next t ∧ t.core.running = false ∧
          ∃ e ∈ t.calendar, e.event = .taskEnd (BitVec.ofNat 8 s.core.id) true) ∧
        (s.core.bank.sys.tpc.getLsbD 63 = false → Alone s → ∃ t, exec .tret s = .next t ∧
          SameRegisters t.core.bank s.core.other ∧ SameQueues t.core.bank s.core.other ∧ t.core.bank.use = .task ∧
          t.core.bank.pc = s.core.bank.sys.tpc.toNat % 2 ^ 40 ∧ t.core.bank.replay = [] ∧
          t.core.bank.inflight.map Result.write = s.core.other.replay.map Result.write ∧
          t.core.bank.inflight.map Result.due = s.core.other.replay.map (fun x => x.due + (s.core.clock x.dom).cycles) ∧
          t.core.bank.sys.frec.getLsbD 0 = false ∧ t.core.bank.pending = s.core.other.pending ∧
          SameRegisters t.core.other s.core.bank ∧ t.core.other.use = .supervisor ∧
          (s.core.other.id < 2 → t.core.ctxb / 4 = 2) ∧
          SameOuterMemory s t ∧ t.core.spad = s.core.spad ∧ t.others = s.others)))

/-! ### The landing of results -/

/-- 06 R129, R139, 05 R118: results land in their registers when their domain has passed their latency, the last issued
standing; g0, p0 and vm0 keep their fixed values; a v register takes its value in the lanes the mask selects; what is not
due stays in flight; the flags of what lands are the cycle's commits; no memory changes, but for the trace record that goes
with a map's acquire (12 R240).

05 R120, R121: results that raise as they land are discarded, and one trap waits for the next bundle: SNAN if any
operand was a signalling NaN, else FP_EXCEPTION, whose TVAL names the first of them in the order V0, V1, M, X, its bundle, its
slot and the exceptions of all of them.  Stated for a cycle in which no exception waits from another unit yet.

Where the rules leave a reading open it takes that of notes/assumptions/16.md and notes/assumptions/22.md. -/
def Obligations.ResultsLand : Prop :=
  (∀ (s : State) (core : BitVec 8), ∃ t, exec (.resultLanding core) s = .next t ∧
      let c := (s.focus core.toNat).core
      (t.core.id = c.id) ∧
      (∀ r, t.core.bank.inflight.contains r = (c.bank.inflight.contains r && decide (¬ r.due ≤ (c.clock r.dom).cycles))) ∧
      (∀ x n v, x.write = .g n v → LandsLast c x → t.core.bank.readG n = if n = 0 then 0 else v) ∧
      (∀ n, LandsNot c (.g n) → t.core.bank.readG n = c.bank.readG n) ∧
      (∀ x n v, x.write = .p n v → LandsLast c x → t.core.bank.readP n = if n = 0 then true else v) ∧
      (∀ n, LandsNot c (.p n) → t.core.bank.readP n = c.bank.readP n) ∧
      (∀ x n v, x.write = .vm n v → LandsLast c x → t.core.bank.readVm n = if n = 0 then 0xFFFFFFFFFFFFFFFF else v) ∧
      (∀ n, LandsNot c (.vm n) → t.core.bank.readVm n = c.bank.readVm n) ∧
      (∀ x n v, x.write = .a n v → LandsLast c x → t.core.bank.readA n = v) ∧
      (∀ n, LandsNot c (.a n) → t.core.bank.readA n = c.bank.readA n) ∧
      (∀ x n v, x.write = .m n v → LandsLast c x → t.core.bank.readM n = v) ∧
      (∀ n, LandsNot c (.m n) → t.core.bank.readM n = c.bank.readM n) ∧
      (∀ x n v, x.write = .lc n v → LandsLast c x → SMap.get {} t.core.bank.lc n = v) ∧
      (∀ n, LandsNot c (.lc n) → SMap.get {} t.core.bank.lc n = SMap.get {} c.bank.lc n) ∧
      (∀ x n v mask tag, x.write = .v n v mask tag → LandsLast c x →
        (∀ y ∈ c.bank.inflight, DueNow c y → writeName y.write = .v n → y = x) →
        t.core.bank.tagV n = tag ∧
        ∀ i < 64, (t.core.bank.readV n).at i = if mask.getLsbD i then v.at i else (c.bank.readV n).at i) ∧
      (∀ n, LandsNot c (.v n) → t.core.bank.readV n = c.bank.readV n ∧ t.core.bank.tagV n = c.bank.tagV n) ∧
      t.core.bank.t = c.bank.t ∧ t.core.bank.ttag = c.bank.ttag ∧
      (∀ i, t.core.bank.lateFlags.testBit i = (c.bank.lateFlags.testBit i ||
        c.bank.inflight.any fun r => decide (r.due ≤ (c.clock r.dom).cycles) && !(r.snan || r.excepts != 0) && r.flags.testBit i)) ∧
      t.host = s.host ∧ t.wstore = s.wstore ∧ ((∀ x ∈ c.bank.inflight, x.acquire = none) → t.hbm = s.hbm)) ∧
  (∀ (s : State) (core : BitVec 8) (x : Result),
      let c := (s.focus core.toNat).core
      let raising (y : Result) : Prop := y ∈ c.bank.inflight ∧ DueNow c y ∧ Excepts y
      raising x → (∀ y, raising y → y ≠ x → slotCode x.rank < slotCode y.rank) →
      (∀ q ∈ c.bank.pending, q.fp ≠ some s.now) →
      ∃ t q ex, exec (.resultLanding core) s = .next t ∧ t.core.bank.pending = c.bank.pending ++ [q] ∧ q.seq = x.seq ∧
        q.rank = x.rank ∧
        ((∃ y, raising y ∧ y.snan = true) → q.cause = 0x06) ∧ ((∀ y, raising y → y.snan = false) → q.cause = 0x07) ∧
        (∀ k, ex.testBit k = true ↔ ∃ y, raising y ∧ (y.flags &&& y.enables &&& 31).testBit k = true) ∧
        q.tval.toNat = x.bundle % 2 ^ 40 + ex * 2 ^ 40 + slotCode x.rank * 2 ^ 45)

/-- What a slot instruction leaves alone.  A register of the executing bank changes only when a result lands (06 R139): an
instruction that completes changes none at issue, and each result it puts in flight names a destination of its slot
(06 R131), but for the trim predicates of SACCEPT (17 R294).  Stores and atomics into the accumulator memory write its
tiles at once (10 R200), TLDT sets its tile's tag (25 R400), and a row of TLDT or COPYADD that is due in the issue cycle moves
in it (04 R87); no other slot instruction changes a tile at issue.  TRAP, BRKP and TRET change banks. -/
def Obligations.SlotsWriteRegistersByResults : Prop :=
  ∀ (i : Instr) (s t : State), (encode i).isSome → i ≠ .tret → i ≠ .brkp → (∀ a, i ≠ .trap a) →
    exec i s = .next t → s.raised = none → s.holding = none → t.raised = none → t.holding = none →
    let b := s.core.bank
    let c := t.core.bank
    t.core.id = s.core.id ∧ c.id = b.id ∧
    c.g = b.g ∧ c.p = b.p ∧ c.a = b.a ∧ c.v = b.v ∧ c.vtag = b.vtag ∧ c.vm = b.vm ∧ c.m = b.m ∧ c.lc = b.lc ∧
    ((∀ a k d, i ≠ .tldt a k d) → c.ttag = b.ttag) ∧ (storesOf i = false → (∀ a k d, i ≠ .tldt a k d) → (∀ d a c h, i ≠ .copyadd d a c h) → c.t = b.t) ∧
    ∃ new, c.inflight = b.inflight ++ new ∧
      ∀ r ∈ new, writeName r.write ∈ destsOf i ∨ (∃ d a v, i = .saccept d a v) ∧ ∃ k x, r.write = .p k x

/-! ### Loads and stores -/

/-- 25 R397, R398, R399: the loads.  A TLD of n bytes pushes the consecutive elements from the address register's first
coordinate, a TLD.G one element a lane at an INT32 offset; the register steps after the push; where nothing holds the access, a
width that is no whole number of elements is TAG_MISMATCH, and so are offsets that are not INT32.

25 R404, 10 R200: the stores.  A store whose elements all lie in the core's own memories writes them at once; another
is pushed with its data and performs later.

23 R366, R367: a push and a pop of a queue enter the store queues and the LAQ.  25 R400, R405: TLDT and TSTT count in the loads and
the stores counter and put their rows under way.

Where the rules leave a reading open it takes that of notes/assumptions/27.md. -/
def Obligations.AccessesPush : Prop :=
  ((∀ (s : State) (a : AReg) (st : BitVec 6) (m : VMReg) (d : Desc) (p : Placed) (n : Nat) (i : Instr),
      (n = 4 ∧ i = .tld4 a st m) ∨ (n = 64 ∧ i = .tld64 a st m) ∨ (n = 256 ∧ i = .tld256 a st m) →
      s.desc (aTid (s.a a)) = .ok d →
      let cs := (List.range (2 * n / esize2 d.tag)).map fun e => (e, Int.ofNat (aCoord (s.a a) 0 + e))
      (2 * n % esize2 d.tag ≠ 0 → s.core.bank.loads < 63 → NoHold (s.loadElts .load (s.a a) d cs (s.vm m)) →
        exec i s = .next (s.takeTrap (tagMismatch (a + 2 ^ 7 + d.tag * 2 ^ 8)))) ∧
      (2 * n % esize2 d.tag = 0 →
        LoadPasses s (s.a a) d cs (s.vm m) p → StepOk s d a st → RepliesOutstanding s.core.bank →
        ∃ t, exec i s = .next t ∧ LoadPushed s t .load (s.a a) d (2 * n / esize2 d.tag) p ∧ Steps s t d a st)) ∧
    (∀ (s : State) (a : AReg) (v : VReg) (m : VMReg) (d : Desc) (p : Placed),
      s.desc (aTid (s.a a)) = .ok d →
      let n := if d.tag = 10 then 32 else 64
      let cs := (List.range n).map fun e => (e, Int.ofNat (aCoord (s.a a) 0) + ((s.v v).at e).toInt)
      (s.tag v ≠ 0 ∧ s.tag v ≠ 8 → s.core.bank.loads < 63 → NoHold (s.loadElts .gather (s.a a) d cs (s.vm m)) →
        exec (.tldG a v m) s = .next (s.takeTrap (tagMismatch (v + s.tag v * 2 ^ 8)))) ∧
      (s.tag v = 0 ∨ s.tag v = 8 → LoadPasses s (s.a a) d cs (s.vm m) p → RepliesOutstanding s.core.bank →
        ∃ t, exec (.tldG a v m) s = .next t ∧ LoadPushed s t .gather (s.a a) d n p ∧
          t.core.bank.inflight = s.core.bank.inflight))) ∧
  ((∀ (s : State) (a : AReg) (st : BitVec 6) (v : VReg) (d : Desc) (p : Placed) (n : Nat) (i : Instr),
      (n = 4 ∧ i = .tst4 a st v) ∨ (n = 64 ∧ i = .tst64 a st v) ∨ (n = 256 ∧ i = .tst256 a st v) →
      s.desc (aTid (s.a a)) = .ok d →
      let cs := (List.range (2 * n / esize2 d.tag)).map fun e => (e, Int.ofNat (aCoord (s.a a) 0 + e))
      (2 * n % esize2 d.tag ≠ 0 → StoreRoom s → NoHold (s.storeElts' .store (s.a a) d cs (s.v v)) →
        exec i s = .next (s.takeTrap (tagMismatch (a + 2 ^ 7 + d.tag * 2 ^ 8)))) ∧
      (2 * n % esize2 d.tag = 0 → s.tag v = 0 ∨ s.tag v = d.tag →
        StorePasses s (s.a a) d cs p → StepOk s d a st →
        (¬ OwnPlaces s p → ∃ t, exec i s = .next t ∧ StorePushed s t .store (s.a a) d (s.v v) p ∧ Steps s t d a st) ∧
        (OwnPlaces s p → ∃ t, exec i s = .next t ∧ ElementsWritten s t s.core.id s.core.bank.id d.tag p.elts (s.v v) ∧
          SameQueues t.core.bank s.core.bank ∧ Steps s t d a st))) ∧
    (∀ (s : State) (a : AReg) (i : BitVec 5) (v : VReg) (d : Desc) (p : Placed),
      s.desc (aTid (s.a a)) = .ok d → s.tag i.toNat = 0 ∨ s.tag i.toNat = 8 → s.tag v = 0 ∨ s.tag v = d.tag →
      let cs := (List.range (if d.tag = 10 then 32 else 64)).map fun e => (e, Int.ofNat (aCoord (s.a a) 0) + ((s.v i.toNat).at e).toInt)
      StorePasses s (s.a a) d cs p →
      (¬ OwnPlaces s p → ∃ t, exec (.tstS a i v) s = .next t ∧ StorePushed s t .scatter (s.a a) d (s.v v) p ∧
        t.core.bank.inflight = s.core.bank.inflight) ∧
      (OwnPlaces s p → ∃ t, exec (.tstS a i v) s = .next t ∧
        ElementsWritten s t s.core.id s.core.bank.id d.tag p.elts (s.v v) ∧ SameQueues t.core.bank s.core.bank ∧
        t.core.bank.inflight = s.core.bank.inflight))) ∧
  (∀ (s u : State) (a : GReg) (b : BitVec 6) (d : Desc) (p : Placed), s.core.bank.stores < 31 → QueuePasses s a d false 16 p u →
    ∃ t x, exec (.qpush a b) s = .next t ∧ t.core.bank.stq = u.core.bank.stq ++ [x] ∧ x.kind = .qpush ∧ x.data = u.v b.toNat) ∧
  (∀ (s u : State) (a : GReg) (d : Desc) (p : Placed), s.core.bank.loads < 63 → QueuePasses s a d true 20 p u →
    ∃ t x, exec (.qpop a) s = .next t ∧ t.core.bank.laq.getLast? = some x ∧ x.kind = .qpop ∧ x.reply = none) ∧
  (∀ (s : State) (a : AReg) (k : TReg) (c : BitVec 6) (d : Desc) (l : List SpanEntry), s.desc (aTid (s.a a)) = .ok d →
    (s.tilesFree true [k.val] = .ok () → s.core.bank.loads < 63 → d.tag = 1 ∨ d.tag = 8 →
      s.core.collides (k % 8) (s.core.mat.cycles + c.toNat) = false → s.rowRegion (s.a a) d 64 .read = .ok l →
      ∃ (u : State) (r : RowOp), exec (.tldt a k c) s = .next u.firstRow ∧ u.core.bank.loads = s.core.bank.loads + 1 ∧
        u.core.rowOps = s.core.rowOps ++ [r] ∧ r.kind = .load ∧ r.tile = k.val) ∧
    (s.tilesFree false [k.val] = .ok () → s.core.bank.stores < 31 → d.tag = s.core.bank.tagT k ∨ d.tag = 0 →
      let cols := if d.tag = 0 then 256 else 64
      s.rowRegion (s.a a) d cols .write = .ok l → StoresApart s (s.regionPieces l (aTid (s.a a)) d (regionElts d (s.a a) 64 cols)) →
      ∃ (u : State) (r : RowOp), exec (.tstt a k c) s = .next u.firstRow ∧ u.core.bank.stores = s.core.bank.stores + 1 ∧
        u.core.rowOps = s.core.rowOps ++ [r] ∧ r.kind = .store ∧ r.tile = k.val))

/-- 10 R202, R203: a store that has been pushed and meets nothing before it is written at its destination: its elements
hold its data, no byte outside them changes, it leaves the queue, and the counter falls.  One that must wait stays.  23 R367: a
push of a queue that may perform leaves the store queue, its entry written.  25 R405: a due row of a TSTT is read and moves on.

Where the rules leave a reading open it takes that of notes/assumptions/3.md and notes/assumptions/27.md. -/
def Obligations.StoresPerform : Prop :=
  ∀ (s : State) (core : BitVec 8) (bank : BitVec 1) (seq : BitVec 48),
    let n := core.toNat
    let i := bank.toNat
    let b := (s.coreOf n).bankOf i
    ((∀ x ∈ b.stq, x.seq ≠ seq.toNat) → exec (.storePerform core bank seq) s = .next s) ∧
    (∀ x, b.stq.find? (fun x => x.seq = seq.toNat) = some x →
      (x.held = true ∨ x.known = false → exec (.storePerform core bank seq) s = .next s) ∧
      (x.held = false → x.known = true → (s.coreOf n).blocked i x = true ∨ s.shutOut n x = true →
        exec (.storePerform core bank seq) s = .next (s.schedule 1 (.storePerform core bank seq))) ∧
      (x.held = false → x.known = true → (s.coreOf n).blocked i x = false → s.shutOut n x = false →
        ∃ t, exec (.storePerform core bank seq) s = .next t ∧ ElementsWritten s t n i x.desc.tag x.elems x.data ∧
          ((t.coreOf n).bankOf i).stq = b.stq.filter (fun y => y.seq ≠ x.seq) ∧
          ((t.coreOf n).bankOf i).stores = (if x.more then b.stores else b.stores - 1) ∧
          ((t.coreOf n).bankOf i).laq = b.laq)) ∧
    (∀ x addr size pushed popped, let u := s.focus n
      (u.core.bankOf i).stq.find? (fun x => x.seq = seq.toNat) = some x → x.held = false → x.known = true →
      QueueAt u x addr size pushed popped → u.core.storesBefore 2 x.issue = false → (pushed + 2 ^ 64 - popped) % 2 ^ 64 < size →
      ¬ PortBusy s { addr := addr, push := true, core := n, bank := i, seq := x.seq } →
      ∃ t, exec (.queuePushPerform core bank seq) s = .next t ∧ (∀ y ∈ ((t.coreOf n).bankOf i).stq, y.seq ≠ x.seq) ∧
        t.hbm = ((u.queueWrite x.tid x.desc (64 + 256 * (pushed % size))
          ((List.range 64).foldl (fun acc k => acc + (x.data.at k).toNat * 2 ^ (32 * k)) 0) 256).queueWrite x.tid x.desc 0
            ((pushed + 1) % 2 ^ 64) 8).hbm) ∧
    (∀ r, let u := s.focus n
      u.core.rowOf seq.toNat = some r → u.core.rowDue r = true → u.core.rowFull r = false →
      ∃ t, exec (.tsttRow core seq) s = .next t ∧
        (r.row ≠ 63 → ∃ o, { r with row := r.row + 1, next := r.next + 1, stopped := 0, old := o } ∈ t.core.rowOps) ∧
        (r.row = 63 → ∀ q ∈ t.core.rowOps, q.seq ≠ r.seq))

/-- 06 R141, 04 R80, R100, 21 R335: a load performs where it lies, and its reply, its elements with +0 elsewhere, stands with it
or has entered the LDQ; an atomic's read and write are one access, and its reply is the old value.

25 R418: VPOP takes the oldest reply of the LDQ, its tag with it, in the lanes the mask selects; with none it waits, or
raises DEAD_WAIT when no load is outstanding; an uncorrectable reply raises SOFT_ERROR_UNCORRECTED.

23 R366: a pop of a queue that may be served gets its reply, and one that waits too long is late.  25 R400: a due row of a TLDT
moves.

Where the rules leave a reading open it takes that of notes/assumptions/27.md. -/
def Obligations.LoadReplies : Prop :=
  (∀ (s : State) (core : BitVec 8) (bank : BitVec 1) (seq : BitVec 48) (err : Bool) (x : Access),
      let n := core.toNat
      let i := bank.toNat
      let b := (s.coreOf n).bankOf i
      b.laq.find? (fun x => x.seq = seq.toNat) = some x → x.reply = none → x.held = false → x.known = true →
      (s.coreOf n).blocked i x = false → s.shutOut n x = false → (err = true → ∀ g, x.desc.kind ≠ .cache g) →
      ∃ t v, exec (.loadReply core bank seq err) s = .next t ∧
        ((∃ y ∈ ((t.coreOf n).bankOf i).laq, y.seq = x.seq ∧ y.reply = some v ∧ y.err = err) ∨
          ∃ y ∈ ((t.coreOf n).bankOf i).ldq, y.seq = x.seq ∧ y.data = v ∧ y.tag = x.desc.tag ∧ y.err = err) ∧
        (x.kind.isAtomic = false → v = s.replyOf n i x ∧ SameBytes s t n i) ∧
        (x.kind.isAtomic = true → ∀ e r, x.elems = e :: r → (x.desc.tag = 1 ∨ x.desc.tag = 8) → WholeElt e x.desc.tag →
          (v.at 0).toNat = s.readElt n i x.desc.tag e ∧
          (∀ l, ¬ BytesOf [e] x.desc.tag l → t.byteAt n i l = s.byteAt n i l) ∧
          ((∀ p ∈ e.pieces x.desc.tag, ∀ g, p.1.space ≠ .map g) → t.readElt n i x.desc.tag e =
            atomNew x.kind x.desc.tag (s.readElt n i x.desc.tag e) (x.data.at 0).toNat (x.data2.at 0).toNat % 2 ^ 32))) ∧
  -- an uncorrectable error under an access of a cache tensor is contained: the row is suspended and the elements read +0
  (∀ (s : State) (core : BitVec 8) (bank : BitVec 1) (seq : BitVec 48) (x : Access) (g : Nat),
      let n := core.toNat
      let i := bank.toNat
      ((s.coreOf n).bankOf i).laq.find? (fun x => x.seq = seq.toNat) = some x → x.reply = none → x.held = false → x.known = true →
      (s.coreOf n).blocked i x = false → s.shutOut n x = false → x.desc.kind = .cache g →
      ∃ t, exec (.loadReply core bank seq true) s = .next t ∧
        ((∃ y ∈ ((t.coreOf n).bankOf i).laq, y.seq = x.seq ∧ y.reply = some [] ∧ y.err = false) ∨
          ∃ y ∈ ((t.coreOf n).bankOf i).ldq, y.seq = x.seq ∧ y.data = [] ∧ y.err = false) ∧
        ((s.focus n).bgrp ≠ none → (t.coreOf n).cleared.contains (aCoord x.areg 2) = true)) ∧
  -- a load of the core's own memories has its value since its issue, and returns now
  (∀ (s : State) (core : BitVec 8) (bank : BitVec 1) (seq : BitVec 48) (err : Bool) (x : Access) (v : Words),
      let n := core.toNat
      let i := bank.toNat
      ((s.coreOf n).bankOf i).laq.find? (fun x => x.seq = seq.toNat) = some x → x.reply = some v → x.ready = false →
      ∃ t, exec (.loadReply core bank seq err) s = .next t ∧ SameBytes s t n i ∧
        ((∃ y ∈ ((t.coreOf n).bankOf i).laq, y.seq = x.seq ∧ y.reply = some v ∧ y.ready = true ∧ y.err = err) ∨
          ∃ y ∈ ((t.coreOf n).bankOf i).ldq, y.seq = x.seq ∧ y.data = v ∧ y.tag = x.desc.tag ∧ y.err = err)) ∧
  (∀ (s : State) (d : VReg) (m : VMReg), s.vFree = .ok () →
      (∀ x r, s.core.bank.ldq = x :: r →
        (x.err = true → exec (.vpop d m) s = .next (s.takeTrap (own 0x10 0))) ∧
        (x.err = false → ∃ t, exec (.vpop d m) s = .next t ∧
          t.core.bank.inflight = s.core.bank.inflight ++ [s.result (.v d.val x.data (writeMask (s.vm m) x.tag) x.tag) .vec 1] ∧
          (∃ more, t.core.bank.ldq = r ++ more) ∧ (RepliesOutstanding s.core.bank → t.core.bank.ldq = r) ∧
          SameRegisters t.core.bank s.core.bank ∧ (x.producer = none → SameBytes s t s.core.id s.core.bank.id))) ∧
      (s.core.bank.ldq = [] → (∀ x ∈ s.core.bank.laq, s.core.seq ≤ x.issue) →
        exec (.vpop d m) s = .next (s.takeTrap (own 0x08 0))) ∧
      (s.core.bank.ldq = [] → (∃ x ∈ s.core.bank.laq, x.issue < s.core.seq) → (s.core.bank.laq.head?.any Access.late) = false →
        exec (.vpop d m) s = .next (s.hold 1 false none))) ∧
  (∀ (s : State) (core : BitVec 8) (bank : BitVec 1) (seq : BitVec 48),
    let n := core.toNat
    let i := bank.toNat
    let u := s.focus n
    (∀ x addr size pushed popped, (u.core.bankOf i).laq.find? (fun x => x.seq = seq.toNat) = some x → x.held = false →
      x.known = true → x.reply = none → QueueAt u x addr size pushed popped → pushed ≠ popped →
      ¬ PortBusy s { addr := addr, push := false, core := n, bank := i, seq := x.seq } →
      ∃ t v, exec (.queuePopServe core bank seq) s = .next t ∧ Replied t n i x.seq v ∧
        ∀ k < 64, v.at k = BitVec.ofNat 32 (u.queueRead x.tid x.desc (64 + 256 * (popped % size)) 256 / 2 ^ (32 * k))) ∧
    (∃ t, exec (.qpopReplyTimeout core bank seq) s = .next t ∧
      ∀ x ∈ ((t.coreOf n).bankOf i).laq, x.seq = seq.toNat → x.reply = none → x.late = true) ∧
    (∀ r, u.core.rowOf seq.toNat = some r → u.core.rowDue r = true → u.rowLate r = false →
      ∃ t, exec (.tldtRow core (seq, false)) s = .next t ∧
        (r.row ≠ 63 → { r with row := r.row + 1, next := r.next + 1, stopped := 0 } ∈ t.core.rowOps) ∧
        (r.row = 63 → ∀ q ∈ t.core.rowOps, q.seq ≠ r.seq)))

/-- 21 R335: the atomics' issue.  The operation works on one element of tag FP32 or INT32; in the core's own memories it is
done at once, elsewhere it enters the LAQ and counts in the loads and the stores counter. -/
def Obligations.AtomicsIssue : Prop :=
  ∀ (s : State) (a : AReg) (st : BitVec 6) (v : VReg) (d : Desc) (p : Placed) (k : AccKind) (i : Instr),
    (k = .atomAdd ∧ i = .atomAdd a st v) ∨ (k = .atomMin ∧ i = .atomMin a st v) ∨ (k = .atomMax ∧ i = .atomMax a st v) ∨
      (k = .atomCas ∧ i = .atomCas a st v) →
    s.desc (aTid (s.a a)) = .ok d →
    (d.tag ≠ 1 ∧ d.tag ≠ 8 → s.core.bank.loads < 63 → StoreRoom s → NoHold (s.atomElts k (s.a a) d v) →
      exec i s = .next (s.takeTrap (tagMismatch (v + 2 ^ 7 + d.tag * 2 ^ 8)))) ∧
    (d.tag = 1 ∨ d.tag = 8 → s.tag v = 0 ∨ s.tag v = d.tag → (k = .atomCas → s.tag (v + 1) = 0 ∨ s.tag (v + 1) = d.tag) →
      let es := eltsOf d (s.a a) [(0, Int.ofNat (aCoord (s.a a) 0))] fun _ => true
      s.core.bank.loads < 63 → StoreRoom s → (es ≠ [] → s.permit (aTid (s.a a)) d .atomic = .ok ()) →
      s.det = false → s.placeAll false (aTid (s.a a)) d es = .ok p → s.placeAll true (aTid (s.a a)) d es = .ok p →
      s.partsThere (locParts s.core.id 4 (p.elts.flatMap Elt.places)) = .ok () →
      StoresFree s (p.elts.flatMap fun e => e.pieces d.tag) →
      StepOk s d a st → RepliesOutstanding s.core.bank →
      (¬ OwnPlaces s p → ∃ t, exec i s = .next t ∧ t.core.bank.loads = s.core.bank.loads + 1 ∧
        t.core.bank.stores = s.core.bank.stores + 1 ∧ Steps s t d a st ∧
        (∃ x, t.core.bank.laq.getLast? = some x ∧ x.seq = s.core.accSeq ∧ x.kind = k ∧ x.elems = p.elts ∧ x.reply = none ∧
          x.data = s.v v ∧ x.data2 = s.v (v + 1)) ∧ SameOuterMemory s t ∧ t.core.spad = s.core.spad) ∧
      (OwnPlaces s p → ∀ e, p.elts = [e] → WholeElt e d.tag → ∃ t, exec i s = .next t ∧ t.core.bank.loads = s.core.bank.loads + 1 ∧
        t.core.bank.stores = s.core.bank.stores ∧ Steps s t d a st ∧
        (∃ x r, t.core.bank.laq.getLast? = some x ∧ x.seq = s.core.accSeq ∧ x.reply = some r ∧
          (r.at 0).toNat = s.readElt s.core.id s.core.bank.id d.tag e) ∧
        (∀ l, ¬ BytesOf [e] d.tag l → t.byteAt s.core.id s.core.bank.id l = s.byteAt s.core.id s.core.bank.id l) ∧
        t.readElt s.core.id s.core.bank.id d.tag e =
          atomNew k d.tag (s.readElt s.core.id s.core.bank.id d.tag e) ((s.v v).at 0).toNat ((s.v (v + 1)).at 0).toNat % 2 ^ 32))

/-! ### Touch windows, rows of tiles, copies -/

/-- 25 R401, 15 R264, R265: a TOUCH of an in-range region of a resident tensor pins its span entries in a window that lasts
4,096 issue cycles, the core's oldest windows giving way past 64 entries; a region with nothing in range, or in the core's own
memories, pins nothing; an entry still to be read holds the bundle; an absent page is PAGE_FAULT, with a record of KIND 1, or 5
where the entry is resident and its host page absent; TOUCH.REL ends the core's windows that hold its origin.

Where the rules leave a reading open it takes that of notes/assumptions/27.md. -/
def Obligations.TouchWindows : Prop :=
  (∀ (s : State) (a : AReg) (rows blocks : BitVec 6) (rd wr : Bool) (i : Instr) (d : Desc),
    (rd = true ∧ wr = false ∧ i = .touchR a rows blocks) ∨ (rd = false ∧ wr = true ∧ i = .touchW a rows blocks) ∨
      (rd = true ∧ wr = true ∧ i = .touchRw a rows blocks) →
    s.desc (aTid (s.a a)) = .ok d →
    let x := s.a a
    let es := regionElts d x (rows.toNat + 1) (64 * (blocks.toNat + 1))
    let found := s.touchSpans (s.core.fetchedOf fetchSpans 0).isSome (aTid x) d es []
    (es = [] → exec i s = .next s) ∧
    (es ≠ [] → (rd = true → s.permit (aTid x) d .read = .ok ()) → (wr = true → s.permit (aTid x) d .write = .ok ()) →
      (d.kind = .table → d.loc ≤ 1 → ∀ l, found = .entries l → ∃ t w, exec i s = .next t ∧
        t.core.bank.windows.getLast? = some w ∧ w.tid = aTid x ∧ w.rows = rows.toNat + 1 ∧ w.cols = 64 * (blocks.toNat + 1) ∧
        (∀ j < 4, [w.c0, w.c1, w.c2, w.c3].getD j 0 = aCoord x j) ∧ w.ends = s.core.bank.issues + 1 + 4096 ∧
        w.opened = s.now ∧ w.spans = l.take 64 ∧
        (let all := sortBy Window.opened (s.core.bank.windows ++ s.core.other.windows)
          let pinned (x : List Window) : Nat := (x.flatMap Window.spans).length + w.spans.length
          ∃ k, let kept := all.drop k
            t.core.bank.windows = s.core.bank.windows.filter kept.contains ++ [w] ∧
            t.core.other.windows = s.core.other.windows.filter kept.contains ∧
            (all.length ≤ 64 → pinned kept ≤ 64) ∧ (pinned all ≤ 64 → kept = all)) ∧
        SameRegisters t.core.bank s.core.bank ∧ SameBytes s t s.core.id s.core.bank.id) ∧
      (d.kind = .table → d.loc = 2 ∨ d.loc = 3 → exec i s = .next s) ∧
      (d.kind = .spad ∨ d.kind = .acc ∨ d.kind = .wstore ∨ d.kind = .wbuf ∨ (∃ g, d.kind = .batchMap g) →
        exec i s = .next s) ∧
      (∀ g, d.kind = .cache g → ∃ t, exec i s = .next t ∧ t.core.bank.windows = s.core.bank.windows ∧
        SameRegisters t.core.bank s.core.bank ∧ SameBytes s t s.core.id s.core.bank.id) ∧
      (d.kind = .table → d.loc ≤ 1 → found = .missing → s.reaches d.base = .ok () → ∃ t, exec i s = .next t ∧ t.holding = some (13, false)) ∧
      (d.kind = .table → d.loc ≤ 1 → ∀ c r e, found = .absent c r e → ∃ t q, exec i s = .next t ∧ t.raised = some q ∧
        q.cause = 0x0A ∧ q.ring = false ∧ q.tval = BitVec.ofNat 64 (s.core.bank.area + 0x2000) ∧
        ∃ b, q.record = some b ∧ b.head? = some (0, if bitAt e.raw 0 then 5 else 1)))) ∧
  (∀ (s : State) (a : AReg), ∃ t, exec (.touchRel a) s = .next t ∧ SameRegisters t.core.bank s.core.bank ∧
    let holds (w : Window) : Prop :=
      w.tid = aTid (s.a a) ∧ w.c0 ≤ aCoord (s.a a) 0 ∧ aCoord (s.a a) 0 < w.c0 + w.cols ∧ w.c1 ≤ aCoord (s.a a) 1 ∧
        aCoord (s.a a) 1 < w.c1 + w.rows ∧ w.c2 = aCoord (s.a a) 2 ∧ w.c3 = aCoord (s.a a) 3
    (∀ w, w ∈ t.core.bank.windows ↔ w ∈ s.core.bank.windows ∧ ¬ holds w) ∧
    ∀ w, w ∈ t.core.other.windows ↔ w ∈ s.core.other.windows ∧ ¬ holds w) ∧
  (∀ (s : State) (core : BitVec 8), ∃ t, exec (.touchWindowExpiry core) s = .next t ∧
    ∀ w, w ∈ t.core.bank.windows ↔ w ∈ (s.focus core.toNat).core.bank.windows ∧ (s.focus core.toNat).core.bank.issues < w.ends)

/-- 25 R400, R405, 04 R87: TLDT and TSTT put their 64 rows under way from matrix-domain cycle issue + cyc, TLDT setting its
tile's tag and claiming its bank's write port for those cycles; a row that is due in the issue cycle moves in it, and another
moves in its own cycle as TLDT_ROW and TSTT_ROW move it; the counter falls with row 63.  A row whose data is late, or that meets
a full store queue, waits; an uncorrectable error in a TLDT's row stops the operation with a trap.

Where the rules leave a reading open it takes that of notes/assumptions/46.md and notes/assumptions/50.md. -/
def Obligations.TileRows : Prop :=
  (∀ (s : State) (a : AReg) (k : TReg) (c : BitVec 6) (d : Desc), s.desc (aTid (s.a a)) = .ok d →
    s.tilesFree true [k.val] = .ok () → s.core.bank.loads < 63 → NoHold (s.rowRegion (s.a a) d 64 .read) →
    (d.tag ≠ 1 → d.tag ≠ 8 → exec (.tldt a k c) s = .next (s.takeTrap (tagMismatch (a + 2 ^ 7 + d.tag * 2 ^ 8)))) ∧
    (d.tag = 1 ∨ d.tag = 8 →
      (s.core.collides (k % 8) (s.core.mat.cycles + c.toNat) = true → exec (.tldt a k c) s = .next (s.takeTrap (violation 2))) ∧
      (s.core.collides (k % 8) (s.core.mat.cycles + c.toNat) = false → ∀ l, s.rowRegion (s.a a) d 64 .read = .ok l →
        ∃ (u : State) (r : RowOp), exec (.tldt a k c) s = .next u.firstRow ∧ u.core.rowOps = s.core.rowOps ++ [r] ∧ r.kind = .load ∧ r.tile = k.val ∧
          r.row = 0 ∧ r.next = s.core.mat.cycles + c.toNat ∧ r.areg = s.a a ∧ r.bank = s.core.bank.id ∧ r.spans = l ∧
          u.core.bank.loads = s.core.bank.loads + 1 ∧ u.core.bank.tagT k = d.tag ∧ u.core.bank.t = s.core.bank.t ∧
          u.core.bank.inflight = s.core.bank.inflight ∧ SameBytes s u s.core.id s.core.bank.id ∧
          (∀ j < 64, u.core.rowClaims (k % 8) (s.core.mat.cycles + c.toNat + j) = true) ∧
          ((∀ q ∈ s.core.rowOps, s.core.rowDue q = false) →
            (0 < c.toNat → u.firstRow = u) ∧ (c = 0 → u.rowLate r = false → u.firstRow = u.loadRow r false))))) ∧
  (∀ (s : State) (a : AReg) (k : TReg) (c : BitVec 6) (d : Desc), s.desc (aTid (s.a a)) = .ok d →
    s.tilesFree false [k.val] = .ok () → s.core.bank.stores < 31 →
    let cols := if d.tag = 0 then 256 else 64
    NoHold (s.rowRegion (s.a a) d cols .write) →
    (d.tag ≠ s.core.bank.tagT k → d.tag ≠ 0 →
      exec (.tstt a k c) s = .next (s.takeTrap (tagMismatch (a + 2 ^ 7 + d.tag * 2 ^ 8)))) ∧
    (d.tag = s.core.bank.tagT k ∨ d.tag = 0 → ∀ l, s.rowRegion (s.a a) d cols .write = .ok l →
      let ps := s.regionPieces l (aTid (s.a a)) d (regionElts d (s.a a) 64 cols)
      (¬ StoresApart s ps → ∃ t q, exec (.tstt a k c) s = .next t ∧ t.raised = some q ∧ q.cause = 0x02 ∧ q.tval = 5) ∧
      (StoresApart s ps → ∃ (u : State) (r : RowOp), exec (.tstt a k c) s = .next u.firstRow ∧ u.core.rowOps = s.core.rowOps ++ [r] ∧
        r.kind = .store ∧ r.tile = k.val ∧ r.row = 0 ∧ r.next = s.core.mat.cycles + c.toNat ∧ r.areg = s.a a ∧ r.spans = l ∧
        u.core.bank.stores = s.core.bank.stores + 1 ∧ SameRegisters u.core.bank s.core.bank ∧
        u.core.bank.inflight = s.core.bank.inflight ∧ SameBytes s u s.core.id s.core.bank.id ∧
        ((∀ q ∈ s.core.rowOps, s.core.rowDue q = false) →
          (0 < c.toNat → u.firstRow = u) ∧ (c = 0 → u.core.rowFull r = false → u.firstRow = u.storeRow r))))) ∧
  (∀ (s : State) (core : BitVec 8) (seq : BitVec 48) (err : Bool) (r : RowOp),
    let u := s.focus core.toNat
    u.core.rowOf seq.toNat = some r →
    (u.core.rowDue r = false ∨ u.rowLate r = true → exec (.tldtRow core (seq, err)) s = .next u) ∧
    (u.core.rowDue r = true → u.rowLate r = false → r.stopped = 0 → ∃ t q, exec (.tldtRow core (seq, true)) s = .next t ∧
      { r with stopped := 2 } ∈ t.core.rowOps ∧ (t.core.bankOf r.bank).pending = (u.core.bankOf r.bank).pending ++ [q] ∧
      q.cause = 0x10 ∧ (t.core.bankOf r.bank).t = (u.core.bankOf r.bank).t) ∧
    (u.core.rowDue r = true → u.rowLate r = false → r.old = [] → r.src.desc.tag ≠ 6 →
      ∃ t, exec (.tldtRow core (seq, false)) s = .next t ∧ t = u.loadRow r false ∧
        (∀ k < 64, ((t.core.bankOf r.bank).readT r.tile).at (64 * r.row + k) =
          match ((u.view r.bank).rowElts r 64).1.find? (fun e => e.idx = k) with
          | some e => BitVec.ofNat 32 (u.readElt u.core.id r.bank r.src.desc.tag e)
          | none => 0) ∧
        (∀ j, j < 64 * r.row ∨ 64 * r.row + 64 ≤ j →
          ((t.core.bankOf r.bank).readT r.tile).at j = ((u.core.bankOf r.bank).readT r.tile).at j) ∧
        (∀ k, k ≠ r.tile → (t.core.bankOf r.bank).readT k = (u.core.bankOf r.bank).readT k) ∧
        (t.core.bankOf r.bank).loads = (if r.row = 63 then (u.core.bankOf r.bank).loads - 1 else (u.core.bankOf r.bank).loads) ∧
        (r.row ≠ 63 → { r with row := r.row + 1, next := r.next + 1, stopped := 0 } ∈ t.core.rowOps) ∧
        (r.row = 63 → ∀ q ∈ t.core.rowOps, q.seq ≠ r.seq) ∧ SameOuterMemory s t)) ∧
  (∀ (s : State) (core : BitVec 8) (seq : BitVec 48) (r : RowOp),
    let u := s.focus core.toNat
    u.core.rowOf seq.toNat = some r →
    (u.core.rowDue r = false ∨ u.core.rowFull r = true → exec (.tsttRow core seq) s = .next u) ∧
    (u.core.rowDue r = true → u.core.rowFull r = false →
      let es := ((u.view r.bank).rowElts r (if r.src.desc.tag = 0 then 256 else 64)).1
      ∃ t data, exec (.tsttRow core seq) s = .next t ∧ t = u.storeRow r ∧
        (∀ k < 64, data.at k = ((u.core.bankOf r.bank).readT r.tile).at (64 * r.row + k)) ∧
        (r.row ≠ 63 → ∃ o, { r with row := r.row + 1, next := r.next + 1, stopped := 0, old := o } ∈ t.core.rowOps) ∧
        (r.row = 63 → ∀ q ∈ t.core.rowOps, q.seq ≠ r.seq) ∧
        -- elsewhere than the core's own memories the row enters the store queue with its data
        ((∃ e ∈ es, ∃ l, e.loc = some l ∧ l.isOwn u.core.id = false) → SameBytes u t u.core.id r.bank ∧
          ∃ x, (t.core.bankOf r.bank).stq = (u.core.bankOf r.bank).stq ++ [x] ∧ x.kind = .row ∧ x.more = decide (r.row ≠ 63) ∧
            x.data = data ∧ x.elems = es) ∧
        -- in them it is written at once
        ((∀ e ∈ es, ∀ l, e.loc = some l → l.isOwn u.core.id = true) →
          (t.core.bankOf r.bank).stq = (u.core.bankOf r.bank).stq ∧ SameOuterMemory s t ∧
          ElementsWritten u t u.core.id r.bank r.src.desc.tag es data ∧
          (t.core.bankOf r.bank).stores = (if r.row = 63 then (u.core.bankOf r.bank).stores - 1 else (u.core.bankOf r.bank).stores))))

/-- 21 R347, 04 R92, R93, 06 R132, R143: COPY queues a transfer, which takes its channel's next identifier; the X engine stays
occupied for its stated beats; where no freeze meets it, an X slot issued before they have passed is SCHEDULE_FAULT and a length
past 32 bits SCHEDULE_VIOLATION. -/
def Obligations.CopyIssues : Prop :=
  ∀ (s : State) (d a : AReg) (l : GReg) (e : BitVec 4) (c : BitVec 2) (ds dd : Desc),
    let n := c.toNat
    let ch := s.core.chan n
    let x := (s.g l).toNat
    let src := rangeOf (s.a a) ds
    let dst := rangeOf (s.a d) dd
    CopyRuns s d a n x ds dd →
    (s.core.cpy.cycles < s.core.xBusy → exec (.copy d a l e c) s =
      .next (s.takeTrap (scheduleFault 1 (s.core.xBusy - s.core.cpy.cycles)))) ∧
    (s.core.xBusy ≤ s.core.cpy.cycles → 2 ^ 32 ≤ x → exec (.copy d a l e c) s = .next (s.takeTrap (violation 10))) ∧
    (s.core.xBusy ≤ s.core.cpy.cycles → x < 2 ^ 32 → (ds.kind = .wbuf → src.off = none ∨ x = 0) →
      s.checkRange src x .read = .ok () → s.checkRange dst x .copy = .ok () →
      ∃ t y, exec (.copy d a l e c) s = .next t ∧ (t.core.chan n).queue = ch.queue ++ [y] ∧
        (t.core.chan n).next = ch.next + 1 ∧ (t.core.chan n).mark = ch.mark ∧ y.id = ch.next.toNat ∧ y.kind = .program ∧
        y.src = src ∧ y.dst = dst ∧ y.len = x ∧ y.written = 0 ∧ (∀ m, m ≠ n → t.core.chan m = s.core.chan m) ∧
        t.core.bank.copies = s.core.bank.copies + 1 ∧ t.core.xBusy = s.core.cpy.cycles + e.toNat + 1 ∧
        SameRegisters t.core.bank s.core.bank ∧ t.core.bank.inflight = s.core.bank.inflight ∧
        SameBytes s t s.core.id s.core.bank.id)

/-- 04 R84, R93, R94, 21 R347: the head of a channel moves one sector of 256 bytes, source bytes read before any is written and
bytes out of range read as 0; after the last one the tidemark passes the transfer and the copies counter falls.  A sector
that meets an absent page stops the transfer and leaves a PAGE_FAULT for the next bundle.  Stated for a sector that nothing holds
back: no operand fetch, no write port, no shut place, no scratchpad bank that the engine side uses.

Where the rules leave a reading open it takes that of notes/assumptions/27.md. -/
def Obligations.CopySectors : Prop :=
  ∀ (s : State) (core : BitVec 8) (chan : BitVec 2) (x : Transfer) (rest : List Transfer),
    let u := s.focus core.toNat
    let v := u.view x.bank
    let n := chan.toNat
    let k := min 256 (x.len - x.written)
    (u.core.chan n).queue = x :: rest → x.kind = .program → x.stopped = 0 ∨ x.stopped = 3 → u.core.halted = false →
    x.bank = u.core.bank.id ∨ x.bank = u.core.other.id → x.written < x.len → u.fetchWaits x k = false →
    (∀ y ∈ tilesOf (x.dst.from' x.written) k, u.core.rowClaims (y % 8) u.core.mat.cycles = false ∧
      u.core.matClaims (y % 8) u.core.mat.cycles = false) → u.sectorShut x = false →
    (v.sectorStop x.src x.written k = none → v.sectorStop x.dst x.written k = none → x.waited = 0 ∨ u.trk 0 = false →
      (∀ y ∈ spadBanks u.core.id (v.rangeLocs x.src x.written k ++ v.rangeLocs x.dst x.written k), y ∉ u.core.engineBanks) →
      ∃ t, exec (.copySectorWrite core chan false) s = .next t ∧ SectorMoved u t u.core.id x k ∧
        (x.written + k < x.len → (t.core.chan n).queue = { x with written := x.written + k, stopped := 0, waited := 0 } :: rest ∧
          (t.core.chan n).mark = (u.core.chan n).mark) ∧
        (x.written + k = x.len → (t.core.chan n).queue = rest ∧ (t.core.chan n).mark = BitVec.ofNat 64 (x.id + 1) ∧
          (t.core.bankOf x.bank).copies = (u.core.bankOf x.bank).copies - 1)) ∧
    (∀ e off, v.sectorStop x.src x.written k = some (.absent e off) ∨
        v.sectorStop x.src x.written k = none ∧ v.sectorStop x.dst x.written k = some (.absent e off) →
      ∃ t q, exec (.copySectorWrite core chan false) s = .next t ∧
        (t.core.chan n).queue = { x with stopped := 1 } :: rest ∧
        (t.core.bankOf x.bank).pending = (u.core.bankOf x.bank).pending ++ [q] ∧ q.cause = 0x0A ∧ SameBytes u t u.core.id x.bank)

/-- 21 R348, 04 R87, R93, 25 R427: COPYADD queues a transfer whose 64 rows are added to its FP32 tile at their matrix-domain
cycles, each element the sum rounded under the FMODE of its issue; a row that is due in the issue cycle moves in it, and another
in its own cycle as COPYADD_ROW moves it; the transfer's progress counts the rows written, and it completes with the last one; an
absent page stops it with a PAGE_FAULT; its traps at issue, where no freeze meets it.  XTEST writes whether the tidemark has
passed an identifier. -/
def Obligations.CopyAddAndXtest : Prop :=
  (∀ (s : State) (d : TReg) (a : AReg) (c : BitVec 6) (h : BitVec 2) (ds : Desc), s.core.xBusy ≤ s.core.cpy.cycles →
    s.desc (aTid (s.a a)) = .ok ds → s.tilesFree true [d.val] = .ok () →
    (s.core.chan h.toNat).queue.length < 16 → s.core.bank.copies < 63 → NoHold (s.checkRange (rangeOf (s.a a) ds) 16384 .read) →
    (s.core.bank.tagT d ≠ 1 → exec (.copyadd d a c h) s =
      .next (s.takeTrap (tagMismatch (d + 2 ^ 6 + s.core.bank.tagT d * 2 ^ 8)))) ∧
    (s.core.bank.tagT d = 1 → ds.tag ≠ 1 → exec (.copyadd d a c h) s =
      .next (s.takeTrap (tagMismatch (a + 2 ^ 7 + ds.tag * 2 ^ 8)))) ∧
    (s.core.bank.tagT d = 1 → ds.tag = 1 →
      (s.core.collides (d % 8) (s.core.mat.cycles + c.toNat) = true →
        exec (.copyadd d a c h) s = .next (s.takeTrap (violation 1))) ∧
      (s.core.collides (d % 8) (s.core.mat.cycles + c.toNat) = false → s.checkRange (rangeOf (s.a a) ds) 16384 .read = .ok () →
        ∃ u r y, exec (.copyadd d a c h) s = .next u.firstRow ∧ u.core.rowOps = s.core.rowOps ++ [r] ∧ r.kind = .copyAdd ∧
          r.tile = d.val ∧ r.row = 0 ∧ r.next = s.core.mat.cycles + c.toNat ∧ r.fmode = s.core.bank.sys.fmode ∧
          (u.core.chan h.toNat).queue = (s.core.chan h.toNat).queue ++ [y] ∧ y.id = (s.core.chan h.toNat).next.toNat ∧
          r.id = y.id ∧ r.chan = h.toNat ∧ y.kind = .copyAdd ∧ u.core.bank.copies = s.core.bank.copies + 1 ∧
          u.core.xBusy = s.core.cpy.cycles + 1 ∧ SameRegisters u.core.bank s.core.bank ∧ SameBytes s u s.core.id s.core.bank.id ∧
          ((∀ q ∈ s.core.rowOps, s.core.rowDue q = false) →
            (0 < c.toNat → u.firstRow = u) ∧ (c = 0 → u.rowLate r = false → u.firstRow = u.addRow r false))))) ∧
  (∀ (s : State) (core : BitVec 8) (seq : BitVec 48) (err : Bool) (r : RowOp),
    let u := s.focus core.toNat
    let v := u.view r.bank
    let md := modesOf r.fmode
    let word (k : Nat) : Nat := (List.range 4).foldl (fun acc i => acc + (match v.rangeByte r.src (256 * r.row + 4 * k + i) with
      | .at l => (u.byteAt u.core.id r.bank l).toNat
      | _ => 0) * 256 ^ i) 0
    let sum (k : Nat) : FpOut := Fmt.fp32.addNum md
      (Fmt.fp32.valueDaz md.daz (((u.core.bankOf r.bank).readT r.tile).at (64 * r.row + k)).toNat) (Fmt.fp32.valueDaz md.daz (word k))
    u.core.rowOf seq.toNat = some r →
    (u.core.rowDue r = false ∨ u.rowLate r = true → exec (.copyaddRow core (seq, err)) s = .next u) ∧
    (u.core.rowDue r = true → u.rowLate r = false →
      (∀ e off, v.sectorStop r.src (256 * r.row) 256 = some (.absent e off) → ∃ t q, exec (.copyaddRow core (seq, err)) s = .next t ∧
        { r with stopped := 1 } ∈ t.core.rowOps ∧ (t.core.bankOf r.bank).pending = (u.core.bankOf r.bank).pending ++ [q] ∧
        q.cause = 0x0A ∧ (t.core.bankOf r.bank).t = (u.core.bankOf r.bank).t) ∧
      ((∀ b < 256, ∀ y, v.rangeByte r.src (256 * r.row + b) = y → (∀ e o, y ≠ .absent e o) ∧ ∀ k, y ≠ .stop k) →
        (∀ k < 64, (sum k).snan = false) → (∀ k < 64, (sum k).flags &&& md.te &&& 31 = 0) → r.kind = .copyAdd → r.old = [] →
        ∃ t, exec (.copyaddRow core (seq, false)) s = .next t ∧ t = u.addRow r false ∧
          (∀ k < 64, (((t.core.bankOf r.bank).readT r.tile).at (64 * r.row + k)) = BitVec.ofNat 32 (sum k).bits) ∧
          (∀ j, j < 64 * r.row ∨ 64 * r.row + 64 ≤ j →
            ((t.core.bankOf r.bank).readT r.tile).at j = ((u.core.bankOf r.bank).readT r.tile).at j) ∧
          (r.row ≠ 63 → { r with row := r.row + 1, next := r.next + 1, stopped := 0 } ∈ t.core.rowOps ∧
            ∃ y, (t.core.chan r.chan).queue.head? = some y ∧ y.id = r.id ∧ y.written = 256 * (r.row + 1)) ∧
          (r.row = 63 → (∀ q ∈ t.core.rowOps, q.seq ≠ r.seq) ∧ (t.core.chan r.chan).mark = BitVec.ofNat 64 (r.id + 1)) ∧
          SameOuterMemory s t))) ∧
  (∀ (s : State) (p : PReg) (a : GReg) (c : BitVec 2), s.core.xBusy ≤ s.core.cpy.cycles →
    let done := decide ((s.g a).toNat < (s.core.chan c.toNat).mark.toNat)
    ∃ t, exec (.xtest p a c) s = .next t ∧ t.core.xBusy = s.core.cpy.cycles + 1 ∧
      t.core.bank.inflight = s.core.bank.inflight ++ [s.result (.p p.val done) .cpy 1] ∧
      SMap.get 0 t.core.bank.pw p.val = s.core.bank.issues + 1 ∧ SameRegisters t.core.bank s.core.bank ∧
      (done = false → SameBytes s t s.core.id s.core.bank.id))

/-- 21 R337, 04 R95, R96: in a launch with BC, BCAST drives 256 bytes of the scratchpad on its cluster's bus, and BLATCH
takes the bytes driven four bus cycles before, no operand fetch having still to read where they go; without BC both are
ILLEGAL_INSN.

Where the rules leave a reading open it takes that of notes/assumptions/9.md. -/
def Obligations.BroadcastBus : Prop :=
  ∀ (s : State) (a : AReg),
    ((∀ t, s.core.task = some t → t.bc = false) →
      exec (.bcast a) s = .next (s.takeTrap s.illegal) ∧ exec (.blatch a) s = .next (s.takeTrap s.illegal)) ∧
    (∀ c0, s.busCheck a = .ok c0 →
      ((∃ b ∈ s.buses, b.cluster = s.core.id / 16 ∧ b.age = 0 ∧ b.core ≠ s.core.id) →
        exec (.bcast a) s = .next (s.takeTrap (violation 3))) ∧
      ((∀ b ∈ s.buses, b.cluster = s.core.id / 16 → b.age = 0 → b.core = s.core.id) →
        ∃ t b, exec (.bcast a) s = .next t ∧ t.buses.head? = some b ∧ b.cluster = s.core.id / 16 ∧ b.age = 0 ∧
          b.core = s.core.id ∧ b.data = s.core.spad.read (aCoord (s.a a) 0) 256 ∧
          t.core.xBusy = s.core.cpy.cycles + 1 ∧ SameRegisters t.core.bank s.core.bank ∧ SameBytes s t s.core.id s.core.bank.id) ∧
      (s.core.crosses [({ space := .spad s.core.id, addr := c0 }, 256)] = false →
        s.buses.find? (fun b => b.cluster = s.core.id / 16 && b.age = 4) = none →
        exec (.blatch a) s = .next (s.takeTrap (violation 4))) ∧
      (s.core.crosses [({ space := .spad s.core.id, addr := c0 }, 256)] = false →
        ∀ b, s.buses.find? (fun b => b.cluster = s.core.id / 16 && b.age = 4) = some b →
        ∃ t, exec (.blatch a) s = .next t ∧ t.core.spad = s.core.spad.write (aCoord (s.a a) 0) b.data 256 ∧
          t.core.wbuf = s.core.wbuf ∧ t.core.xBusy = s.core.cpy.cycles + 1 ∧ SameRegisters t.core.bank s.core.bank ∧
          SameOuterMemory s t))

/-! ### Numbers and their rounding -/

/-- 05 R109, R112, R113, R114: a positive magnitude is rounded once, in every format and every mode, with its flags.  The
threshold of tininess after rounding to nearest stands in the last clause. -/
def Obligations.RoundsCorrectly : Prop :=
  ∀ f ∈ [Fmt.fp64, Fmt.fp32, Fmt.bf16, Fmt.fp16, Fmt.e5m2, Fmt.e4m3],
    ∀ (rm : Rm) (ftz sat neg : Bool) (mag : Nat) (exp : Int), 0 < mag →
      let x : Rat := mag * 2 ^ exp
      Rounded f rm ftz sat neg x (f.round rm ftz sat neg mag exp) ∧
      (rm = .rne → ftz = false → (f.round rm ftz sat neg mag exp).flags.testBit 4 = true →
        ((f.round rm ftz sat neg mag exp).flags.testBit 3 = true ↔ x < 2 ^ f.emin * (1 - 2 ^ (-(f.m + 2 : Nat) : Int))))

/-- 25 R407, R414, 05 R105, R112, R119, R121: sums, products and fused products of values: the exact result rounded once,
the sign of an exact zero, the special operands, and maximumNumber and minimumNumber. -/
def Obligations.FloatingArithmetic : Prop :=
  ∀ f ∈ [Fmt.fp64, Fmt.fp32, Fmt.bf16, Fmt.fp16], ∀ (md : Modes) (a b c : Exact),
    (a.isFinite = true → b.isFinite = true → realOf a + realOf b ≠ 0 →
      Rounded f md.rm md.ftz false (decide (realOf a + realOf b < 0)) (gap 0 (realOf a + realOf b)) (f.addNum md a b)) ∧
    (a.isFinite = true → b.isFinite = true → realOf a + realOf b = 0 →
      f.addNum md a b = { bits := f.signBit (if a.neg? = b.neg? then a.neg? else decide (md.rm = .down)) }) ∧
    (a.isFinite = true → b.isFinite = true → realOf a * realOf b ≠ 0 →
      Rounded f md.rm md.ftz false (a.neg? != b.neg?) (gap 0 (realOf a * realOf b)) (f.mulNum md a b)) ∧
    (a.isFinite = true → b.isFinite = true → realOf a * realOf b = 0 →
      f.mulNum md a b = { bits := f.signBit (a.neg? != b.neg?) }) ∧
    (a.isFinite = true → b.isFinite = true → c.isFinite = true → realOf a * realOf b + realOf c ≠ 0 →
      Rounded f md.rm md.ftz false (decide (realOf a * realOf b + realOf c < 0)) (gap 0 (realOf a * realOf b + realOf c))
        (f.fmaNum md a b c)) ∧
    (∀ n, b ≠ .nan true → b ≠ .nan false → b ≠ .inf (!n) → f.addNum md (.inf n) b = { bits := f.signBit n + f.infBits }) ∧
    (∀ n, f.addNum md (.inf n) (.inf !n) = { bits := f.defaultNan, flags := fNV }) ∧
    (∀ n, b.isNan = false → b.isZero = false →
      f.mulNum md (.inf n) b = { bits := f.signBit (n != b.neg?) + f.infBits }) ∧
    (∀ n, b.isZero = true → f.mulNum md (.inf n) b = { bits := f.defaultNan, flags := fNV }) ∧
    (∀ n, b.isZero = true → c.isSnan = false → f.fmaNum md (.inf n) b c = { bits := f.defaultNan, flags := fNV }) ∧
    (a.isNan = true ∨ b.isNan = true →
      let o : FpOut := if a.isSnan = true ∨ b.isSnan = true then
          (if md.snt then { bits := f.defaultNan, flags := fNV, snan := true } else { bits := f.defaultNan, flags := fNV + fSNAN })
        else { bits := f.defaultNan }
      f.addNum md a b = o ∧ f.mulNum md a b = o) ∧
    (∀ x y, let a := f.valueDaz md.daz x
      let b := f.valueDaz md.daz y
      let at' (n : Exact) (z : Nat) : Nat := if n.isZero then f.signBit n.neg? else z
      (NumLt a b → f.maxmin md true x y = { bits := at' b y } ∧ f.maxmin md false x y = { bits := at' a x }) ∧
      (NumLt b a → f.maxmin md true x y = { bits := at' a x } ∧ f.maxmin md false x y = { bits := at' b y }) ∧
      (a.isZero = true → b.isZero = true → f.maxmin md true x y = { bits := f.signBit (a.neg? && b.neg?) } ∧
        f.maxmin md false x y = { bits := f.signBit (a.neg? || b.neg?) }) ∧
      (a = .nan false → b.isNan = false → f.maxmin md true x y = { bits := at' b y } ∧ f.maxmin md false x y = { bits := at' b y }) ∧
      (b = .nan false → a.isNan = false → f.maxmin md true x y = { bits := at' a x } ∧ f.maxmin md false x y = { bits := at' a x }) ∧
      (a = .nan false → b = .nan false →
        f.maxmin md true x y = { bits := f.defaultNan } ∧ f.maxmin md false x y = { bits := f.defaultNan }))

/-! ### Vector arithmetic -/

/-- 25 R407, R414, R421: VADD, VSUB, VMUL, VFMA, VMAX and VMIN element by element, under the modes of FMODE, with operands of one
accepted tag; INT32 results wrap and set no flag; maxima of INT32 are signed; VFMA takes vd as its addend.  VSCL scales an FP32
element by a power of two and rounds once.

Where the rules leave a reading open it takes that of notes/assumptions/18.md. -/
def Obligations.VectorArithmetic : Prop :=
  ∀ (s : State) (d a b : VReg) (m : VMReg) (tag : Nat), VectorFree s →
    let f := tagFmt tag
    let md := s.modes
    let int (x : Int) : FpOut := { bits := (x % 2 ^ 32).toNat }
    (Arithmetic s tag [a, b] →
      (∃ t, exec (.vadd d a b m) s = .next t ∧ PutsElements s t d tag 2 (s.vm m) fun i =>
        if tag = 8 then int (intOf s a i + intOf s b i) else f.addNum md (valueOf s tag a i) (valueOf s tag b i)) ∧
      (∃ t, exec (.vsub d a b m) s = .next t ∧ PutsElements s t d tag 2 (s.vm m) fun i =>
        if tag = 8 then int (intOf s a i - intOf s b i) else f.addNum md (valueOf s tag a i) (valueOf s tag b i).negate) ∧
      (∃ t, exec (.vmul d a b m) s = .next t ∧ PutsElements s t d tag 2 (s.vm m) fun i =>
        if tag = 8 then int (intOf s a i * intOf s b i) else f.mulNum md (valueOf s tag a i) (valueOf s tag b i)) ∧
      (∃ t, exec (.vmax d a b m) s = .next t ∧ PutsElements s t d tag 2 (s.vm m) fun i =>
        if tag = 8 then int (max (intOf s a i) (intOf s b i)) else f.maxmin md true (elem (s.v a) tag i) (elem (s.v b) tag i)) ∧
      (∃ t, exec (.vmin d a b m) s = .next t ∧ PutsElements s t d tag 2 (s.vm m) fun i =>
        if tag = 8 then int (min (intOf s a i) (intOf s b i)) else f.maxmin md false (elem (s.v a) tag i) (elem (s.v b) tag i))) ∧
    (Arithmetic s tag [a, b, d] → ∃ t, exec (.vfma d a b m) s = .next t ∧ PutsElements s t d tag 4 (s.vm m) fun i =>
      if tag = 8 then int (intOf s a i * intOf s b i + intOf s d i)
      else f.fmaNum md (valueOf s tag a i) (valueOf s tag b i) (valueOf s tag d i)) ∧
    (s.tag a = 1 → s.tag b = 8 → ∃ t, exec (.vscl d a b m) s = .next t ∧ PutsElements s t d 1 2 (s.vm m) fun i =>
      match valueOf s 1 a i with
      | .nan true => if md.snt then { bits := Fmt.fp32.defaultNan, flags := fNV, snan := true } else { bits := Fmt.fp32.defaultNan, flags := fNV + fSNAN }
      | .nan false => { bits := elem (s.v a) 1 i }
      | .inf n => { bits := Fmt.fp32.signBit n + Fmt.fp32.infBits }
      | .fin n k e => Fmt.fp32.round md.rm md.ftz false n k (e + max (-1000) (min (intOf s b i) 1000)))

/-- 25 R409: the comparisons set bit i for element i, bits 2i and 2i + 1 for FP64; a masked bit is 0; LT and LE raise NV on
any NaN, EQ and NE on a signalling one. -/
def Obligations.VectorCompare : Prop :=
  ∀ (s : State) (d : VMReg) (a b : VReg) (m : VMReg) (tag : Nat), VectorFree s → Arithmetic s tag [a, b] →
    let el (l : Nat) : Nat := if tag = 10 then l / 2 else l
    let on (i : Nat) : Prop := (s.vm m).getLsbD (laneOf tag i) = true
    let x (i : Nat) : Exact := valueOf s tag a i
    let y (i : Nat) : Exact := valueOf s tag b i
    let anyNan (i : Nat) : Prop := tag ≠ 8 ∧ ((x i).isNan = true ∨ (y i).isNan = true)
    let anySnan (i : Nat) : Prop := tag ≠ 8 ∧ ((x i).isSnan = true ∨ (y i).isSnan = true)
    let eq (i : Nat) : Prop := if tag = 8 then intOf s a i = intOf s b i else NumEq (x i) (y i)
    let lt (i : Nat) : Prop := if tag = 8 then intOf s a i < intOf s b i else NumLt (x i) (y i)
    let puts (t : State) (loud : Bool) (test : Nat → Prop) : Prop := ∃ r fl sn,
      PutsFlagged s t (.vm d.val r) 2 fl sn ∧ (∀ l < 64, r.getLsbD l = true ↔ on (el l) ∧ test (el l)) ∧
      (fl.testBit 0 = true ↔ ∃ i < min 64 (tagCount tag), on i ∧
        (anySnan i ∨ (anyNan i ∧ loud = true))) ∧
      (sn = true ↔ ∃ i < min 64 (tagCount tag), on i ∧ anySnan i ∧ s.modes.snt = true)
    (∃ t, exec (.vcmpEq d a b m) s = .next t ∧ puts t false eq) ∧
    (∃ t, exec (.vcmpNe d a b m) s = .next t ∧ puts t false fun i => ¬ eq i) ∧
    (∃ t, exec (.vcmpLt d a b m) s = .next t ∧ puts t true lt) ∧
    (∃ t, exec (.vcmpLe d a b m) s = .next t ∧ puts t true fun i => lt i ∨ eq i)

/-- 25 R408, R413, R415, R416, R417, R420, R422, R424: the forms that move and combine lanes.

05 R102, R103, 07 R164: a vector instruction whose operand carries a tag it does not accept traps at its own bundle and
names the register and its tag; while a relaxation with acceleration runs, it waits.  25 R407, R414, R419, R421: with operands of
the accepted tags the arithmetic forms complete: a result of vd, 2, 4 or 6 vector-domain cycles on.

Where the rules leave a reading open it takes that of notes/assumptions/21.md. -/
def Obligations.VectorLanesAndTags : Prop :=
  (∀ (s : State) (d a b : VReg) (m : VMReg), VectorFree s →
      let A (i : Nat) : Lane := (s.v a).at i
      let B (i : Nat) : Lane := (s.v b).at i
      let ones : Word := 0xFFFFFFFFFFFFFFFF
      (∃ t, exec (.vmov d a m) s = .next t ∧ ∃ w, PutsInFlight s t (.v d.val (s.v a) w (s.tag a)) .vec 2 ∧
        MaskLanes (s.vm m) w (s.tag a)) ∧
      (∀ k : BitVec 4, ∃ t, exec (.vretagSet d a k m) s = .next t ∧ ∃ w, PutsInFlight s t (.v d.val (s.v a) w k.toNat) .vec 2 ∧
        MaskLanes (s.vm m) w k.toNat) ∧
      (∃ t, exec (.vretagClr d a m) s = .next t ∧ PutsInFlight s t (.v d.val (s.v a) (s.vm m) 0) .vec 2) ∧
      (∃ t, exec (.vretagRead d a m) s = .next t ∧
        PutsLanes s t d 8 2 ones fun i => if i = 0 then BitVec.ofNat 32 (s.tag a) else 0) ∧
      (∀ tag, (s.tag a = tag ∧ (s.tag b = tag ∨ s.tag b = 0)) ∨ (s.tag a = 0 ∧ s.tag b = tag) →
        (∃ t, exec (.vsel d a b m) s = .next t ∧ PutsLanes s t d tag 2 ones fun i => if (s.vm m).getLsbD i then A i else B i) ∧
        (∃ t, exec (.vlogAnd d a b m) s = .next t ∧ PutsLanes s t d tag 2 (s.vm m) fun i => A i &&& B i) ∧
        (∃ t, exec (.vlogOr d a b m) s = .next t ∧ PutsLanes s t d tag 2 (s.vm m) fun i => A i ||| B i) ∧
        (∃ t, exec (.vlogXor d a b m) s = .next t ∧ PutsLanes s t d tag 2 (s.vm m) fun i => A i ^^^ B i) ∧
        (∃ t, exec (.vlogAndn d a b m) s = .next t ∧ PutsLanes s t d tag 2 (s.vm m) fun i => A i &&& ~~~ B i)) ∧
      (s.tag b = 0 ∨ s.tag b = 8 →
        (∃ t, exec (.vperm d a b m) s = .next t ∧
          PutsLanes s t d (s.tag a) 3 (s.vm m) fun i => (s.v a).at (B i).toNat) ∧
        (∃ t, exec (.vbcast d a b m) s = .next t ∧
          PutsLanes s t d (s.tag a) 2 (s.vm m) fun _ => A ((B 0).toNat % 64)) ∧
        (∃ t, exec (.vshfL d a b m) s = .next t ∧ PutsLanes s t d (s.tag a) 2 (s.vm m) fun i =>
          if (B i).toNat < 32 then BitVec.ofNat 32 ((A i).toNat * 2 ^ (B i).toNat) else 0) ∧
        (∃ t, exec (.vshfR d a b m) s = .next t ∧ PutsLanes s t d (s.tag a) 2 (s.vm m) fun i =>
          if (B i).toNat < 32 then BitVec.ofNat 32 ((A i).toNat / 2 ^ (B i).toNat) else 0) ∧
        (∃ t, exec (.vshfA d a b m) s = .next t ∧ PutsLanes s t d (s.tag a) 2 (s.vm m) fun i =>
          if (B i).toNat < 32 then BitVec.ofInt 32 ((A i).toInt / 2 ^ (B i).toNat) else if (A i).msb then 0xFFFFFFFF else 0) ∧
        (∃ t x, exec (.vshfRol d a b m) s = .next t ∧ PutsLanes s t d (s.tag a) 2 (s.vm m) x ∧
          ∀ i < 64, ∀ k < 32, (x i).getLsbD ((k + (B i).toNat) % 32) = (A i).getLsbD k)) ∧
      (∀ e c h : VMReg,
        (∃ t, exec (.vmlogAnd e c h) s = .next t ∧ PutsInFlight s t (.vm e.val (s.vm c &&& s.vm h)) .vec 2) ∧
        (∃ t, exec (.vmlogOr e c h) s = .next t ∧ PutsInFlight s t (.vm e.val (s.vm c ||| s.vm h)) .vec 2) ∧
        (∃ t, exec (.vmlogXor e c h) s = .next t ∧ PutsInFlight s t (.vm e.val (s.vm c ^^^ s.vm h)) .vec 2) ∧
        (∃ t, exec (.vmlogNot e c) s = .next t ∧ PutsInFlight s t (.vm e.val (~~~ s.vm c)) .vec 2))) ∧
  (∀ (s : State) (d a b : VReg) (m : VMReg) (tag : Nat), VectorFree s →
      let ends (i : Instr) (tag lat : Nat) (on : Word) : Prop := ∃ t x w fl sn, exec i s = .next t ∧
        PutsFlagged s t (.v d.val x w tag) lat fl sn ∧ MaskLanes on w tag
      (Arithmetic s tag [a, b] → ends (.vadd d a b m) tag 2 (s.vm m) ∧ ends (.vsub d a b m) tag 2 (s.vm m) ∧
        ends (.vmul d a b m) tag 2 (s.vm m) ∧ ends (.vmax d a b m) tag 2 (s.vm m) ∧ ends (.vmin d a b m) tag 2 (s.vm m)) ∧
      (Arithmetic s tag [a, b, d] → ends (.vfma d a b m) tag 4 (s.vm m)) ∧
      (s.tag a = 1 → s.tag b = 8 → ends (.vscl d a b m) 1 2 (s.vm m)) ∧
      (Arithmetic s tag [a] → ends (.vredArgmax d a m) tag 6 (BitVec.allOnes 64))) ∧
  (∀ (s : State) (d a b : VReg) (m : VMReg),
      let bad (r : VReg) : Out := .next (s.takeTrap (tagMismatch (r.val + 256 * s.tag r)))
      let arith (r : VReg) : Prop := s.tag r ∈ [1, 2, 3, 8, 10]
      (VectorFree s →
        (¬ arith a → exec (.vadd d a b m) s = bad a ∧ exec (.vmul d a b m) s = bad a ∧ exec (.vmax d a b m) s = bad a ∧
          exec (.vfma d a b m) s = bad a ∧ exec (.vredAdd d a m) s = bad a ∧ exec (.vredArgmax d a m) s = bad a) ∧
        (arith a → ¬ arith b → exec (.vadd d a b m) s = bad b ∧ exec (.vsub d a b m) s = bad b ∧ exec (.vmin d a b m) s = bad b) ∧
        (arith a → arith b → s.tag a ≠ s.tag b → exec (.vadd d a b m) s = bad b ∧ exec (.vmul d a b m) s = bad b) ∧
        (s.tag a ≠ s.tag b → s.tag a ≠ 0 → s.tag b ≠ 0 → exec (.vsel d a b m) s = bad b ∧ exec (.vlogXor d a b m) s = bad b) ∧
        (s.tag b ≠ 0 → s.tag b ≠ 8 → exec (.vperm d a b m) s = bad b ∧ exec (.vbcast d a b m) s = bad b ∧
          exec (.vshfA d a b m) s = bad b) ∧
        (s.tag a ≠ 1 → (∀ f, exec (.vsfn d a f m) s = bad a) ∧ exec (.vscl d a b m) s = bad a) ∧
        (s.tag a = 1 → s.tag b ≠ 8 → exec (.vscl d a b m) s = bad b) ∧
        (s.tag a = 0 ∨ 11 < s.tag a → ∀ k, exec (.vcvtRne d a k m) s = bad a ∧ exec (.vcvtSr d a k m) s = bad a) ∧
        (s.tag a ≠ 10 → exec (.vsplit d a b m) s = bad a)) ∧
      (∀ r, s.core.relax = some r → 0 < r.ahd → ∃ t, exec (.vadd d a b m) s = .next t ∧ t = { s with holding := some (8, true) } ∧
        exec (.vmov d a m) s = .next t ∧ exec (.vsel d a b m) s = .next t ∧ (∀ k, exec (.vcvtRne d a k m) s = .next t)))

/-- 05 R123, 25 R419: reductions by pairs in element order; masked elements contribute −0, −∞, +∞, or 0 and the ends of
INT32; ARGMAX adds the lowest index equal to the maximum, in lane 1, or lane 2 for FP64.

Where the rules leave a reading open it takes that of notes/assumptions/18.md. -/
def Obligations.VectorReductions : Prop :=
  ∀ (s : State) (d a : VReg) (m : VMReg) (tag : Nat), VectorFree s → Arithmetic s tag [a] →
    let n := tagCount tag
    let f := tagFmt tag
    let md := s.modes
    let on (i : Nat) : Bool := (s.vm m).getLsbD (laneOf tag i)
    let exact : Modes := { md with daz := false }
    -- INT32: sums modulo 2^32 in any order, signed maxima
    (tag = 8 →
      (∃ t, exec (.vredAdd d a m) s = .next t ∧ PutsReduced s t d 8 {
        bits := ((List.range 64).map fun i => if on i then ((s.v a).at i).toNat else 0).sum % 2 ^ 32 }) ∧
      (∃ t x, exec (.vredMax d a m) s = .next t ∧ PutsReduced s t d 8 { bits := x } ∧
        (∀ i < 64, on i = true → intOf s a i ≤ signed 32 x) ∧
        ((∃ i < 64, on i = true ∧ x = ((s.v a).at i).toNat) ∨ x = 0x80000000)) ∧
      (∃ t x, exec (.vredMin d a m) s = .next t ∧ PutsReduced s t d 8 { bits := x } ∧
        (∀ i < 64, on i = true → signed 32 x ≤ intOf s a i) ∧
        ((∃ i < 64, on i = true ∧ x = ((s.v a).at i).toNat) ∨ x = 0x7FFFFFFF))) ∧
    -- floating point: the tree of 05 R123
    (tag ≠ 8 →
      let z (i : Nat) : Nat := let x := elem (s.v a) tag i
        if md.daz = true ∧ (f.value x).isFinite = true ∧ field x f.m f.e = 0 then f.signBit (f.value x).neg? else x
      let tree (neutral : Nat) (op : Nat → Nat → FpOut) : FpOut :=
        pairTree (fun x y => withFlags (op x.bits y.bits) x y) (fun i => { bits := if on i then z i else neutral })
          (Nat.log2 n) 0
      (∃ t, exec (.vredAdd d a m) s = .next t ∧ PutsReduced s t d tag
        (tree (f.signBit true) fun x y => f.addNum md (f.value x) (f.value y))) ∧
      (∃ t, exec (.vredMax d a m) s = .next t ∧ PutsReduced s t d tag (tree (f.signBit true + f.infBits) (f.maxmin exact true))) ∧
      (∃ t, exec (.vredMin d a m) s = .next t ∧ PutsReduced s t d tag (tree f.infBits (f.maxmin exact false)))) ∧
    -- the index of the maximum
    (∃ u t x y, exec (.vredMax d a m) s = .next u ∧ exec (.vredArgmax d a m) s = .next t ∧
      (∃ r : Result, u.core.bank.inflight = s.core.bank.inflight ++ [{ r with write := .v d.val x (BitVec.allOnes 64) tag }] ∧
        t.core.bank.inflight = s.core.bank.inflight ++ [{ r with write := .v d.val y (BitVec.allOnes 64) tag }]) ∧
      elem y tag 0 = elem x tag 0 ∧
      let lane := if tag = 10 then 2 else 1
      let same (i : Nat) : Prop := if tag = 8 then elem (s.v a) 8 i = elem x 8 0
        else ((f.value (elem x tag 0)).isNan = true ∨ NumEq (valueOf s tag a i) (f.value (elem x tag 0)))
      (∀ l < 64, l ≠ lane → (tag = 10 → l ≠ 1) → 0 < l → y.at l = 0) ∧
      (∀ i < n, on i = true → same i → (∀ j < i, on j = true → ¬ same j) → (y.at lane).toNat = i) ∧
      ((∀ i < n, on i = false) → y.at lane = 0xFFFFFFFF))

/-- 25 R423: VSFN's results element by element, and the special values of the table.

Where the rules leave a reading open it takes that of notes/assumptions/17.md. -/
def Obligations.VectorFunctions : Prop :=
  (∀ (s : State) (d a : VReg) (f : BitVec 5) (m : VMReg), VectorFree s → s.tag a = 1 → f.toNat < 8 →
    ∃ t, exec (.vsfn d a f m) s = .next t ∧
      PutsElements s t d 1 8 (s.vm m) fun i => sfn (Sfn.ofCode f.toNat) s.modes (elem (s.v a) 1 i)) ∧
  (∀ (md : Modes) (x : Nat),
    let y := Fmt.fp32.valueDaz md.daz x
    let inf := 0x7F800000
    let nan := 0x7FC00000
    let minus := 2 ^ 31
    (y = .nan false → ∀ f < 8, sfn (Sfn.ofCode f) md x = { bits := nan }) ∧
    (y = .nan true → ∀ f < 8, sfn (Sfn.ofCode f) md x =
      if md.snt then { bits := nan, flags := fNV, snan := true } else { bits := nan, flags := fNV + fSNAN }) ∧
    (y = .inf false → (sfn (Sfn.ofCode 0) md x).bits = inf ∧ (sfn (Sfn.ofCode 1) md x).bits = inf ∧
      (sfn (Sfn.ofCode 2) md x).bits = 0 ∧ (sfn (Sfn.ofCode 3) md x).bits = 0 ∧ (sfn (Sfn.ofCode 4) md x).bits = 0x3F800000 ∧
      (sfn (Sfn.ofCode 5) md x).bits = 0x3F800000 ∧ (sfn (Sfn.ofCode 6) md x).bits = inf ∧ (sfn (Sfn.ofCode 7) md x).bits = inf) ∧
    (y = .inf true → (sfn (Sfn.ofCode 0) md x).bits = 0 ∧ sfn (Sfn.ofCode 1) md x = { bits := nan, flags := fNV } ∧
      (sfn (Sfn.ofCode 2) md x).bits = minus ∧ sfn (Sfn.ofCode 3) md x = { bits := nan, flags := fNV } ∧
      (sfn (Sfn.ofCode 4) md x).bits = 0xBF800000 ∧ (sfn (Sfn.ofCode 5) md x).bits = 0 ∧
      (sfn (Sfn.ofCode 6) md x).bits = minus ∧ (sfn (Sfn.ofCode 7) md x).bits = minus) ∧
    (∀ n, y.isZero = true → y.neg? = n → sfn (Sfn.ofCode 1) md x = { bits := minus + inf, flags := fDZ } ∧
      sfn (Sfn.ofCode 2) md x = { bits := (if n then minus else 0) + inf, flags := fDZ } ∧
      sfn (Sfn.ofCode 3) md x = { bits := (if n then minus else 0) + inf, flags := fDZ }) ∧
    (NumLt y (.fin false 0 0) → y.isFinite = true → sfn (Sfn.ofCode 1) md x = { bits := nan, flags := fNV } ∧
      sfn (Sfn.ofCode 3) md x = { bits := nan, flags := fNV }) ∧
    -- the reciprocal is the exact quotient rounded once
    (y.isFinite = true → y.isZero = false →
      Rounded Fmt.fp32 md.rm md.ftz false y.neg? (1 / gap 0 (realOf y)) (sfn (Sfn.ofCode 2) md x)))

/-! ### Vector conversions -/

/-- 25 R410, 05 R112, R113, R114: element i of the source becomes element i of the target; the value is rounded once by the
form's mode; integers saturate with NV; VCVT.SR takes 16 random bits an element from the word that its bundle popped.

Where the rules leave a reading open it takes that of notes/assumptions/18.md. -/
def Obligations.VectorConversions : Prop :=
  (∀ (s : State) (d a : VReg) (k : BitVec 4) (m : VMReg), VectorFree s → 1 ≤ s.tag a → s.tag a ≤ 11 →
    let src := s.tag a
    let md := s.modes
    let el (rm : Nat → Rm) (i : Nat) : FpOut :=
      if i < tagCount src then convNum md (rm i) k.toNat (convSource md src (s.v a) i) else { bits := 0 }
    (k ≠ 6 →
      (∃ t, exec (.vcvtRne d a k m) s = .next t ∧ PutsElements s t d k.toNat 3 (s.vm m) (el fun _ => .rne)) ∧
      (∃ t, exec (.vcvtRtz d a k m) s = .next t ∧ PutsElements s t d k.toNat 3 (s.vm m) (el fun _ => .rtz)) ∧
      (∃ t, exec (.vcvtMode d a k m) s = .next t ∧ PutsElements s t d k.toNat 3 (s.vm m) (el fun _ => md.rm)) ∧
      (md.sre = false → ∃ t, exec (.vcvtSr d a k m) s = .next t ∧ PutsElements s t d k.toNat 3 (s.vm m) (el fun _ => .rne)) ∧
      (md.sre = true →
        let b := s.core.bank
        let n := s.core.cur.rbqWord.getD b.rbq.next
        let u := { s with core := { s.core with
          cur := { s.core.cur with rbqWord := some n }
          bank := { b with rbq := if s.core.cur.rbqWord = none then { b.rbq with held := b.rbq.held - 1, next := n + 1 } else b.rbq } } }
        ∃ t, exec (.vcvtSr d a k m) s = .next t ∧ PutsElements u t d k.toNat 3 (s.vm m) (el fun i => .sr
          ((mix b.rbq.key (32 * n + (if s.core.cur.rank = 4 then 16 else 0) + i % 64 / 4)).toNat / 2 ^ (16 * (i % 4)) % 2 ^ 16)))) ∧
    (k = 6 → src = 6 →
      (∃ t, exec (.vcvtRne d a k m) s = .next t ∧ PutsInFlight s t (.v d.val (s.v a) (s.vm m) 6) .vec 3) ∧
      (∃ t, exec (.vcvtRtz d a k m) s = .next t ∧ PutsInFlight s t (.v d.val (s.v a) (s.vm m) 6) .vec 3) ∧
      (∃ t, exec (.vcvtMode d a k m) s = .next t ∧ PutsInFlight s t (.v d.val (s.v a) (s.vm m) 6) .vec 3))) ∧
  -- to a floating format
  (∀ (md : Modes) (rm : Rm) (k : Nat) (x : Exact), k ∈ [1, 2, 3, 4, 5, 10] →
    let f := tagFmt k
    (x.isFinite = true → realOf x ≠ 0 → Rounded f rm md.ftz md.nsat x.neg? (gap 0 (realOf x)) (convNum md rm k x)) ∧
    (x.isZero = true → convNum md rm k x = { bits := f.signBit x.neg? }) ∧
    (∀ n, k ≠ 4 → convNum md rm k (.inf n) = { bits := f.signBit n + f.infBits }) ∧
    (∀ n, convNum md rm 4 (.inf n) = { bits := if md.nsat then (if n then 0xFE else 0x7E) else 0x7F, flags := fOF + fNX }) ∧
    convNum md rm k (.nan false) = { bits := f.defaultNan } ∧
    (md.snt = false → convNum md rm k (.nan true) = { bits := f.defaultNan, flags := fNV + fSNAN }) ∧
    (md.snt = true → (convNum md rm k (.nan true)).snan = true)) ∧
  -- to an integer format
  (∀ (md : Modes) (rm : Rm) (k : Nat) (x : Exact) (z : Int), k ∈ [7, 8, 9, 11] → x.isFinite = true →
    let lo : Int := if k = 8 then -2147483648 else if k = 9 then 0 else -128
    let hi : Int := if k = 8 then 2147483647 else if k = 9 then 255 else 127
    let y := realOf x
    (match rm with
      | .rne => gap y z < 1 / 2 ∨ (gap y z = 1 / 2 ∧ z % 2 = 0)
      | .rtz => gap 0 z ≤ gap 0 y ∧ gap y z < 1 ∧ (z = 0 ∨ (z < 0 ↔ y < 0))
      | .up => y ≤ z ∧ z < y + 1
      | .down => z ≤ y ∧ y < z + 1
      | .sr _ => False) →
    (z < lo → convNum md rm k x = { bits := (lo % 2 ^ tagBits k).toNat, flags := fNV }) ∧
    (hi < z → convNum md rm k x = { bits := hi.toNat, flags := fNV }) ∧
    (lo ≤ z → z ≤ hi → convNum md rm k x = { bits := (z % 2 ^ tagBits k).toNat, flags := if (z : Rat) = y then 0 else fNX })) ∧
  (∀ (md : Modes) (rm : Rm) (k : Nat), k ∈ [7, 8, 9, 11] →
    convNum md rm k (.nan false) = { bits := 0, flags := fNV } ∧
    convNum md rm k (.inf false) = { bits := (if k = 8 then 0x7FFFFFFF else if k = 9 then 0xFF else 0x7F), flags := fNV } ∧
    convNum md rm k (.inf true) = { bits := (if k = 8 then 0x80000000 else if k = 9 then 0 else 0x80), flags := fNV })

/-- 05 R107, R108, 25 R411: E2M1 blocks of 32 values, their scale, special and codes, and where VCVT puts them.

05 R125, R126, 25 R412, R425: VSPLIT's digits sum to the element; its three registers; VJOIN's combination of the sums by
order, and the side sum that replaces it.

Where the rules leave a reading open it takes that of notes/assumptions/18.md. -/
def Obligations.VectorBlocksAndSlices : Prop :=
  (
    -- the conversion: codes in lanes 0-7, the block bytes in lane 8, zeros above
    (∀ (s : State) (d a : VReg) (m : VMReg), VectorFree s → 1 ≤ s.tag a → s.tag a ≤ 11 → s.tag a ≠ 6 →
      let xs := (List.range 64).map fun i => if i < tagCount (s.tag a) then convSource s.modes (s.tag a) (s.v a) i else .fin false 0 0
      let b0 := e2m1block s.modes (xs.take 32)
      let b1 := e2m1block s.modes (xs.drop 32)
      let puts (t : State) : Prop := ∃ x fl sn, PutsFlagged s t (.v d.val x (s.vm m) 6) 3 fl sn ∧
        (∀ i < 32, elem x 6 i = b0.codes.getD i 0 % 16 ∧ elem x 6 (32 + i) = b1.codes.getD i 0 % 16) ∧
        (x.at 8).toNat = b0.sc % 256 + 2 ^ 8 * (b0.sp % 256) + 2 ^ 16 * (b1.sc % 256) + 2 ^ 24 * (b1.sp % 256) ∧
        ∀ l < 64, 8 < l → x.at l = 0
      (∃ t, exec (.vcvtRne d a 6 m) s = .next t ∧ puts t) ∧ (∃ t, exec (.vcvtRtz d a 6 m) s = .next t ∧ puts t) ∧
      (∃ t, exec (.vcvtMode d a 6 m) s = .next t ∧ puts t)) ∧
    -- decoding
    (∀ (e2s : Bool) (c sc sp : Nat), c < 16 → sc < 256 → sp < 256 →
      (sc = 255 → e2m1value e2s c sc sp = .nan false) ∧
      (sc ≠ 255 → c ≠ 8 → realOf (e2m1value e2s c sc sp) =
        (if 8 ≤ c then -1 else 1) * ([0, 1 / 2, 1, 3 / 2, 2, 3, 4, 6] : List Rat).getD (c % 8) 0 * 2 ^ ((sc : Int) - 127)) ∧
      (sc ≠ 255 → e2m1value false 8 sc sp = .fin false 0 0) ∧
      (sc ≠ 255 → sp % 128 ≠ 127 → realOf (e2m1value true 8 sc sp) = realOf (Fmt.e4m3.value sp) * 2 ^ ((sc : Int) - 127)) ∧
      (sp % 128 = 127 → e2m1value true 8 sc sp = .nan false)) ∧
    -- coding
    (∀ (md : Modes) (xs : List Exact), xs.length = 32 →
      let b := e2m1block md xs
      let zeros := List.replicate 32 0
      ((∃ x ∈ xs, x.isFinite = false) → b.sc = 255 ∧ b.sp = 0x7F ∧ b.codes = zeros ∧ b.blockFlags.testBit 0 = true) ∧
      ((∀ x ∈ xs, x.isZero = true) → b = ⟨127, 0, zeros, zeros, 0⟩) ∧
      (∀ big ∈ xs, (∀ x ∈ xs, x.isFinite = true ∧ gap 0 (realOf x) ≤ gap 0 (realOf big)) → realOf big ≠ 0 →
        ∀ e0 : Int, (2 : Rat) ^ (e0 + 2) ≤ gap 0 (realOf big) → gap 0 (realOf big) < 2 ^ (e0 + 3) →
        (127 < e0 → md.nsat = false → b = ⟨255, 0x7F, zeros, zeros, fOF + fNX⟩) ∧
        (e0 ≤ 127 ∨ md.nsat = true →
          let e := if 127 < e0 then 127 else max e0 (-127)
          (b.sc : Int) = e + 127 ∧ b.codes.length = 32 ∧ b.blockFlags = (if 127 < e0 then fOF + fNX else 0) ∧
          ∀ i < 32, let c := b.codes.getD i 0
            let x := xs.getD i (.fin false 0 0)
            let y := realOf x / 2 ^ e
            let v (c : Nat) : Rat := realOf (e2m1value false c 127 0)
            let special := realOf (Fmt.e4m3.value b.sp)
            c < 16 ∧ (c = 8 → md.e2s = true ∧ ∀ c' < 16, gap y special < gap y (v c')) ∧
            (c ≠ 8 → ∀ c' < 16, gap y (v c) ≤ gap y (v c') ∧ (c' % 8 ≠ c % 8 → gap y (v c) = gap y (v c') → c % 2 = 0)) ∧
            (c ≠ 8 → md.e2s = true → gap y (v c) ≤ gap y special) ∧
            (b.flags.getD i 0).testBit 4 = decide (y ≠ if c = 8 then special else v c))))) ∧
  ((∀ (n : Bool) (mag : Nat) (g e : Int) (fps : Nat), (mag : Rat) * 2 ^ g < 2 ^ (e + 1) →
      let ds := slices e (.fin n mag g) fps
      ds.length = fps ∧ (∀ x ∈ ds, -127 ≤ x ∧ x ≤ 127 ∧ (n = false → 0 ≤ x) ∧ (n = true → x ≤ 0)) ∧
      gap ((mag : Rat) * 2 ^ g) (2 ^ (e + 1) * gap 0 ((ds.zipIdx.map fun d => (d.1 : Rat) * 2 ^ (-7 * ((d.2 : Int) + 1))).sum)) <
        2 ^ (e + 1 - 7 * fps)) ∧
    (∀ (s : State) (d a b : VReg) (m : VMReg), VectorFree s → s.tag a = 10 → s.tag b = 10 → s.modes.fps ≤ 9 →
      let x (j : Nat) : Exact := if (s.vm m).getLsbD (2 * (j % 32)) then
        (if j < 32 then valueOf s 10 a j else valueOf s 10 b (j - 32)) else .fin false 0 0
      let e := blockExp ((List.range 64).map x)
      ((∃ j < 64, (x j).isSnan = true) → s.modes.snt = true → exec (.vsplit d a b m) s =
        .next (s.takeTrap (own cSnan (s.core.bank.pc + (s.modes.te &&& 1) * 2 ^ 40 + s.slotCode * 2 ^ 45)))) ∧
      ((∀ j < 64, (x j).isSnan = false) ∨ s.modes.snt = false → ∃ t x0 x1 x2 fl, exec (.vsplit d a b m) s = .next t ∧
        t.core.bank.inflight = s.core.bank.inflight ++
          [{ s.result (.v d.val x0 (BitVec.allOnes 64) 11) .vec 8 with flags := fl }, s.result (.v (d.val + 1) x1 (BitVec.allOnes 64) 11) .vec 8,
            s.result (.v (d.val + 2) x2 (BitVec.allOnes 64) 11) .vec 8] ∧
        (fl = if ∃ j < 64, (x j).isSnan = true then fNV + fSNAN else 0) ∧
        let byte (i : Nat) : Nat := if i < 256 then elem x0 11 i else if i < 512 then elem x1 11 (i - 256) else elem x2 11 (i - 512)
        (∀ k < 9, ∀ j < 64, byte (64 * k + j) = (((slices e (x j) s.modes.fps).getD k 0) % 256).toNat) ∧
        (∀ k < 4, byte (576 + k) = (e / 256 ^ k % 256).toNat) ∧
        (∀ j < 64, byte (584 + j / 2) / 16 ^ (j % 2) % 16 = match x j with
          | .fin n mag _ => (if mag = 0 then 2 else 0) + (if n then 1 else 0)
          | .inf n => if n then 5 else 4
          | .nan _ => 6) ∧
        (∀ k < 768, (580 ≤ k ∧ k < 584) ∨ 616 ≤ k → byte k = 0))) ∧
    (∀ (s : State) (d a b : VReg) (m : VMReg), VectorFree s →
      let fps := s.modes.fps
      (∀ o < fps, a.val + o ≤ 31 → s.tag (a + o) = 8) → s.tag b = 11 → s.tag (b + 1) = 8 →
      (∀ q, 2 ≤ q → q ≤ 5 → s.tag (b + q) = 0 ∨ s.tag (b + q) = 11) →
      (32 ≤ a.val + fps - 1 → exec (.vjoin d a b m) s = .next (s.takeTrap (violation 16))) ∧
      (a.val + fps - 1 ≤ 31 → ∃ t f, exec (.vjoin d a b m) s = .next t ∧ PutsElements s t d 10 12 (s.vm m) f ∧
        ∀ j < 32,
          let nib (r i k : Nat) : Nat := elem (s.v r) 11 (i + k / 2) / 16 ^ (k % 2) % 16
          let p (o : Nat) : Int := ((s.v (a + o - 2)).at j).toInt
          let ex : Int := ((s.v b).at 16).toInt + ((s.v (b + 1)).at j).toInt + 2
          let A (k : Nat) : Nat := nib b 72 k
          let B (k : Nat) : Nat := nib (b + 2 + j / 8) (32 * (j % 8)) k
          let odd (k : Nat) : Prop := 4 ≤ A k ∨ 4 ≤ B k
          let invalid (k : Nat) : Prop := (A k ∈ [2, 3] ∧ B k ∈ [4, 5]) ∨ (B k ∈ [2, 3] ∧ A k ∈ [4, 5])
          let infinite (n : Bool) (k : Nat) : Prop := odd k ∧ A k ≠ 6 ∧ B k ≠ 6 ∧ ¬ invalid k ∧ decide (A k % 2 ≠ B k % 2) = n
          ((∀ k < 64, ¬ odd k) → f j = (List.range fps).foldl (fun c i =>
            let o := fps + 1 - i
            let r := Fmt.fp64.addNum plain (Fmt.fp64.value c.bits) (.fin (decide (p o < 0)) (p o).natAbs (ex - 7 * o))
            { r with flags := r.flags ||| c.flags }) { bits := 0 }) ∧
          ((∀ k < 64, A k ≤ 6 ∧ B k ≤ 6) → (∃ k < 64, odd k) →
            ((∃ k < 64, invalid k) ∨ ((∃ k < 64, infinite true k) ∧ ∃ k < 64, infinite false k) →
              f j = { bits := Fmt.fp64.defaultNan, flags := fNV }) ∧
            ((∀ k < 64, ¬ invalid k) → ∀ n, (∃ k < 64, infinite n k) → (∀ k < 64, ¬ infinite (!n) k) →
              (∀ k < 64, A k ≠ 6 ∧ B k ≠ 6) → f j = { bits := Fmt.fp64.signBit n + Fmt.fp64.infBits })))))

/-! ### System registers -/

/-- 06 R145, 22 R356, R361, 24 R395: every register's access in each mode; what MFS, MTS and SWAPS read and write; a reserved
number or value traps as ILLEGAL_INSN, a denied access as PRIVILEGE, and a supervisor's write of a read-only register is
discarded.

Where the rules leave a reading open it takes that of notes/assumptions/23.md. -/
def Obligations.SystemRegisters : Prop :=
  ∀ (s : State) (d a : GReg) (r : BitVec 12),
    let n := r.toNat
    let holds (t : State) (x : Word) (mask : Word) : Prop :=
      t.readSr n &&& mask = x &&& mask ∧
      (t.readSr n &&& ~~~mask = s.readSr n &&& ~~~mask ∨ t.readSr n &&& ~~~mask = 0 ∨ n = 0x303 ∨
        (n = 0x605 ∧ t.readSr n &&& ~~~mask = s.rqbase &&& ~~~mask)) ∧
      ∀ k, k ≠ n → t.readSr k = s.readSr k
    ((∀ e ∈ registerTable, e.1 ≠ n) → exec (.mfs d r) s = .next (s.takeTrap s.illegal) ∧
      exec (.mts a r) s = .next (s.takeTrap s.illegal) ∧ exec (.swaps d r) s = .next (s.takeTrap s.illegal)) ∧
    ∀ e ∈ registerTable, e.1 = n →
      let acc := if s.sup then e.2.2.1 else e.2.1
      let mask := writableNow s n e.2.2.2
      -- reading
      (acc = 0 → exec (.mfs d r) s = .next (s.takeTrap s.privilege)) ∧
      (0 < acc → (n = 0x012 → s.core.bank.sigBusy = false) → ∃ t, exec (.mfs d r) s = .next t ∧
        t.core.bank.inflight = s.core.bank.inflight ++ [s.result (.g d (s.readSr n)) .ctl 2] ∧
        t.readSr n = afterRead n (s.readSr n) ∧ (∀ k, k ≠ n → t.readSr k = s.readSr k) ∧
        SameRegisters t.core.bank s.core.bank ∧ SameQueues t.core.bank s.core.bank) ∧
      (n = 0x012 → s.core.bank.sigBusy = true → exec (.mfs d r) s = .next { s with holding := some (15, false) }) ∧
      -- writing
      (s.sup = false → acc < 2 → exec (.mts a r) s = .next (s.takeTrap s.privilege) ∧
        exec (.swaps d r) s = .next (s.takeTrap s.privilege)) ∧
      (s.sup = true → acc = 1 → exec (.mts a r) s = .next s) ∧
      (acc = 2 → srReserved n (s.g a) = true → exec (.mts a r) s = .next (s.takeTrap { s.illegal with cls := 6 })) ∧
      (acc = 2 → srReserved n (s.g a) = false → ∃ t, exec (.mts a r) s = .next t ∧ holds t (s.g a) mask ∧
        SameRegisters t.core.bank s.core.bank ∧ SameQueues t.core.bank s.core.bank ∧
        t.core.bank.inflight = s.core.bank.inflight) ∧
      -- exchanging
      (acc = 2 → srReserved n (s.g d) = true → exec (.swaps d r) s = .next (s.takeTrap { s.illegal with cls := 6 })) ∧
      (acc = 2 → srReserved n (s.g d) = false → ∃ t, exec (.swaps d r) s = .next t ∧ holds t (s.g d) mask ∧
        t.core.bank.inflight = s.core.bank.inflight ++ [s.result (.g d (s.readSr n)) .ctl 2]) ∧
      (s.sup = true → acc = 1 → (n = 0x012 → s.core.bank.sigBusy = false) → ∃ t, exec (.swaps d r) s = .next t ∧
        t.readSr n = afterRead n (s.readSr n) ∧
        t.core.bank.inflight = s.core.bank.inflight ++ [s.result (.g d (s.readSr n)) .ctl 2])

/-- 05 R111, 04 R82, R89, 03 R51, 20 R322, 10 R211, 12 R240, 17 R284, 19 R308: what accesses to system registers do beside
reading and writing them, and how what they begin ends.

Where the rules leave a reading open it takes that of notes/assumptions/31.md and notes/assumptions/40.md. -/
def Obligations.RegisterEffects : Prop :=
  (∀ (s : State) (core : BitVec 8), let u := s.focus core.toNat
    let c := u.core
    let n := core.toNat
    -- FMODE and SIG
    (∀ x, ∃ t, exec (.fmodeWrite core x) s = .next t ∧ t.core.bank.sigBusy = true ∧ t.core.bank.sys.sig = c.bank.sys.sig ∧
      (∀ i < 64, t.core.bank.sys.fmode.getLsbD i =
        if (0x1F0FFF : Word).getLsbD i then x.getLsbD i else c.bank.sys.fmode.getLsbD i) ∧
      t.calendar.any (fun e => e.event = .sigReady core (BitVec.ofNat 1 c.bank.id)) = true) ∧
    (∀ bank : BitVec 1, let b := c.bankOf bank.toNat
      (s.calendar.any (fun e => e.event = .sigReady core bank) = false → c.bank.id ≠ c.other.id → ∃ t,
        exec (.sigReady core bank) s = .next t ∧ (b.id = bank.toNat → (t.core.bankOf bank.toNat).sigBusy = false ∧
        (t.core.bankOf bank.toNat).sys.sig = BitVec.ofNat 64 (ofBytesLe ((sha256 (
          (List.range 8).map (fun k => b.sys.fmode.toNat / 256 ^ k % 256) ++
          sha256 ((List.range (c.task.getD {}).imlen).map fun k => (s.hbm.byte ((c.task.getD {}).image + k)).toNat) ++
          (List.range 8).map (fun k => b.sys.lseed.toNat / 256 ^ k % 256) ++
          (List.range 6).map fun k => (c.task.getD {}).fw.getD k 0)).take 8)))) ∧
      (s.calendar.any (fun e => e.event = .sigReady core bank) = true → exec (.sigReady core bank) s = .next u)) ∧
    -- WSCTL: the change waits for the copies before it
    (∀ x, ∃ t, exec (.wsctlWrite core x) s = .next t ∧ t.wen = s.wen ∧ t.wenNext = s.wenNext ++ [{ die := c.id / 64, core := c.id, wen := x.getLsbD 0, at' := s.now }]) ∧
    -- SCINV
    (∃ t, exec (.scinvAll core) s = .next t ∧ t.core.bank.descs = [] ∧ t.core.bank.spans = [] ∧ t.core.other.descs = [] ∧
      t.core.other.spans = [] ∧ t.core.bank.windows = c.bank.windows ∧ t.core.scinv = true) ∧
    (∀ tid, ∃ t, exec (.scinvTid core tid) s = .next t ∧ t.core.scinv = true ∧ t.core.bank.windows = c.bank.windows ∧
      (∀ e, e ∈ t.core.bank.descs ↔ e ∈ c.bank.descs ∧ e.1 ≠ tid.toNat) ∧
      (∀ e, e ∈ t.core.bank.spans ↔ e ∈ c.bank.spans ∧ e.tid ≠ tid.toNat)) ∧
    (∃ t, exec (.scinvComplete core) s = .next t ∧
      ((t.coreOf n).scinv = (s.coreOf n).scinv && s.calendar.any fun e => e.event = .scinvComplete core)) ∧
    -- reads with effects
    (∃ t, exec (.sstatRead core) s = .next t ∧ t = { u with core := { c with bank := { c.bank with sys := { c.bank.sys with sstat := 0 } } } }) ∧
    (∃ t, exec (.clkdRead core) s = .next t ∧ t = { u with core := { c with fl := false } }) ∧
    (∃ t, exec (.slctlRead core) s = .next t ∧ t = u) ∧
    (∀ k : BitVec 2, ∃ t, exec (.tidemarkRead core k) s = .next t ∧ t.core.bank = c.bank ∧ t.core.chans = c.chans ∧
      (∀ id ta p, (c.chan k.toNat).past.head? = some (id, ta, p) → p.at' ≤ ta → ta ≤ s.now → Polls c t.core s.now ta p) ∧
      ((c.chan k.toNat).past = [] → t = u)) ∧
    (∀ k : BitVec 2, ∃ t, exec (.wptrRead core k) s = .next t ∧ t.core.bank = c.bank ∧ t.core.chans = c.chans ∧
      (∀ x, (c.chan k.toNat).queue.head? = some x → 0 < x.written → x.path.at' ≤ s.now → Polls c t.core s.now s.now x.path) ∧
      (∀ x, (c.chan k.toNat).queue.head? = some x → x.written = 0 → t = u))) ∧
  (∀ (s : State) (die : BitVec 2), let d := die.toNat
    ((∃ x ∈ s.cores, x.id / 64 = d ∧ ∃ ch ∈ x.chans, ∃ y ∈ ch.2.queue, y.src.desc.loc = 3 ∨ y.dst.desc.loc = 3) →
      (∃ w ∈ s.wenNext, w.die = d) → ∃ t, exec (.wenChange die) s = .next t ∧ t.wen = s.wen ∧ t.wenNext = s.wenNext ∧
        t.calendar.any (fun e => e.event = .wenChange die) = true) ∧
    -- of two writers the later's value stands, in one cycle the higher core's
    ((∀ x ∈ s.cores, x.id / 64 = d → x.usesStore = false) → (∀ w ∈ s.wenNext, w.core < 256) →
      ∀ w ∈ s.wenNext, w.die = d →
        (∀ v ∈ s.wenNext, v.die = d → v ≠ w → v.at' < w.at' ∨ (v.at' = w.at' ∧ v.core < w.core)) → ∃ t,
        exec (.wenChange die) s = .next t ∧ SMap.get false t.wen d = w.wen ∧ (∀ w ∈ t.wenNext, w.die ≠ d) ∧
        ∀ e, e ≠ d → SMap.get false t.wen e = SMap.get false s.wen e)) ∧
  (∀ (s : State) (x : Word),
    (∃ t k, exec (.rqbaseWrite x) s = .next t ∧ t = { s with rqbase := t.rqbase, rqOld := t.rqOld, lates := t.lates } ∧
      -- the other cores see the old value for at most 64 cycles
      k ≤ 64 ∧ t.rqOld = some (s.rqbase, s.core.id, s.now + k) ∧ ∀ i < 64, t.rqbase.getLsbD i =
      if i = 0 ∨ (s.rqbase.getLsbD 0 = false ∧ 26 ≤ i ∧ i < 40) then x.getLsbD i else s.rqbase.getLsbD i) ∧
    (∃ t, exec (.ptbaseWrite x) s = .next t ∧ t = { s with ptbase := t.ptbase, ports := [] } ∧ ∀ i < 64, t.ptbase.getLsbD i =
      if i = 0 ∨ (12 ≤ i ∧ i < 40) then x.getLsbD i else s.ptbase.getLsbD i))

/-! ### Holds before the next bundle -/

/-- 06 R142, 10 R206, 19 R307, 25 R396, R403, 12 R222: WAIT, the DRAINs, CLKDIV, TEND and BAR.WAIT commit and hold the next bundle; so
does BAR with its arrival, and BAR.ARR arrives without a hold; the traps of WAIT, CLKDIV, TEND and TRIG; how the holds of WAIT,
DRAIN and CLKDIV end, and an arrival's release; TRIG; the watchdog's trap and the governor's counts.

Where the rules leave a reading open it takes that of notes/assumptions/10.md and notes/assumptions/11.md. -/
def Obligations.HoldsAndReleases : Prop :=
  (∀ (s : State) (l st c k : BitVec 4),
    let b := s.core.bank
    let stuck := (b.laq.filter fun x => !x.reserved).length - b.freeLdq
    (l = 15 ∨ stuck ≤ l.toNat → ∃ t, exec (.wait l st c k) s = .next t ∧
      PutsHold s t (.wait l.toNat st.toNat c.toNat k.toNat)) ∧
    (l ≠ 15 → l.toNat < stuck → exec (.wait l st c k) s = .next (s.takeTrap (own cDeadWait 1)))) ∧
  (∀ (s : State) (c : BitVec 2), (∃ t, exec (.drainRel c) s = .next t ∧ PutsHold s t (.drain 1 c.toNat)) ∧
    (∃ t, exec (.drainAcq c) s = .next t ∧ PutsHold s t (.drain 2 c.toNat)) ∧
    (∃ t, exec (.drainFull c) s = .next t ∧ PutsHold s t (.drain 3 c.toNat))) ∧
  (∀ (s : State) (a : GReg), let x := (s.g a).toNat
    (x < 2 ^ 16 → (∀ k < 4, x / 16 ^ k % 16 ≤ 8) → ∃ t, exec (.clkdiv a) s = .next t ∧ PutsHold s t (.clkdiv x)) ∧
    (2 ^ 16 ≤ x → exec (.clkdiv a) s = .next (s.takeTrap (violation 10))) ∧
    (x < 2 ^ 16 → (∃ k < 4, 8 < x / 16 ^ k % 16) → exec (.clkdiv a) s = .next (s.takeTrap (violation 14)))) ∧
  (∀ (s : State), (s.sup = false → (∃ t, exec .tend s = .next t ∧ t = { s with core := { s.core with
        bank := { s.core.bank with after := some (.tend, s.core.seq) }
        cur := { s.core.cur with npc := s.core.bank.pc, taken := false } } }) ∧
      (s.core.bank.trig = false → ∃ t, exec .trig s = .next t ∧ t = { s with core := { s.core with bank := { s.core.bank with
        trig := true, trigAt := some s.core.seq } } }) ∧
      (s.core.bank.trig = true → exec .trig s = .next s)) ∧
    (s.sup = true → exec .tend s = .next (s.takeTrap (violation 15)) ∧ exec .trig s = .next (s.takeTrap (violation 15)))) ∧
  -- the barrier's forms, and the release of an arrival
  (∀ (s : State) (d a b : GReg), let k := (s.g a).toNat
    (k < 16 → MayArrive s k (s.g b).toNat → (∃ t, exec (.barArr d a b) s = .next t ∧ Arrives s t k (s.g b).toNat) ∧
      ∃ t, exec (.bar a b) s = .next t ∧ Arrives s t k (s.g b).toNat ∧ t.core.bank.after = some (.bar k, s.core.seq)) ∧
    (k < 16 → s.core.bank.arrival k ≠ none → ∃ t, exec (.barWait a) s = .next t ∧ PutsHold s t (.bar k))) ∧
  (∀ (s : State) (core : BitVec 8) (launch gen : BitVec 64) (k : BitVec 4), let c := s.coreOf core.toNat
    ∃ t, exec (.barrierRelease core launch k gen) s = .next t ∧
      ((c.task.map Task.launch).getD 0 = launch.toNat →
        (∃ z ∈ c.bank.arrived, z.barrier = k.toNat ∧ z.gen = gen.toNat ∧ z.released = false) →
        ∀ y ∈ (t.coreOf core.toNat).bank.arrived, y.barrier = k.toNat → y.released = true)) ∧
  -- the releases
  (∀ (s : State) (core : BitVec 8), let u := s.focus core.toNat
    let b := u.core.bank
    (∀ l st c k q, b.after = some (.wait l st c k, q) →
      let met (bound n : Nat) : Prop := bound = 15 ∨ n ≤ bound
      (met l b.loads ∧ met st b.stores ∧ met c b.copies ∧ met k b.tiles → ∃ t, exec (.waitRelease core) s = .next t ∧
        t.core.bank = { b with after := none } ∧ t.core.id = u.core.id) ∧
      (¬ (met l b.loads ∧ met st b.stores ∧ met c b.copies ∧ met k b.tiles) → exec (.waitRelease core) s = .next u)) ∧
    (∀ v scope q, b.after = some (.drain v scope, q) →
      let stores := v = 2 ∨ u.core.storesBefore scope q = false
      let loads := v = 1 ∨ u.core.loadsBefore q = false
      (stores ∧ loads → ∃ t, exec (.drainRelease core) s = .next t ∧ t.core.bank = { b with after := none }) ∧
      (¬ (stores ∧ loads) → exec (.drainRelease core) s = .next u)) ∧
    (∀ q, b.after = some (.acq, q) → (u.core.loadsBefore q = false → ∃ t, exec (.drainRelease core) s = .next t ∧
      t.core.bank = { b with after := none }) ∧ (u.core.loadsBefore q = true → exec (.drainRelease core) s = .next u))) ∧
  (∀ (s : State) (core : BitVec 8) (x : BitVec 16), let c := s.coreOf core.toNat
    ∃ t, exec (.clkdivApply core x) s = .next t ∧
      let d := t.coreOf core.toNat
      let pick (k old : Nat) : Nat := if x.toNat / 16 ^ k % 16 = 0 then old else x.toNat / 16 ^ k % 16
      d.divs = (pick 0 c.divs.1, pick 1 c.divs.2.1, pick 2 c.divs.2.2.1, pick 3 c.divs.2.2.2) ∧
      (d.fl = true ↔ c.fl = true ∨ d.divs.1 < s.cryo.floor ∨ d.divs.2.1 < s.cryo.floor ∨ d.divs.2.2.1 < s.cryo.floor ∨
        d.divs.2.2.2 < s.cryo.floor) ∧
      d.bank.after = c.bank.after.filter (fun a => match a.1 with | .clkdiv _ => false | _ => true) ∧
      d.ctl.per = d.divs.1 * d.stretch ∧ d.mat.per = d.divs.2.1 * d.stretch ∧ d.vec.per = d.divs.2.2.1 * d.stretch ∧
      d.cpy.per = d.divs.2.2.2 * d.stretch) ∧
  -- the watchdog and the governor
  (∀ (s : State) (core : BitVec 8), ∃ t q, exec (.watchdogExpiry core) s = .next t ∧ t.raised = some q ∧ q.cause = 0x09 ∧
    q.tval = BitVec.ofNat 64 (s.focus core.toNat).core.cause) ∧
  (∀ (s : State) (core : BitVec 8), let u := s.focus core.toNat
    Alone u → (∀ b, u.core.bank.after ≠ some b) → exec (.watchdogExpiry core) s =
      .next (({ u with core := { u.core with frozen := 0 } }).takeTrap (own cWatchdog u.core.cause))) ∧
  (∀ (s : State) (core : BitVec 8), (s.cores.map Core.id).Nodup → ∃ t, exec (.governorCycle core) s = .next t ∧ ∀ n,
    let hit := ∃ c ∈ s.members (s.coreOf core.toNat), c.id = n
    (hit → (t.coreOf n).frzc = (s.coreOf n).frzc + 1 ∧ (t.coreOf n).gov = (s.coreOf n).gov + 1) ∧
    (¬ hit → t.coreOf n = s.coreOf n))

/-- 12 R222, R223: an arrival at a barrier, the last of which releases its generation; BAR.WAIT; their traps; the release as
it reaches a core.

12 R225, R226, 23 R366, R367: a push and a pop are queued as accesses of the queue's pages; a push performs when what it
releases has performed, there is room and its turn has come, and waits otherwise; a pop takes the oldest entry, entry POPPED
modulo the queue's size, or waits; those that wait at a queue's port come to their turns in the order of their arrival; a reply
that has waited 2^20 cycles is late.

Where the rules leave a reading open it takes that of notes/assumptions/11.md and notes/assumptions/26.md. -/
def Obligations.BarriersAndQueues : Prop :=
  ((∀ (s : State) (d a b : GReg),
      let k := (s.g a).toNat
      let n := (s.g b).toNat
      (k < 16 → MayArrive s k n →
        (∃ t, exec (.barArr d a b) s = .next t ∧ Arrives s t k n ∧ t.core.bank.inflight = s.core.bank.inflight ++
          [s.result (.g d (BitVec.ofNat 64 (s.barrier s.launchId k).gen)) .ctl 1] ∧ t.core.bank.after = s.core.bank.after) ∧
        (∃ t, exec (.bar a b) s = .next t ∧ Arrives s t k n ∧ t.core.bank.inflight = s.core.bank.inflight ∧
          t.core.bank.after = some (.bar k, s.core.seq))) ∧
      (s.core.storesBefore 2 s.core.seq = true → exec (.barArr d a b) s = .next { s with holding := some (12, false) } ∧
        exec (.bar a b) s = .next { s with holding := some (12, false) }) ∧
      (∀ y, s.core.storesBefore 2 s.core.seq = false → s.core.bank.arrival (k % 16) = some y → y.released = false →
        exec (.barArr d a b) s = .next { s with holding := some (9, false) } ∧
        exec (.bar a b) s = .next { s with holding := some (9, false) }) ∧
      (s.core.storesBefore 2 s.core.seq = false → (∀ y, s.core.bank.arrival (k % 16) = some y → y.released = true) →
        ∀ i, i = .bar a b ∨ i = .barArr d a b →
          (16 ≤ k → exec i s = .next (s.takeTrap (violation 10))) ∧
          (k < 16 → (s.barrier s.launchId k).arrivals ≠ [] → (s.barrier s.launchId k).n ≠ n →
            exec i s = .next (s.takeTrap (violation 10))) ∧
          (k < 16 → (s.barrier s.launchId k).arrivals = [] ∨ (s.barrier s.launchId k).n = n →
            (n = 0 ∨ (s.core.task.map Task.ntask).getD 1 < n → exec i s = .next (s.takeTrap (own cDeadWait 0x10))) ∧
            (1 ≤ n → n ≤ (s.core.task.map Task.ntask).getD 1 → s.det = true → n ≠ (s.core.task.map Task.ntask).getD 1 →
              exec i s = .next (s.takeTrap (raceTrap 0 3 0))))) ∧
      -- BAR.WAIT
      (k < 16 → s.core.bank.arrival k ≠ none → ∃ t, exec (.barWait a) s = .next t ∧ PutsHold s t (.bar k)) ∧
      (k < 16 → s.core.bank.arrival k = none → exec (.barWait a) s = .next (s.takeTrap (own cDeadWait 0x11))) ∧
      (16 ≤ k → exec (.barWait a) s = .next (s.takeTrap (violation 10)))) ∧
    (∀ (s : State) (core : BitVec 8) (launch gen : BitVec 64) (k : BitVec 4),
      let c := s.coreOf core.toNat
      ∃ t, exec (.barrierRelease core launch k gen) s = .next t ∧
        let d := t.coreOf core.toNat
        (((c.task.map Task.launch).getD 0 = launch.toNat → ∀ y ∈ d.bank.arrived, y.barrier = k.toNat →
            (∃ z ∈ c.bank.arrived, z.barrier = k.toNat ∧ z.gen = gen.toNat ∧ z.released = false) → y.released = true) ∧
          ((c.task.map Task.launch).getD 0 = launch.toNat →
            (∃ z ∈ c.bank.arrived, z.barrier = k.toNat ∧ z.gen = gen.toNat ∧ z.released = false) →
            d.bank.phase = (c.bank.phase + 1) % 2 ^ 32) ∧
          ((c.task.map Task.launch).getD 0 = launch.toNat →
            (∀ z ∈ c.bank.arrived, ¬ (z.barrier = k.toNat ∧ z.gen = gen.toNat ∧ z.released = false)) → d.bank = c.bank) ∧
          ((c.task.map Task.launch).getD 0 ≠ launch.toNat → t = s)))) ∧
  ((∀ (s u : State) (a : GReg) (b : BitVec 6) (d : Desc) (p : Placed), s.core.bank.stores < 31 →
      QueuePasses s a d false 16 p u → ∃ t x, exec (.qpush a b) s = .next t ∧
        t.core.bank.stq = u.core.bank.stq ++ [x] ∧ x.seq = u.core.accSeq ∧ x.kind = .qpush ∧ x.tid = (s.g a).toNat ∧ x.desc = d ∧ x.data = u.v b.toNat ∧
        x.elems = p.elts ∧ x.issue = u.core.seq ∧ t.core.bank.stores = u.core.bank.stores + 1 ∧ SameRegisters t.core.bank u.core.bank ∧
        SameOuterMemory u t) ∧
    (∀ (s u : State) (a : GReg) (d : Desc) (p : Placed), s.core.bank.loads < 63 →
      QueuePasses s a d true 20 p u → ∃ t x, exec (.qpop a) s = .next t ∧
        t.core.bank.laq.getLast? = some x ∧ x.seq = u.core.accSeq ∧ x.kind = .qpop ∧ x.tid = (s.g a).toNat ∧ x.desc = d ∧ x.reply = none ∧
        (RepliesOutstanding s.core.bank → t.core.bank.loads = u.core.bank.loads + 1) ∧ SameRegisters t.core.bank u.core.bank ∧ SameOuterMemory u t) ∧
    -- the first user of each end in deterministic mode; otherwise nothing is bound
    (∀ (s : State) (tid : Nat) (d : Desc) (off : Nat), (s.det = false → s.queueBind tid d off = .ok s) ∧
      (s.det = true → s.queueRead tid d off 4 ≠ 0 → s.queueRead tid d off 4 ≠ s.core.bank.sys.taskix.toNat + 1 →
        s.queueBind tid d off = .error (.trap (raceTrap tid 4 0)))) ∧
    (∀ (s : State) (core : BitVec 8) (bank : BitVec 1) (seq : BitVec 48) (x : Access) (addr size pushed popped : Nat),
      let u := s.focus core.toNat
      let b := u.core.bankOf bank.toNat
      b.stq.find? (fun y => y.seq = seq.toNat) = some x → x.held = false → x.known = true →
      QueueAt u x addr size pushed popped →
      let me : QueueWait := { addr := addr, push := true, core := core.toNat, bank := bank.toNat, seq := x.seq }
      (u.core.storesBefore 2 x.issue = true → ∃ t, exec (.queuePushPerform core bank seq) s = .next t ∧
        t.hbm = s.hbm ∧ t.calendar.any (fun e => e.event = .queuePushPerform core bank seq) = true) ∧
      (u.core.storesBefore 2 x.issue = false → (size ≤ (pushed + 2 ^ 64 - popped) % 2 ^ 64 ∨ PortBusy s me) →
        ∃ t, exec (.queuePushPerform core bank seq) s = .next t ∧ t.hbm = s.hbm ∧ PortHolds s t me) ∧
      (u.core.storesBefore 2 x.issue = false → (pushed + 2 ^ 64 - popped) % 2 ^ 64 < size → ¬ PortBusy s me →
        ∃ t, exec (.queuePushPerform core bank seq) s = .next t ∧
          t.hbm = ((u.queueWrite x.tid x.desc (64 + 256 * (pushed % size))
            ((List.range 64).foldl (fun acc k => acc + (x.data.at k).toNat * 2 ^ (32 * k)) 0) 256).queueWrite x.tid x.desc 0
              ((pushed + 1) % 2 ^ 64) 8).hbm ∧
          (∀ y ∈ ((t.coreOf core.toNat).bankOf bank.toNat).stq, y.seq ≠ x.seq) ∧
          (∀ w ∈ t.queueWaits, ¬ (w.core = me.core ∧ w.bank = me.bank ∧ w.seq = me.seq)) ∧
          PortWakes s t me false ∧ PortWakes s t me true)) ∧
    (∀ (s : State) (core : BitVec 8) (bank : BitVec 1) (seq : BitVec 48) (x : Access) (addr size pushed popped : Nat),
      let u := s.focus core.toNat
      let b := u.core.bankOf bank.toNat
      b.laq.find? (fun y => y.seq = seq.toNat) = some x → x.held = false → x.known = true → x.reply = none →
      QueueAt u x addr size pushed popped →
      let me : QueueWait := { addr := addr, push := false, core := core.toNat, bank := bank.toNat, seq := x.seq }
      (pushed = popped ∨ PortBusy s me → ∃ t, exec (.queuePopServe core bank seq) s = .next t ∧ t.hbm = s.hbm ∧ PortHolds s t me ∧
        ∃ e ∈ t.calendar, e.event = .qpopReplyTimeout core bank seq ∧
          ((∀ f ∈ s.calendar, f.event ≠ .qpopReplyTimeout core bank seq) → e.at' = s.now + 2 ^ 20)) ∧
      (pushed ≠ popped → ¬ PortBusy s me → ∃ t v, exec (.queuePopServe core bank seq) s = .next t ∧
        t.hbm = (u.queueWrite x.tid x.desc 8 ((popped + 1) % 2 ^ 64) 8).hbm ∧ Replied t core.toNat bank.toNat x.seq v ∧
        (∀ k < 64, v.at k = BitVec.ofNat 32 (u.queueRead x.tid x.desc (64 + 256 * (popped % size)) 256 / 2 ^ (32 * k))) ∧
        (∀ w ∈ t.queueWaits, ¬ (w.core = me.core ∧ w.bank = me.bank ∧ w.seq = me.seq)) ∧
        PortWakes s t me true ∧ PortWakes s t me false)) ∧
    (∀ (s : State) (core : BitVec 8) (bank : BitVec 1) (seq : BitVec 48), ∃ t, exec (.qpopReplyTimeout core bank seq) s = .next t ∧
      (t.coreOf core.toNat).bankOf bank.toNat = { (s.coreOf core.toNat).bankOf bank.toNat with
        laq := ((s.coreOf core.toNat).bankOf bank.toNat).laq.map fun y =>
          if y.seq = seq.toNat ∧ y.reply = none then { y with late := true } else y }))

/-! ### Reads that a bundle waits for -/

/-- 04 R75, R77, 12 R230-R232, 13 R244, 17 R290, 05 R115: descriptors, stamps, parameter blocks, draft trees and random words
as they come.

Where the rules leave a reading open it takes that of notes/assumptions/7.md and notes/assumptions/30.md. -/
def Obligations.HardwareReads : Prop :=
  (∀ (s : State) (core : BitVec 8) (tid : BitVec 32),
    let u := s.focus core.toNat
    let r := u.core.bank.sys
    let base := field r.ttbase.toNat 6 34 * 64
    let x := s.hbm.read (base + 64 * tid.toNat) 64
    let d := parseDesc x
    let aux := if d.tag = 6 ∧ d.aux < field r.ttbase.toNat 44 20 then some (parseDesc (s.hbm.read (base + 64 * d.aux) 64)) else none
    base + 64 * tid.toNat + 64 ≤ hbmSize → (aux ≠ none → base + 64 * d.aux + 64 ≤ hbmSize) →
    (descOk x aux = true → ∃ t, exec (.descriptorRead core tid) s = .next t ∧
      t.core.bank.descOf tid.toNat = some d ∧ (∀ k, k ≠ tid.toNat → t.core.bank.descOf k = u.core.bank.descOf k) ∧
      t.core.fetched = u.core.fetched ∧ t.hbm = s.hbm) ∧
    (descOk x aux = false → ∃ t, exec (.descriptorRead core tid) s = .next t ∧ Answered u t 1 tid.toNat d.tag ∧ t.stamps = s.stamps)) ∧
  (∀ (s : State) (core : BitVec 8) (kind die : BitVec 2) (block : BitVec 32),
    let u := s.focus core.toNat
    let me := u.core.bank.sys.taskix.toNat
    let addr := block.toNat * 4 + kind.toNat
    kind.toNat < 3 →
    (∀ x, LiveStamp u die.toNat block.toNat x → x.mode ≤ 5 → 0 < x.mode → (∀ y, LiveStamp u die.toNat block.toNat y → y = x) →
      (nextMode x.mode (x.task = me) kind.toNat = none → ∃ t, exec (.raceCheckAnswer core kind die block) s = .next t ∧
        Answered u t 4 addr (x.task + 1) ∧ t.stamps = s.stamps) ∧
      (∀ m, nextMode x.mode (x.task = me) kind.toNat = some m → ∃ t, exec (.raceCheckAnswer core kind die block) s = .next t ∧
        Answered u t 4 addr 0 ∧ t.stamps = s.stamps.map fun y => if y = x then { x with mode := m } else y)) ∧
    ((∀ x, ¬ LiveStamp u die.toNat block.toNat x) →
      ((s.stamps.filter fun x => x.die = die.toNat ∧ x.block % 16384 = block.toNat % 16384 ∧ x.block ≠ block.toNat ∧
          x.launch = u.launchId ∧ x.phase = u.core.bank.phase).length < 16 →
        ∃ t, exec (.raceCheckAnswer core kind die block) s = .next t ∧ Answered u t 4 addr 0 ∧
          t.stamps.head? = some { die := die.toNat, block := block.toNat, launch := u.launchId, phase := u.core.bank.phase
                                  mode := if kind = 0 then 1 else if kind = 1 then 3 else 4, task := me } ∧
          (∀ x ∈ s.stamps, x.launch = u.launchId → x.phase = u.core.bank.phase → x ∈ t.stamps)) ∧
      -- with a live stamp in every way of the set the answer waits
      (16 ≤ (s.stamps.filter fun x => x.die = die.toNat ∧ x.block % 16384 = block.toNat % 16384 ∧ x.block ≠ block.toNat ∧
          x.launch = u.launchId ∧ x.phase = u.core.bank.phase).length →
        ∃ t, exec (.raceCheckAnswer core kind die block) s = .next t ∧ t.core = u.core ∧ t.stamps = s.stamps ∧
          t.calendar.any (fun e => e.event = .raceCheckAnswer core kind die block) = true))) ∧
  (∀ (s : State) (core : BitVec 8) (tid : BitVec 32) (c : BitVec 24) (d : Desc),
    let u := s.focus core.toNat
    let n := min 4096 (d.ext0 - c.toNat)
    let place (k : Nat) : Option Loc := match u.place true tid.toNat d (d.boff + c.toNat + k) with
      | .at l => some l
      | _ => none
    u.core.bank.descOf tid.toNat = some d → u.core.unperformed = [] → ∃ t x,
      exec (.parameterBlockRead core tid c) s = .next t ∧ Answered u t 2 (tid.toNat * 2 ^ 24 + c.toNat) x ∧ t.stamps = s.stamps ∧
      ∀ k < n, x / 256 ^ k % 256 = match place k with
        | some l => (u.byteAt core.toNat 0 l).toNat
        | none => 0) ∧
  (∀ (s : State) (core : BitVec 8) (a : BitVec 64), let u := s.focus core.toNat
    (u.core.storesTo a.toNat 512 = false → a.toNat + 512 ≤ hbmSize → ∃ t, exec (.draftTreeRead core a) s = .next t ∧
      Answered u t 3 a.toNat (s.hbm.read a.toNat 512) ∧ t.stamps = s.stamps) ∧
    (u.core.storesTo a.toNat 512 = true → ∃ t, exec (.draftTreeRead core a) s = .next t ∧ t.core = u.core ∧
      t.calendar.any (fun e => e.event = .draftTreeRead core a) = true)) ∧
  (∀ (s : State) (core : BitVec 8), let u := s.focus core.toNat
    ∃ t, exec (.rbqWordAdded core) s = .next t ∧ t = { u with core := { u.core with bank := { u.core.bank with
      rbq := { u.core.bank.rbq with held := min 8 (u.core.bank.rbq.held + 1) } } } })

/-- 15 R264, R269-R272, R278, 22 R351: an access behind its translation, the retry ring, FILLQ, and the parts that a lazy
restore owes.  The first entry of a ring all of whose entries are DONE raises PAGE_FAULT; a later one only joins it.

Where the rules leave a reading open it takes that of notes/assumptions/27.md and notes/assumptions/28.md. -/
def Obligations.RetriedAccesses : Prop :=
  (∀ (s : State) (core : BitVec 8) (bank : BitVec 1) (seq : BitVec 48) (x : Access),
    let u := s.focus core.toNat
    let i := bank.toNat
    seq ≠ 0 → u.core.queued i seq.toNat = some x → x.known = false →
    (∀ e ∈ (u.core.bankOf i).ring, e.seq ≠ x.seq) → (∀ y ∈ (u.core.bankOf i).laq ++ (u.core.bankOf i).stq, y.seq = seq.toNat → y = x) →
    let r := u.translate x
    -- every element resident
    (r.2.2.2 = false → r.2.1 = none → ∃ t y, exec (.spanEntryFetch core bank seq) s = .next t ∧
      t.core.queued i seq.toNat = some y ∧ y = { x with elems := r.1 } ∧ t.hbm = s.hbm) ∧
    -- one is not: the entry at TAIL, this access and the later ones held, the first fault raised
    (r.2.2.2 = false → ∀ e, r.2.1 = some e → ∃ t y, exec (.spanEntryFetch core bank seq) s = .next t ∧
      t.core.queued i seq.toNat = some y ∧ y = { x with elems := r.1, held := true } ∧
      (∀ z ∈ (t.core.bankOf i).laq ++ (t.core.bankOf i).stq, x.seq ≤ z.seq → z.held = true) ∧
      (let b := u.core.bankOf i
       let tail := field b.sys.retryh.toNat 8 7
       (t.core.bankOf i).ring = b.ring ++ [{ idx := tail, seq := x.seq, store := decide (ringKind x.kind ≠ 1 ∧ ringKind x.kind ≠ 4) }] ∧
       field (t.core.bankOf i).sys.retryh.toNat 8 7 = (tail + 1) % 128 ∧
       t.hbm.read (b.area + 64 * tail + 8) 8 = x.bundle % 2 ^ 64 ∧ t.hbm.read (b.area + 64 * tail + 16) 16 = x.areg.toNat ∧
       ((∀ e ∈ b.ring, e.done = true) → ∃ q, (t.core.bankOf i).pending = b.pending ++ [q] ∧ q.cause = 0x0A ∧ q.ring = true ∧
         q.tval.toNat = (u.core.bank.area + 0x2000) % 2 ^ 64) ∧
       ((∃ e ∈ b.ring, e.done = false) → (t.core.bankOf i).pending = b.pending))) ∧
    -- the host refused the page
    (r.2.2.2 = true → ∃ t q, exec (.spanEntryFetch core bank seq) s = .next t ∧
      (t.core.bankOf i).pending = (u.core.bankOf i).pending ++ [q] ∧ q.cause = 0x0B ∧ q.tval.toNat = (x.tid + 12 * 2 ^ 32) % 2 ^ 64)) ∧
  (∀ (s : State) (a b : GReg),
    let x := (s.g a).toNat
    let y := (s.g b).toNat
    let i := s.core.other.id
    (s.sup = false → exec (.fillq a b) s = .next (s.takeTrap s.privilege)) ∧
    (s.sup = true → (2 ^ 9 ≤ x ∨ 128 ≤ x % 256 ∨ (256 ≤ x ∧ y % 256 ≠ 0)) →
      exec (.fillq a b) s = .next (s.takeTrap (violation 13))) ∧
    (s.sup = true → x < 2 ^ 9 → x % 256 < 128 → (256 ≤ x → y % 256 = 0) → s.core.bank.id ≠ i →
      -- no waiting entry
      ((∀ r ∈ s.core.other.ring, r.idx = x % 128 → r.done = true) → exec (.fillq a b) s = .next s) ∧
      (∀ r q, s.core.other.ring.find? (fun r => r.idx = x % 128 ∧ r.done = false) = some r → s.core.queued i r.seq = some q →
        -- supplied from the scratchpad
        (256 ≤ x → (ringKind q.kind = 1 ∨ ringKind q.kind = 4) → ∃ t, exec (.fillq a b) s = .next t ∧
          (∀ z ∈ t.core.other.ring, z.idx = r.idx → z.done = true) ∧ t.core.spad = s.core.spad) ∧
        (256 ≤ x → ringKind q.kind ≠ 1 → ringKind q.kind ≠ 4 → exec (.fillq a b) s = .next (s.takeTrap (protection q.tid 11))) ∧
        -- performed anew
        (x < 256 → s.core.fetchedOf 5 0 ≠ none → (s.translate q).2.2.2 = false → (s.translate q).2.1 = none →
          ∃ t, exec (.fillq a b) s = .next t ∧ (∀ z ∈ t.core.other.ring, z.idx = r.idx → z.done = true)) ∧
        (x < 256 → s.core.fetchedOf 5 0 ≠ none → (s.translate q).2.2.2 = false → ∀ e, (s.translate q).2.1 = some e →
          ∃ t p, exec (.fillq a b) s = .next t ∧ t.raised = some p ∧ p.cause = 0x0A ∧ p.ring = true) ∧
        (x < 256 → s.core.fetchedOf 5 0 ≠ none → (s.translate q).2.2.2 = true →
          exec (.fillq a b) s = .next (s.takeTrap (protection q.tid 12)))))) ∧
  (∀ (s : State) (core : BitVec 8) (part : BitVec 16), let c := s.coreOf core.toNat
    ∃ t, exec (.registerMiss core part) s = .next t ∧
      let d := t.coreOf core.toNat
      let met (b e : Bank) : Prop := (∀ p, p ∈ e.absent ↔ p ∈ b.absent ∧ p.code ≠ part.toNat) ∧
        (Owed b part.toNat → e.sys.missc = b.sys.missc + 1) ∧ (¬ Owed b part.toNat → e.sys.missc = b.sys.missc) ∧
        SameRegisters e b ∧ SameQueues e b
      met c.bank d.bank ∧ met c.other d.other) ∧
  (∀ (s : State) (core : BitVec 8), let c := s.coreOf core.toNat
    ∃ t, exec (.backgroundFill core) s = .next t ∧
      let d := t.coreOf core.toNat
      d.bank.absent = c.bank.absent.drop 1 ∧ d.other.absent = c.other.absent.drop 1 ∧ d.bank.sys = c.bank.sys ∧
      (d.bank.absent ≠ [] ∨ d.other.absent ≠ [] → t.calendar.any (fun e => e.event = .backgroundFill core) = true))

/-! ### The matrix array -/

/-- 08 R185, 05 R124: the product that an MMA forms, row by row; the K-blocks of the formats.

Where the rules leave a reading open it takes that of notes/assumptions/19.md. -/
def Obligations.MatrixProduct : Prop :=
  (∀ (fmode : Word) (mask : List Bool) (mode sh : Nat) (td ta : Words) (b : TileData), mode < 4 → mask.length = 64 →
    shapeM sh ≤ 64 → shapeN sh ≤ 64 → shapeK sh ≤ 64 →
    let md := matModes fmode
    let r := mmaRows fmode false mask mode sh td ta b
    let A (i q : Nat) : Nat := (ta.at (if 2 ≤ mode then 64 * q + i else 64 * i + q)).toNat
    let zero : Prop := mode % 2 = 1
    r.contains = [] ∧ r.tag = accTag b.tag ∧
    ∀ i < 64, ∀ j < 64,
      let old := (td.at (64 * i + j)).toNat
      let new := (r.tile.at (64 * i + j)).toNat
      (¬ (i < shapeM sh ∧ mask.getD i true = true ∧ j < shapeN sh) → new = old) ∧
      (i < shapeM sh → mask.getD i true = true → j < shapeN sh →
        (b.tag ∈ [7, 9, 11] → (new : Int) = ((if zero then 0 else (old : Int)) + ((List.range (shapeK sh)).map fun q =>
          (if b.tag = 9 then ((A i q % 256 : Nat) : Int) else signed 8 (A i q)) *
          (if b.tag = 9 then ((b.elems.getD (64 * q + j) 0 : Nat) : Int) else signed 8 (b.elems.getD (64 * q + j) 0))).sum) % 2 ^ 32) ∧
        (b.tag ∉ [7, 9, 11] →
          (shapeK sh = 0 → new = if zero then 0 else old) ∧
          (shapeK sh ≠ 0 →
            let a := aform md b.tag (sh.testBit 24) ((List.range 64).map fun q => if q < shapeK sh then A i q else 0)
            let col := (List.range 64).map fun q => if q < shapeK sh then b.numAt md q j else .fin false 0 0
            new = (Fmt.fp32.addNum md (if zero then .fin false 0 0 else v32 old) (v32 (kBlock md b.tag a col).bits)).bits % 2 ^ 32)))) ∧
  (∀ (md : Modes) (t : Nat) (a : ARow) (b : List Exact), a.vals.length = 64 → b.length = 64 →
    let x (k : Nat) : Exact := a.vals.getD k (.fin false 0 0)
    let y (k : Nat) : Exact := b.getD k (.fin false 0 0)
    let p (k : Nat) : Rat := realOf (x k) * realOf (y k)
    -- BF16 and FP16: products rounded, then summed by pairs
    (t = 2 ∨ t = 3 → kBlock md t a b =
      pairTree (fun x y => withFlags (Fmt.fp32.addNum md (v32 x.bits) (v32 y.bits)) x y) (fun k => Fmt.fp32.mulNum md (x k) (y k)) 6 0) ∧
    -- E4M3 and E5M2: products cut to multiples of 2^(E - 36), summed exactly, rounded once
    (t = 4 ∨ t = 5 → (∀ k < 64, (x k).isFinite = true ∧ (y k).isFinite = true) → ∀ E : Int,
      (∃ k < 64, (2 : Rat) ^ E ≤ gap 0 (p k)) → (∀ k < 64, gap 0 (p k) < 2 ^ (E + 1)) →
      let cut (z : Rat) : Rat := (if z < 0 then -1 else 1) * (gap 0 z / 2 ^ (E - 36)).floor * 2 ^ (E - 36)
      let sum := ((List.range 64).map fun k => cut (p k)).sum
      (sum = 0 → (kBlock md t a b).bits = 0) ∧
      (sum ≠ 0 → Rounded Fmt.fp32 .rne false false (decide (sum < 0)) (gap 0 sum * 2 ^ a.exp) (kBlock md t a b))) ∧
    -- E2M1: exactly
    (t = 6 → (∀ k < 64, (x k).isFinite = true ∧ (y k).isFinite = true) →
      let sum := ((List.range 64).map p).sum
      (sum = 0 → (kBlock md t a b).bits = 0) ∧
      (sum ≠ 0 → Rounded Fmt.fp32 .rne false false (decide (sum < 0)) (gap 0 sum * 2 ^ a.exp) (kBlock md t a b))))

/-- 08 R186, R187, 22 R357-R360, R363: MMA's issue and its traps, MSETP, MSETH, MPREF and MUWR, and how an MMA ends.

Where the rules leave a reading open it takes that of notes/assumptions/16.md, notes/assumptions/19.md and notes/assumptions/20.md. -/
def Obligations.MatrixInstructions : Prop :=
  (∀ (s u : State) (d a : TReg) (b : MReg) (e : BitVec 5) (tag : Nat) (op : Operand),
    (∀ x, op.tile = some x → x.ok = true ∧ accTag x.tag = accTag tag) →
    (MmaPasses s u 0 d a b e tag op → ∃ t, exec (.mma d a b e) s = .next t ∧ MmaIssued s u t 0 d a b e op) ∧
    (MmaPasses s u 1 d a b e tag op → ∃ t, exec (.mmaZ d a b e) s = .next t ∧ MmaIssued s u t 1 d a b e op) ∧
    (MmaPasses s u 2 d a b e tag op → ∃ t, exec (.mmaT d a b e) s = .next t ∧ MmaIssued s u t 2 d a b e op) ∧
    (MmaPasses s u 3 d a b e tag op → ∃ t, exec (.mmaZt d a b e) s = .next t ∧ MmaIssued s u t 3 d a b e op)) ∧
  -- an array that is busy, a relaxation in progress
  (∀ (s : State) (d a : TReg) (b : MReg) (e : BitVec 5), let h := (s.core.bank.readM b).toNat
    s.core.relax = none → s.core.mat.cycles < s.core.mBusy →
    s.tilesFree false [a.val] = .ok () → s.tilesFree true [d.val] = .ok () → s.core.bank.tiles < 31 → NoHold (s.handleFormat h) →
    NoHold (s.fetchOperand h 0 0 0 true) → (∀ op u, s.fetchOperand h 0 0 0 true = .ok (op, u) → u.copyRoom 3 = .ok ()) →
    exec (.mma d a b e) s = .next (s.takeTrap (scheduleFault 0 (s.core.mBusy - s.core.mat.cycles)))) ∧
  (∀ (s : State) (d a : TReg) (b : MReg) (e : BitVec 5) (k : MReg) (r : GReg), s.core.relax ≠ none →
    exec (.mma d a b e) s = .next { s with holding := some (7, true) } ∧
    exec (.msetp k r) s = .next { s with holding := some (7, true) }) ∧
  -- parameters and handles
  (∀ (s : State) (k : MReg) (g : GReg) (a : AReg), s.core.relax = none → s.core.mBusy ≤ s.core.mat.cycles →
    let x := s.a a
    let low := aTid x < 2 ^ 20 ∧ aCoord x 0 % 64 = 0 ∧ aCoord x 1 % 64 = 0 ∧ aCoord x 2 ≤ 63 ∧ aCoord x 3 = 0
    let dir := (aTid x = 0xFFFF0003 ∨ aTid x = 0xFFFF0002) ∧ aCoord x 0 % 16 = 0 ∧ aCoord x 1 = 0 ∧ aCoord x 2 = 0 ∧ aCoord x 3 = 0
    let puts (t : State) (z : Word) : Prop := t.core.bank.inflight = s.core.bank.inflight ++ [s.result (.m k z) .mat 1] ∧
      t.core.mBusy = s.core.mat.cycles + 1 ∧ SameRegisters t.core.bank s.core.bank
    (∃ t, exec (.msetp k g) s = .next t ∧ puts t (s.g g)) ∧
    (low → ∃ t, exec (.mseth k a) s = .next t ∧ puts t (BitVec.ofNat 64
      (aTid x + aCoord x 0 / 64 * 2 ^ 22 + aCoord x 1 / 64 * 2 ^ 40 + aCoord x 2 * 2 ^ 58))) ∧
    (dir → ∃ t, exec (.mseth k a) s = .next t ∧ puts t (BitVec.ofNat 64
      ((if aTid x = 0xFFFF0003 then 1 else 2) * 2 ^ 20 + aCoord x 0 / 16 * 2 ^ 22))) ∧
    (¬ low → ¬ dir → exec (.mseth k a) s = .next (s.takeTrap (protection (aTid x) 6))) ∧
    -- MPREF begins a copy only of a tile in HBM or the host that is accessible
    (hKind (s.core.bank.readM k).toNat ≠ 0 → ∃ t, exec (.mpref k) s = .next t ∧ t = { s with core := { s.core with mBusy := s.core.mat.cycles + 1 } }) ∧
    (∀ f, hKind (s.core.bank.readM k).toNat = 0 → s.desc (hTid (s.core.bank.readM k).toNat) = .error (.trap f) →
      ∃ t, exec (.mpref k) s = .next t ∧ t = { s with core := { s.core with mBusy := s.core.mat.cycles + 1 } })) ∧
  -- the microprogram store and the routine table
  (∀ (s : State) (a b : GReg),
    let x := (s.g a).toNat
    let y := (s.g b).toNat
    (s.sup = false → exec (.muwr a b) s = .next (s.takeTrap s.privilege)) ∧
    (s.sup = true → s.core.relax = none → s.core.mBusy ≤ s.core.mat.cycles → (∀ o ∈ s.core.matOps, o.routine = false) →
      (x / 2 ^ 62 = 0 → x % 2 ^ 62 < 2 ^ 15 → 16384 ≤ x → ∃ t, exec (.muwr a b) s = .next t ∧
        SMap.get 0 t.core.micro x = y % 2 ^ 32 ∧ (∀ k, k ≠ x → SMap.get 0 t.core.micro k = SMap.get 0 s.core.micro k) ∧
        ∀ n w, SMap.get 0 s.core.routines n = w → 256 ≤ n →
          (∀ r, s.core.routine n = some r → x < r.start ∨ r.last < x) → SMap.get 0 t.core.routines n = w) ∧
      (x / 2 ^ 62 = 1 → x % 2 ^ 62 < 2 ^ 12 → 256 ≤ x % 2 ^ 62 → ∀ ops last, s.core.scan 32768 (y % 32768) [] = .ok (ops, last) →
        ∃ t, exec (.muwr a b) s = .next t ∧ SMap.get 0 t.core.routines (x % 4096) = y % 32768 + 1 ∧ t.core.stall = (last + 1 - y % 32768, 16)) ∧
      (x / 2 ^ 62 = 2 → x % 2 ^ 62 < 2 ^ 12 → 256 ≤ x % 2 ^ 62 → ∃ t, exec (.muwr a b) s = .next t ∧
        SMap.get 0 t.core.routines (x % 4096) = 0) ∧
      (x / 2 ^ 62 = 3 → exec (.muwr a b) s = .next (s.takeTrap (protection (x % 2 ^ 32) 8))))) ∧
  -- the end of an operation
  (∀ (s : State) (core : BitVec 8) (seq : BitVec 48) (o : MatOp), let u := s.focus core.toNat
    u.core.matOps.find? (fun p => p.seq = seq.toNat) = some o → u.core.bank.id ≠ u.core.other.id →
    (o.bank = u.core.bank.id ∨ o.bank = u.core.other.id) →
    ∃ t, exec (.mmaComplete core seq) s = .next t ∧ OperationEnds u.core t.core o u.now) ∧
  -- an operand's arrival, none waiting for room on X3
  (∀ (s : State) (core : BitVec 8) (id : BitVec 64), let u := s.focus core.toNat
    u.core.relax = none → (∀ o ∈ u.core.matOps, ∀ p ∈ o.operands, p.id ≠ some id.toNat ∧ (p.desc = none ∨ p.id ≠ none)) →
    (∀ o ∈ u.core.matOps, ∀ q ∈ u.core.matOps, o.seq = q.seq → o = q) →
    ∃ t, exec (.operandFetch core id false) s = .next t ∧ t.core.matOps = u.core.matOps ∧
      (∀ x ∈ t.core.staged, x.id = id.toNat → x.tile = some (u.core.stagedTile x.tag x.at') ∧ x.failed = false) ∧
      t.core.staged.map Staged.id = u.core.staged.map Staged.id) ∧
  -- uncorrectable: the operation is abandoned
  (∀ (s : State) (core : BitVec 8) (id : BitVec 64) (o : MatOp) (d a : TReg) (b : MReg) (e : BitVec 5), let u := s.focus core.toNat
    u.core.relax = none → u.core.matOps.find? (fun o => o.operands.any fun p => p.id = some id.toNat) = some o →
    o.routine = false → o.todo = [.mma d a b e] → (∀ q ∈ u.core.matOps, ∀ p ∈ q.operands, p.desc = none ∨ p.id ≠ none) →
    (∀ o ∈ u.core.matOps, ∀ q ∈ u.core.matOps, o.seq = q.seq → o = q) →
    u.core.bank.id ≠ u.core.other.id → (o.bank = u.core.bank.id ∨ o.bank = u.core.other.id) → ∃ t,
      exec (.operandFetch core id true) s = .next t ∧ t.core.matOps = u.core.matOps.filter (fun q => q.seq ≠ o.seq) ∧
      (t.core.bankOf o.bank).tiles = (u.core.bankOf o.bank).tiles - 1 ∧
      ∃ q, (t.core.bankOf o.bank).pending = (u.core.bankOf o.bank).pending ++ [q] ∧ q.cause = 0x10) ∧
  -- a handle whose tensor has a format the array does not take: the trap comes at the next bundle
  (∀ (s : State) (d a : TReg) (b : MReg) (e : BitVec 5) (tag : Nat) (op : Operand) (x : TileData),
    let h := (s.core.bank.readM b).toNat
    let sh := (s.core.bank.readM (b.val + 1)).toNat
    s.mFree = .ok () → s.tilesFree false [a.val] = .ok () → s.tilesFree true [d.val] = .ok () → s.core.bank.tiles < 31 →
    s.handleFormat h = .ok (.ok tag) → operandTag tag = false → shapeOk sh = true → s.bgrp ≠ none →
    s.core.rowClaims (d.val % 8) (s.core.mat.cycles + beatsOf e + 5) = false → s.fetchOperand h 0 0 0 true = .ok (op, s) →
    op.desc = none → op.failed = false → op.tile = some x → x.ok = false → (∀ q ∈ s.core.matOps, q.seq ≠ s.core.seq) →
    ∃ t, exec (.mma d a b e) s = .next t ∧ t.core.matOps = s.core.matOps ∧ t.core.bank.tiles = s.core.bank.tiles ∧
      SameRegisters t.core.bank s.core.bank ∧ ∃ q, t.core.bank.pending = s.core.bank.pending ++ [q] ∧ q.cause = 0x05)

/-- 08 R193-R198, 22 R355: MCALL's issue, its micro-ops as they run, and its completion.

Where the rules leave a reading open it takes that of notes/assumptions/12.md and notes/assumptions/33.md. -/
def Obligations.Microprograms : Prop :=
  (∀ (s u : State) (r : BitVec 12) (b : BitVec 6) (e : Routine) (ops : List Operand),
    let ms := s.mRegs
    let m0 := (s.core.bank.readM 0).toNat
    let base := m0 % 32
    let tile (x : Nat) : Nat := (base + x) % 32
    let occ := if b = 0 then e.beats else 4 * b.toNat
    let times := e.ops.map (microTime ms r.toNat)
    let words := ummaWords ms e.ops
    let writes := (e.ops.zip (runningTimes 0 times)).flatMap fun p => (microTiles p.1).2.map fun t => (tile t, s.core.mat.cycles + p.2 - 1)
    s.core.routine r.toNat = some e → s.mFree = .ok () → s.core.bank.tiles < 31 →
    s.tilesFree false (((List.range 32).filter fun x => bitAt e.rmask x).map tile) = .ok () →
    s.tilesFree true (((List.range 32).filter fun x => bitAt e.wmask x).map tile) = .ok () →
    (m0 < 256 → (∀ w ∈ words, shapeOk w.2.1 = true) → e.beats ≤ occ → times.sum ≤ occ →
      (∀ w ∈ writes, s.core.rowClaims (w.1 % 8) w.2 = false) →
      (s.bgrp ≠ none ∨ (m0.testBit 5 = false ∧ ∀ w ∈ words, w.2.1.testBit 21 = false)) → (∀ w ∈ words, hKind w.1 ≠ 3) →
      s.fetchAll words [] = .ok (ops, u) → u.copyRoom 3 = .ok () → ∃ t o, exec (.mcall r b) s = .next t ∧
        t.core.matOps = u.core.matOps ++ [o] ∧
        o.todo = e.ops ++ [.uend] ∧ o.dests = writes ∧ o.base = base ∧ o.ms = ms ∧ o.due = s.core.mat.cycles + occ + 6 ∧
        o.operands.map (fun p => (p.handle, p.ko, p.tile)) = ops.map (fun p => (p.handle, p.ko, p.tile)) ∧
        t.core.mBusy = s.core.mat.cycles + occ ∧ t.core.bank.tiles = u.core.bank.tiles + 1 ∧
        SameRegisters t.core.bank s.core.bank ∧
        ∃ x ∈ t.core.due, x.dom = .mat ∧ x.cycle = s.core.mat.cycles + (occ + 6) ∧
          x.event = .mcallComplete (BitVec.ofNat 8 s.core.id) (BitVec.ofNat 48 s.core.seq)) ∧
    -- no freeze of the operands' comes before its traps
    (NoHold (s.fetchAll words []) → (∀ ops u, s.fetchAll words [] = .ok (ops, u) → u.copyRoom 3 = .ok ()) →
      (256 ≤ m0 → exec (.mcall r b) s = .next (s.takeTrap (violation 7))) ∧
      (m0 < 256 → (∀ w ∈ words, shapeOk w.2.1 = true) → occ < e.beats ∨ occ < times.sum →
        exec (.mcall r b) s = .next (s.takeTrap (violation 9))))) ∧
  (∀ (s : State) (r : BitVec 12) (b : BitVec 6), s.core.routine r.toNat = none →
    exec (.mcall r b) s = .next (s.takeTrap s.illegal)) ∧
  -- micro-ops
  (∀ (s : State) (o : MatOp), s.core.running' = some o → (∀ q ∈ s.core.matOps, q.seq = o.seq → q = o) →
    let bank := s.core.bankOf o.bank
    let tile (x : TReg) : Nat := (o.base + x.val) % 32
    let becomes (t : State) (p : MatOp) : Prop := t.core.matOps = s.core.matOps.map fun q => if q.seq = o.seq then p else q
    -- a micro-op that has run commits its tile, and is the operation's no more
    let commits (t : State) (p : MatOp) : Prop :=
      becomes t { p with results := [], flags := 0, nv := 0, ov := 0, snan := false } ∧
      TilesCommit bank (t.core.bankOf o.bank) p s.now
    (∃ t, exec .uend s = .next t ∧ becomes t { o with todo := [] }) ∧
    (∀ (d a b : TReg) (h m : BitVec 2) (f : BitVec 4) (k : BitVec 5) (x : TileData) (class' : List Nat),
      let sh := o.ms.getD (2 * h.toNat + 1) 0
      (∃ p, o.operands.find? (fun p => p.handle = o.ms.getD (2 * h.toNat) 0 ∧ p.ko = k.toNat) = some p ∧ p.tile = some x ∧
        p.failed = false) → fnClass f.toNat = some class' → x.ok = true → x.tag ∈ class' → (o.tile bank (tile a)).2 = accTag x.tag →
      (m.toNat % 2 = 0 → (o.tile bank (tile d)).2 = accTag x.tag) → ∃ t, exec (.umma d a b h m f k) s = .next t ∧
        let r := mmaRows o.fmode (o.containing sh) (o.rowsOf sh) m.toNat sh (o.tile bank (tile d)).1 (o.tile bank (tile a)).1 x
        commits t ({ o with todo := o.todo.drop 1 }.take (tile d) r)) ∧
    (∀ (d a b : TReg) (h m : BitVec 2) (f : BitVec 4) (k : BitVec 5), f.toNat ≤ 9 → (o.tile bank (tile a)).2 = 1 →
      (f.toNat ∈ [0, 1, 2, 9] → (o.tile bank (tile b)).2 = 1) → ∃ t, exec (.uew d a b h m f k) s = .next t ∧
        let r := uewRows o.fmode (o.containing 0) o.mask f.toNat (o.tile bank (tile d)).1 (o.tile bank (tile a)).1 (o.tile bank (tile b)).1
        commits t ({ o with todo := o.todo.drop 1 }.take (tile d) r))) ∧
  -- the elementwise functions of 08 R195
  (∀ (fmode : Word) (mask : List Bool) (f : Nat) (td ta tb : Words), f ≤ 9 → mask.length = 64 →
    let r := uewRows fmode false mask f td ta tb
    ∀ i < 64, ∀ j < 64,
      let x := (ta.at (64 * i + j)).toNat
      let y := (tb.at (64 * i + j)).toNat
      let row (op : Nat → Nat → Nat) : Nat := pairTree op (fun q => (ta.at (64 * i + q)).toNat) 6 0
      (mask.getD i true = false → r.tile.at (64 * i + j) = td.at (64 * i + j)) ∧
      (mask.getD i true = true → (r.tile.at (64 * i + j)).toNat =
        (if f = 0 then add32 x y else if f = 1 then sub32 x y else if f = 2 then mul32 x y else if f = 3 then sfn32 .sigm x
          else if f = 4 then sfn32 .tanh x else if f = 5 then x else if f = 6 then sfn32 .exp2 x
          else if f = 7 then row (fun x y => (Fmt.fp32.maxmin plain true x y).bits)
          else if f = 8 then row add32 else (Fmt.fp32.maxmin plain true x y).bits) % 2 ^ 32)) ∧
  (∀ (s : State) (core : BitVec 8) (seq : BitVec 48) (o : MatOp), let u := s.focus core.toNat
    u.core.matOps.find? (fun p => p.seq = seq.toNat) = some o → (∀ q ∈ u.core.matOps, q.seq = o.seq → q = o) →
    o.library < 80 ∨ 256 ≤ o.library → u.core.bank.id ≠ u.core.other.id → (o.bank = u.core.bank.id ∨ o.bank = u.core.other.id) →
    ∃ t, exec (.mcallComplete core seq) s = .next t ∧ OperationEnds u.core t.core o u.now)

/-! ### Relaxation -/

/-- 07 R155, R159-R162, R164, R166, R168, R178, R179, 08 R181, 22 R370, 23 R373: RELAX and RELAXB issue, iterate and complete.

Where the rules leave a reading open it takes that of notes/assumptions/32.md. -/
def Obligations.Relaxations : Prop :=
  -- issue
  (∀ (s : State) (r : RelaxRun) (i : Instr),
    (∃ tz tu mw sv f, i = .relax tz tu mw sv f ∧ r = s.newRelax false tz.val tu.val mw.val f.toNat (sv == 1)) ∨
      (∃ tz tg mw, i = .relaxb tz tg mw ∧ r = s.newRelax true tz.val tg.val mw.val 0 false) →
    RelaxReaches s r →
    let op (k : Nat) := ({ s with windows := [] } : State).localOperand r.handle (k / (r.nc * r.cores.length)) (k % (r.nc * r.cores.length)) k
    s.copyRoom 3 = .ok () → (∀ k < r.nc * (r.nc * r.cores.length), NoHold (op k)) →
    (r.blocksOk = false → exec i s = .next (s.takeTrap (violation 6))) ∧
    (∀ bc : Bool, (bc = true ↔ IsBroadcast s) → r.blocksOk = true → r.paramOk bc = false →
      exec i s = .next (s.takeTrap (violation 7))) ∧
    (∀ bc : Bool, (bc = true ↔ IsBroadcast s) → r.blocksOk = true → r.paramOk bc = true → r.rag = true → s.bgrp = none →
      exec i s = .next (s.takeTrap (requestFault 1))) ∧
    (∀ bc : Bool, (bc = true ↔ IsBroadcast s) → r.blocksOk = true → r.paramOk bc = true → (r.rag = true → s.bgrp ≠ none) →
      (∀ k < r.nc * (r.nc * r.cores.length), ∃ x, op k = .ok x) →
      let starts (i : Nat) : Prop := i < 64 * r.nr ∧ (r.rag = true → s.rowLive (64 * (r.q + i / 64) + i % 64) = true) ∧
        (r.rag = false → i < r.nrow) ∧ (r.cont = true → s.core.spad.read (r.rtab + 8 * i) 8 / 2 ^ 16 % 8 = 1)
      let began (t : State) (q : RelaxRun) : Prop := t.core.relax = some q ∧ t.core.bank.tiles = s.core.bank.tiles + 1 ∧
        SameRegisters t.core.bank s.core.bank ∧
        t.core.bank.sys = (if r.cont then s.core.bank.sys else { s.core.bank.sys with itc := 0 }) ∧
        (∀ i, (∃ x ∈ q.rows, x.row = i) ↔ starts i) ∧
        (∀ x ∈ q.rows, x.st = 1 ∧ x.z = blockRow s.core.bank r.nc r.tz x.row ∧ (r.cont = false → x.hist = 0 ∧ x.iter = 0)) ∧
        (q.rows ≠ [] → q.operands.length = r.nc * (r.nc * r.cores.length) ∧ ∀ k < q.operands.length, ∀ o, q.operands[k]? = some o →
          ∃ x, op k = .ok x ∧ o.ko = k ∧ o.handle = r.handle ∧ o.tile = x.tile ∧ o.tag = x.tag ∧ o.desc = x.desc)
      (r.cores = [s.core.id] → ∃ t q, exec i s = .next t ∧ began t q ∧
        q = { r with
          rows := q.rows, operands := q.operands, stream := q.stream, packed := q.rows.map RelaxRow.row
          passes := (q.rows.length + 63) / 64, started := true, parts := [(.mat, 16 + 16 * r.nr * r.nc)], began := s.core.mat.cycles } ∧
        ∃ x ∈ t.core.due, x.dom = .mat ∧ x.cycle = s.core.mat.cycles + (16 + 16 * r.nr * r.nc) ∧
          x.event = .relaxIteration (BitVec.ofNat 8 s.core.id)) ∧
      -- in a spanning group it waits for the other cores
      (∀ n ∈ r.cores, n ≠ s.core.id → (s.coreOf n).relax = none → ∃ t q, exec i s = .next t ∧ began t q ∧
        q = { r with rows := q.rows, operands := q.operands, stream := q.stream } ∧
        t.calendar.any (fun e => e.event = .relaxAbsentCore (BitVec.ofNat 8 (r.cores.headD 0))) = true))) ∧
  -- between iterations
  (∀ (s : State) (core : BitVec 8) (r : RelaxRun), let u := s.focus core.toNat
    let itc := (u.core.bankOf r.bank).sys.itc.toNat % 2 ^ 16
    u.core.relax = some r → r.paused = false → r.parts.length ≤ 1 → r.phase = 0 → r.cores = [u.core.id] →
    ((∀ x ∈ r.rows, x.st ≠ 1) → ∃ t q, exec (.relaxIteration core) s = .next t ∧ t.core.relax = some q ∧ q.phase = 2 ∧ q.trap = r.trap ∧
      q.rows = r.rows ∧ (r.rows = [] → (t.core.bankOf r.bank).sys.rsd = 0 ∧ (t.core.bankOf r.bank).sys.rxlive = 0)) ∧
    ((∃ x ∈ r.rows, x.st = 1) → itc < r.itl → u.core.preempt = none → ∃ t q, exec (.relaxIteration core) s = .next t ∧
      t.core.relax = some q ∧ q.phase = 1 ∧ q.rows = r.rows ∧
      ∃ x ∈ t.core.due, x.dom = .mat ∧ x.event = .relaxIteration (BitVec.ofNat 8 u.core.id) ∧
        (r.back = false → r.operands.length = r.nc ^ 2 →
          x.cycle = u.core.mat.cycles + r.passes * ((if r.fmt = 2 then 64 else 32) * r.nc ^ 2 + 24))) ∧
    ((∃ x ∈ r.rows, x.st = 1) → r.itl ≤ itc → ¬ (r.pol = true ∧ r.rag = true) → ∃ t q f, exec (.relaxIteration core) s = .next t ∧
      t.core.relax = some q ∧ q.phase = 2 ∧ q.rows = r.rows ∧ q.write = r.write ∧ q.trap = some f ∧ f.cause = 0x0D ∧
      f.tval = BitVec.ofNat 64 (r.bundle + (if r.back then 2 ^ 40 else 0)))) ∧
  -- an iteration's end on one core, no exception enabled
  (∀ (s : State) (core : BitVec 8) (r : RelaxRun), let u := s.focus core.toNat
    let b := u.core.bankOf r.bank
    let k := b.sys.itc.toNat % 2 ^ 16 + 1
    u.core.relax = some r → r.paused = false → r.parts.length ≤ 1 → r.phase = 1 → r.cores = [u.core.id] → r.trap = none →
    (∀ o ∈ r.operands, o.tile ≠ none) → r.tileTrap = none → (r.rows.map RelaxRow.row).Nodup → (∀ x ∈ r.rows, x.z.length = 64 * r.nc) →
    (modesOf r.fmode).te &&& 5 = 0 → (modesOf r.fmode).snt = false → (∃ x ∈ r.rows, x.st = 1) →
    let next (x : RelaxRow) : List Nat := relaxNext r b k x
    let rho (x : RelaxRow) : Nat := rowNorm r.nrm (((next x).zip x.z).map fun p => sub32 p.1 p.2)
    let slack (x : RelaxRow) : Prop := (∀ v ∈ next x, (v32 v).isFinite = true) ∧
      ¬ NumLt (v32 (add32 r.atol (mul32 r.rtol (rowNorm r.nrm (next x))))) (v32 (rho x)) ∧
      (v32 (rho x)).isNan = false ∧ (v32 (add32 r.atol (mul32 r.rtol (rowNorm r.nrm (next x))))).isNan = false
    ∃ t q, exec (.relaxIteration core) s = .next t ∧ t.core.relax = some q ∧ q.rows.map RelaxRow.row = r.rows.map RelaxRow.row ∧
      (t.core.bankOf r.bank).sys.itc = BitVec.ofNat 64 (k % 65536) ∧
      ((∀ x ∈ r.rows, x.st = 1 → (v32 (rho x)).isNan = false) → ∃ x ∈ r.rows, x.st = 1 ∧
        (t.core.bankOf r.bank).sys.rsd = BitVec.ofNat 64 (rho x) ∧ ∀ y ∈ r.rows, y.st = 1 → rho y ≤ rho x) ∧
      (∀ x ∈ r.rows, x.st ≠ 1 → ∃ y ∈ q.rows, y.row = x.row ∧ y.z = x.z ∧ y.st = x.st ∧ y.iter = x.iter) ∧
      (∀ x ∈ r.rows, x.st = 1 → ∃ y ∈ q.rows, y.row = x.row ∧ y.z = next x ∧ y.iter = k ∧ y.rho = rho x ∧
        (slack x → y.st = 2) ∧
        (¬ slack x → y.st = 1 ∨ (y.st = 3 ∧ r.pol = true ∧ r.rag = true ∧ r.itl ≤ k % 65536)))) ∧
  -- completion on one core, all rows regular
  (∀ (s : State) (core : BitVec 8) (r : RelaxRun), let u := s.focus core.toNat
    let b := u.core.bankOf r.bank
    u.core.relax = some r → r.cores = [u.core.id] → r.pausing = false → r.blocksOk = true →
    -- a tile's write takes sixteen cycles in which no row claims its bank
    (∀ k, r.out[r.wrote / 16]? = some k → ∃ t x, exec (.relaxComplete core) s = .next t ∧ t.core.bank = u.core.bank ∧
      t.core.other = u.core.other ∧ t.core.spad = u.core.spad ∧ x ∈ t.core.due ∧ x.dom = .mat ∧ x.cycle = u.core.mat.cycles + 1 ∧
      x.event = .relaxComplete core ∧
      t.core.relax = some (if u.core.rowClaims (k % 8) u.core.mat.cycles then r else { r with wrote := r.wrote + 1 })) ∧
    (16 * r.out.length ≤ r.wrote → r.rag = false → (r.rows.map RelaxRow.row).Nodup →
    (∀ x ∈ r.rows, x.row < 64 * r.nr ∧ x.z.length = 64 * r.nc ∧ (x.y = [] ∨ x.y.length = 64 * r.nc)) →
    ∃ t, exec (.relaxComplete core) s = .next t ∧ t.core.relax = none ∧
      let e := t.core.bankOf r.bank
      e.tiles = b.tiles - 1 ∧ (r.trap = none → e.pending = b.pending) ∧
      (∀ f, r.trap = some f → f.fp = none →
        ∃ p, e.pending = b.pending ++ [p] ∧ p.cause = f.cause ∧ p.tval = f.tval ∧ p.seq = r.seq ∧ p.rank = 5) ∧
      -- an exception of the elements is one with those that others raise in the same cycle
      (∀ f, r.trap = some f → f.fp ≠ none → (∀ p ∈ b.pending, p.fp ≠ some u.now) →
        ∃ p, e.pending = b.pending ++ [p] ∧ p.cause = (if f.cause = 0x06 then 0x06 else 0x07) ∧ p.seq = r.seq ∧ p.rank = 5 ∧
          p.tval = BitVec.ofNat 64 (r.bundle % 2 ^ 40 + f.tval.toNat / 2 ^ 40 % 2 ^ 5 * 2 ^ 40 + 2 * 2 ^ 45)) ∧
      (r.write = false → e.t = b.t ∧ e.ttag = b.ttag ∧ t.core.spad = u.core.spad) ∧
      (r.write = true →
        let written (x : RelaxRow) : Prop := x ∈ r.rows ∧ (x.st = 1 ∨ x.st = 2)
        (∀ x, written x → blockRow e r.nc r.tz x.row = x.z.map (· % 2 ^ 32) ∧
          (r.sv = true → x.y ≠ [] → blockRow e r.nc r.td x.row = (x.y.map (actDeriv r.f)).map (· % 2 ^ 32))) ∧
        (∀ k < 32, ∀ i < 64, (∀ x, written x → x.row % 64 = i → ∀ c < r.nc, k ≠ r.tz + x.row / 64 * r.nc + c ∧
            (r.sv = true → k ≠ r.td + x.row / 64 * r.nc + c)) →
          ∀ j < 64, (e.readT k).at (64 * i + j) = (b.readT k).at (64 * i + j)) ∧
        (∀ k < 32, e.tagT k = if r.sv = true ∧ k ∈ r.block r.td then 1 else b.tagT k) ∧
        (r.rte = false → t.core.spad = u.core.spad) ∧
        (r.rte = true →
          (∀ x ∈ r.rows, t.core.spad.read (r.rtab + 8 * x.row) 8 = (x.entry (b.sys.itc.toNat % 2 ^ 16)) % 2 ^ 64) ∧
          (∀ i < 64 * r.nr, (∀ x ∈ r.rows, x.row ≠ i) →
            t.core.spad.read (r.rtab + 8 * i) 8 = if r.cont then u.core.spad.read (r.rtab + 8 * i) 8 else 0) ∧
          ∀ a, a < r.rtab ∨ r.rtab + 512 * r.nr ≤ a → t.core.spad.byte a = u.core.spad.byte a)))) ∧
  -- a core of a spanning group that never issued
  (∀ (s : State) (core : BitVec 8),
    let waiting := (s.cores.filterMap Core.relax).filter fun q => q.leader = core.toNat && !q.started
    (waiting = [] → exec (.relaxAbsentCore core) s = .next s) ∧
    (∀ q ∈ waiting, (∀ p ∈ waiting, s.now < p.issued + 2 ^ 20) → ∃ t, exec (.relaxAbsentCore core) s = .next t ∧ t.core = s.core ∧
      t.others = s.others ∧ t.calendar.any (fun e => e.event = .relaxAbsentCore core) = true) ∧
    (∀ r, waiting.head? = some r → (∃ p ∈ waiting, p.issued + 2 ^ 20 ≤ s.now) →
      ∃ t, exec (.relaxAbsentCore core) s = .next t ∧ ∀ n ∈ r.cores, (t.coreOf n).relax = none ∧
      ∀ q, (s.coreOf n).relax = some q → ∃ p, ((t.coreOf n).bankOf q.bank).pending = ((s.coreOf n).bankOf q.bank).pending ++ [p] ∧ p.cause = 0x09))

/-! ### Other J77s -/

/-- 04 R97, R98, 20 R322-R327, 23 R369, 24 R383: SEND, RECV, the frames they exchange and a link that fails.

Where the rules leave a reading open it takes that of notes/assumptions/15.md and notes/assumptions/25.md. -/
def Obligations.PeerExchange : Prop :=
  -- SEND and RECV as they issue
  (∀ (s : State) (a b : GReg),
    let x := (s.g a).toNat
    let y := (s.g b).toNat
    let p := y % 32
    let n := y / 2 ^ 16 % 2 ^ 10
    let routed : Prop := y / 2 ^ 34 % 2 = 1
    let range (d : Desc) : Range := rangeOf (BitVec.ofNat 128 (x % 2 ^ 32 + x / 2 ^ 32 % 2 ^ 24 * 2 ^ 32)) d
    s.xFree = .ok () → s.core.bank.copies < 63 →
    (¬ PeerWords false x y → exec (.send a b) s = .next (s.takeTrap (violation 10))) ∧
    (¬ PeerWords true x y → exec (.recv a b) s = .next (s.takeTrap (violation 10))) ∧
    (PeerWords false x y → (s.portEntry p).1 = none → exec (.send a b) s = .next (s.takeTrap (protection (x % 2 ^ 32) 15))) ∧
    (PeerWords true x y → routed → s.core.bank.sys.bgrp = 0xFF → exec (.recv a b) s = .next (s.takeTrap (requestFault 1))) ∧
    (∀ e d, PeerWords false x y → (s.portEntry p).1 = some e →
      let u := (s.portEntry p).2
      (u.desc (x % 2 ^ 32) = .ok d → ¬ PeerTensor u x y d →
        exec (.send a b) s = .next (s.takeTrap (own 0x0B (x % 2 ^ 32 + 10 * 2 ^ 32 + 0xFF * 2 ^ 40)))) ∧
      (PeerTensor u x y d → u.checkRange (range d) (256 * n) .read = .ok () → ∃ t o,
        exec (.send a b) s = .next t ∧ t.core.sends = s.core.sends ++ [o] ∧ o.peer = p ∧ o.src = range d ∧ o.lines = n ∧ o.read = 0 ∧
        o.placed = 0 ∧ o.issue = s.core.seq ∧ o.bank = s.core.bank.id ∧ t.core.bank.copies = s.core.bank.copies + 1 ∧
        t.core.xBusy = s.core.cpy.cycles + 1 ∧ SameRegisters t.core.bank s.core.bank ∧ SameOuterMemory s t)) ∧
    (∀ d, PeerWords true x y → (routed → s.core.bank.sys.bgrp ≠ 0xFF) →
      (s.desc (x % 2 ^ 32) = .ok d → ¬ PeerTensor s x y d →
        exec (.recv a b) s = .next (s.takeTrap (own 0x0B (x % 2 ^ 32 + 10 * 2 ^ 32 + 0xFF * 2 ^ 40)))) ∧
      (PeerTensor s x y d → s.checkRange (range d) (256 * n) .write = .ok () →
        let queue := (s.peer p).queue
        let expired : Prop := (s.core.fetchedOf fetchRecv 0).isSome = true
        (n ≤ queue.length ∨ (expired ∧ routed) → ∃ t o acc, exec (.recv a b) s = .next t ∧
          (t.peer p).queue = queue.drop n ∧ t.core.bank.copies = s.core.bank.copies + 1 ∧ t.core.recvs = s.core.recvs ++ [o] ∧
          o.peer = p ∧ o.waits = acc.map Access.seq ∧ SameRegisters t.core.bank s.core.bank ∧
          t.core.bank.stq = s.core.bank.stq ++ acc ∧ acc.length = min n queue.length ∧
          (∀ k z l, acc[k]? = some z → queue[k]? = some l → z.seq = s.core.accSeq + k ∧ z.desc = d ∧
            z.elems.length = 256 ∧ ∀ j < 256, elem z.data 0 j = l.data / 256 ^ j % 256 ∧ ∃ e, z.elems[j]? = some e ∧ e.idx = j ∧
              e.off = (range d).off.getD 0 + 256 * k + j) ∧
          ∃ z ∈ t.core.due, z.dom = .cpy ∧ z.cycle = s.core.cpy.cycles + 1 ∧
            z.event = .recvComplete (BitVec.ofNat 8 s.core.id) (BitVec.ofNat 64 o.id)) ∧
        (queue.length < n → expired → ¬ routed → exec (.recv a b) s = .next (s.takeTrap (own cQueueTimeout 10))) ∧
        (queue.length < n → ¬ expired → (s.peer p).down = true → exec (.recv a b) s = .next (s.takeTrap (own 0x11
          (p + (((s.portEntry p).1.map Port.port).getD 0) * 2 ^ 8)))) ∧
        (queue.length < n → ¬ expired → (s.peer p).down = false → exec (.recv a b) s = .next { s with holding := some (10, false) })))) ∧
  -- the timeout of a wait
  (∀ (s : State) (core : BitVec 8), let u := s.focus core.toNat
    (∀ n, u.core.recvFrom = some n → n + 2 ^ 20 ≤ s.now → ∃ t, exec (.recvTimeout core) s = .next t ∧
      t = { u with core := { u.core with fetched := { what := fetchRecv, addr := 0, data := 0 } :: u.core.fetched } }) ∧
    (∀ n, u.core.recvFrom = some n → s.now < n + 2 ^ 20 → exec (.recvTimeout core) s = .next u) ∧
    (u.core.recvFrom = none → exec (.recvTimeout core) s = .next u)) ∧
  -- a RECV writes its lines
  (∀ (s : State) (core : BitVec 8) (id : BitVec 64) (r : RecvOp), let u := s.focus core.toNat
    u.core.recvs.find? (fun r => r.id = id.toNat) = some r → u.core.halted = false →
    let mine := (u.core.bankOf r.bank).stq.filter fun x => r.waits.contains x.seq
    let ends (t : State) : Prop := (∀ q ∈ t.core.recvs, q.id ≠ r.id) ∧
      (t.core.bankOf r.bank).copies = (u.core.bankOf r.bank).copies - 1 ∧
      ∃ f, t.wire = s.wire ++ [f] ∧ f.peer = r.peer ∧ f.kind = 2 ∧ f.seq = (s.peer r.peer).expect
    (mine = [] → ∃ t, exec (.recvComplete core id) s = .next t ∧ ends t) ∧
    (∀ x, mine = [x] → x.held = false → u.core.id = core.toNat → (u.view r.bank).lineSlots x = [] → let tr := u.translate x
      (tr.2.1 = none → ∃ t, exec (.recvComplete core id) s = .next t ∧ ends t ∧
        ElementsWritten u t u.core.id r.bank x.desc.tag tr.1 x.data ∧
        (t.core.bankOf r.bank).stq = (u.core.bankOf r.bank).stq.filter fun y => y.seq ≠ x.seq) ∧
      (∀ e, tr.2.1 = some e → ∃ t q, exec (.recvComplete core id) s = .next t ∧ q ∈ t.core.recvs ∧ q.id = r.id ∧ 0 < q.kept ∧
        (t.core.bankOf r.bank).copies = (u.core.bankOf r.bank).copies ∧
        ∃ z ∈ (t.core.bankOf r.bank).ring, z.seq = x.seq ∧ z.store = true)) ∧
    -- one line a copy-domain cycle, freed as it is written
    (∀ x y l, mine = x :: y :: l → x.held = false → y.held = false → y.seq ≠ x.seq → u.core.id = core.toNat →
      (u.view r.bank).lineSlots x = [] → let tr := u.translate x
      tr.2.1 = none → ∃ t q, exec (.recvComplete core id) s = .next t ∧ ElementsWritten u t u.core.id r.bank x.desc.tag tr.1 x.data ∧
        (t.core.bankOf r.bank).stq = (u.core.bankOf r.bank).stq.filter (fun z => z.seq ≠ x.seq) ∧
        (t.core.bankOf r.bank).copies = (u.core.bankOf r.bank).copies ∧ q ∈ t.core.recvs ∧ q.id = r.id ∧
        q.kept = (r.waits.filter fun n => ((mine.find? fun z => decide (z.seq ≠ x.seq)).getD y).seq ≤ n).length ∧
        ∃ z ∈ t.core.due, z.dom = .cpy ∧ z.cycle = u.core.cpy.cycles + 1 ∧ z.event = .recvComplete core id)) ∧
  -- a data frame
  (∀ (s : State) (peer : BitVec 5) (port : BitVec 3) (ok : Bool) (seq : BitVec 32) (st path : BitVec 64) (n : BitVec 6)
      (data : BitVec 65536),
    let p := peer.toNat
    let u := (s.portEntry p).2
    let x := s.peer p
    let frame : Instr := .peerDataFrame peer port ok seq st path n data
    let right (e : Port) : Prop := ok = true ∧ e.port = port.toNat ∧ n ≠ 0 ∧ n.toNat ≤ 32
    ((s.portEntry p).1 = none → exec frame s = .next u) ∧
    (∀ e, (s.portEntry p).1 = some e →
      (¬ right e → exec frame s = .next u) ∧
      (right e → seq.toNat ≠ x.expect → ∃ t f, exec frame s = .next t ∧ t.wire = s.wire ++ [f] ∧ f.peer = p ∧ f.kind = 3 ∧ f.seq = x.expect ∧
        (t.peer p).queue = x.queue ∧ (t.peer p).expect = x.expect) ∧
      (right e → seq.toNat = x.expect → n.toNat ≤ s.freeLines p → ∃ t l, exec frame s = .next t ∧ (t.peer p).queue = x.queue ++ l ∧
        l.length = n.toNat ∧ (∀ k z, l[k]? = some z → z.data = data.toNat / 2 ^ (2048 * k) % 2 ^ 2048 ∧ z.seq = (x.expect + k) % 2 ^ 32 ∧
          z.stime = st.toNat ∧ z.path = path.toNat) ∧
        (t.peer p).expect = (x.expect + n.toNat) % 2 ^ 32 ∧
        (x.frames < 7 → t.wire = s.wire ∧ (t.peer p).frames = x.frames + 1 ∧
          t.calendar.any (fun e => e.event = .acknowledgeTimer peer) = true) ∧
        (7 ≤ x.frames → (t.peer p).frames = 0 ∧ ∃ f, t.wire = s.wire ++ [f] ∧ f.peer = p ∧ f.kind = 2 ∧ f.seq = (t.peer p).expect ∧
          f.credit = t.freeLines p)))) ∧
  (∀ (s : State) (peer : BitVec 5), let p := peer.toNat
    ((s.peer p).frames = 0 → exec (.acknowledgeTimer peer) s = .next s) ∧
    ((s.peer p).frames ≠ 0 → ∃ t f, exec (.acknowledgeTimer peer) s = .next t ∧ (t.peer p).frames = 0 ∧ t.wire = s.wire ++ [f] ∧
      f.peer = p ∧ f.kind = 2 ∧ f.seq = (s.peer p).expect ∧ f.credit = s.freeLines p)) ∧
  -- acknowledgements
  (∀ (s : State) (peer : BitVec 5) (seq credit : BitVec 32),
    let p := peer.toNat
    let x := s.peer p
    let n := (seq.toNat + 2 ^ 32 - (x.out.head?.map PeerLine.seq).getD x.next) % 2 ^ 32
    (x.down = true ∨ x.out.length < n → exec (.peerAcknowledge peer seq credit) s = .next s) ∧
    (x.down = false → n ≤ x.out.length → ∃ t, exec (.peerAcknowledge peer seq credit) s = .next t ∧
      (t.peer p).out = x.out.drop n ∧ (t.peer p).credit = credit.toNat ∧ (0 < n → (t.peer p).resends = 0) ∧
      ((s.portEntry p).1 ≠ none → x.sent - n ≤ min credit.toNat (x.out.length - n) → CreditUsed t p) ∧
      (n = 0 → t.core = s.core ∧ t.others = s.others) ∧
      -- the SEND of the one line acknowledged
      (∀ l y, x.out.take n = [l] → s.core.id = l.core → s.core.sends.find? (fun z => z.id = l.op) = some y →
        (y.placed + 1 < y.lines → ∃ z ∈ t.core.sends, z = { y with placed := y.placed + 1 }) ∧
        (y.lines ≤ y.placed + 1 → (∀ z ∈ t.core.sends, z.id ≠ l.op) ∧
          (t.core.bankOf y.bank).copies = (s.core.bankOf y.bank).copies - 1)))) ∧
  -- resending, and a link declared down
  (∀ (s : State) (peer : BitVec 5) (i : Instr) (rto : Nat),
    let p := peer.toNat
    let x := s.peer p
    rto = (((s.portEntry p).1.map Port.rto).getD 1000) * 5 / 2 →
    ((∃ q, i = .peerNegativeAcknowledge peer q) ∨
      (i = .resendTimeout peer ∧ x.moved + rto ≤ s.now)) →
    x.down = false → ∀ h, x.out.head? = some h →
    (x.resends < 16 → ∃ t, exec i s = .next t ∧ (t.peer p).out = x.out ∧ (t.peer p).resends = x.resends + 1 ∧
      (∀ e, (s.portEntry p).1 = some e → CreditUsed t p ∧ (0 < x.credit → ∃ f l, t.wire = s.wire ++ f :: l ∧ f.peer = p ∧ f.kind = 1 ∧
        f.seq = h.seq ∧ f.port = e.port ∧ f.vlan = e.vlan ∧ f.dmac = e.dmac ∧ f.sender = e.pidx))) ∧
    (16 ≤ x.resends → ∃ t, exec i s = .next t ∧ (t.peer p).down = true ∧ (t.peer p).out = [] ∧
      (∀ y ∈ t.core.sends, y.peer ≠ p) ∧
      ∀ y ∈ s.core.sends, y.peer = p → ∃ q ∈ (t.core.bankOf y.bank).pending, q.cause = 0x11 ∧ q.seq = y.issue ∧
        q.tval = BitVec.ofNat 64 (p + (((s.portEntry p).1.map Port.port).getD 0) * 2 ^ 8))) ∧
  (∀ (s : State) (peer : BitVec 5), let x := s.peer peer.toNat
    (x.out = [] → exec (.resendTimeout peer) s = .next (s.portEntry peer.toNat).2) ∧
    (x.out ≠ [] → s.now < x.moved + (((s.portEntry peer.toNat).1.map Port.rto).getD 1000) * 5 / 2 → ∃ t,
      exec (.resendTimeout peer) s = .next t ∧ t.peers = s.peers ∧ t.wire = s.wire ∧
      t.calendar.any (fun e => e.event = .resendTimeout peer) = true)) ∧
  -- a Skomon link: sixteen failed retries in a row declare it down
  (∀ (s : State) (src dst : BitVec 2), let k := 4 * src.toNat + dst.toNat
    let n := SMap.get 0 s.links k
    (∃ t, exec (.skomonFlitReceive src dst false) s = .next t ∧ t.core = s.core ∧ SMap.get 0 t.links k = if n < 17 then 0 else n) ∧
    (∃ t, exec (.skomonFlitReceive src dst true) s = .next t ∧ t.core = s.core ∧ SMap.get 0 t.links k = min (n + 1) 18 ∧
      (n + 1 ≠ 17 → t.log = s.log) ∧ (n + 1 = 17 → ∃ e, t.log.head? = some e ∧ e.kind = 6 ∧ e.unit = src.toNat)))

/-! ### Launches, tasks and the strandline -/

/-- 02 R22-R25, R32, 20 R317, 24 R391: SPAWN, and how the dispatchers take the records of queues and spawners.

02 R25-R29, R33, R34, R39: a group's placement, starvation, and the end of a task.

Where the rules leave a reading open it takes that of notes/assumptions/36.md and notes/assumptions/37.md. -/
def Obligations.Launches : Prop :=
  ((∀ (s : State) (a b : GReg),
      let x := (s.g a).toNat
      let y := (s.g b).toNat
      let die := s.core.id / 64
      let good : Prop := x < 2 ^ 21 ∧ x % 128 = 0 ∧ (y < 2 ^ 56 ∨ y = 2 ^ 63)
      (¬ good → exec (.spawn a b) s = .next (s.takeTrap (violation 10))) ∧
      (∀ dest, good → DestOk s y dest → s.partsThere ((blocksOf x 128).map Part.spad) = .ok () →
        ((s.spawns.filter fun r => r.src.die = die).length < 64 → ∃ t r, exec (.spawn a b) s = .next t ∧
          t.spawns = s.spawns ++ [r] ∧ r.num = s.launchNum ∧ t.launchNum = s.launchNum + 1 ∧ r.words = s.core.spad.read x 128 ∧
          r.src.origin = .spawn dest ∧ r.src.die = die ∧ r.core = s.core.id ∧ r.issue = s.core.seq ∧ r.at' = s.now ∧ t.core = s.core ∧
          (∀ k, s.core.task = some k → r.src.fn = k.fn ∧ r.src.prio = k.prio ∧ r.src.ctx = k.ctx) ∧
          t.calendar.any (fun e => e.event = .spawnRelease (BitVec.ofNat 2 die)) = true) ∧
        (64 ≤ (s.spawns.filter fun r => r.src.die = die).length →
          exec (.spawn a b) s = .next { s with holding := some (24, false) }))) ∧
    (∀ (s : State) (q : BitVec 12),
      let n := q.toNat
      let w := s.queue n
      let may : Prop := s.cryo.released = true ∧ w.en = true ∧ w.stopped = false ∧ w.unread ≠ 0 ∧ w.room = true
      (¬ may → exec (.launchAccept q) s = .next s) ∧
      (may → s.hostRead w.func w.under (w.rbase + 128 * (w.head % 2 ^ w.logn)) 128 = none → ∃ t, exec (.launchAccept q) s = .next t ∧
        (t.queue n).stopped = true ∧ (t.queue n).err.testBit 1 = true ∧ (t.queue n).head = w.head ∧ t.launches = s.launches) ∧
      (∀ x, may → s.hostRead w.func w.under (w.rbase + 128 * (w.head % 2 ^ w.logn)) 128 = some x → ∃ t, exec (.launchAccept q) s = .next t ∧
        (t.queue n).head = (w.head + 1) % 2 ^ 32 ∧ t.launchNum = s.launchNum + 1 ∧
        let u := { (s.onQueue n fun w => { w with head := (w.head + 1) % 2 ^ 32 }) with launchNum := s.launchNum + 1 }
        let l := parseLaunch s.launchNum (w.source n) x
        Accepted u t l (u.template l.src) (u.recordOk l x) (s.now + 749) ∧ ∃ e ∈ t.calendar, e.at' = s.now + 749 ∧ e.event = .groupPlacement)) ∧
    (∀ (s : State) (die : BitVec 2),
      let waits (r : Machine.Spawn) : Prop := (s.coreOf r.core).storesBefore 2 r.issue = true
      ∃ t, exec (.spawnRelease die) s = .next t ∧
        (∀ r, r ∈ t.spawns ↔ r ∈ s.spawns ∧ (r.src.die = die.toNat → waits r)) ∧
        ((∀ r ∈ s.spawns, r.src.die = die.toNat → waits r) → t.launches = s.launches ∧ t.core = s.core ∧
          ((∃ r ∈ s.spawns, r.src.die = die.toNat) → t.calendar.any (fun e => e.event = .spawnRelease die) = true)) ∧
        (∀ r, s.spawns = [r] → r.src.die = die.toNat → ¬ waits r →
          let u := { s with spawns := [] }
          let l := parseLaunch r.num r.src r.words
          let due := max s.now (r.at' + 62)
          Accepted u t l (u.template l.src) (u.recordOk l r.words) due ∧ ∃ e ∈ t.calendar, e.at' = due ∧ e.event = .groupPlacement))) ∧
  (
    -- the one group of the one launch that waits
    (∀ (s : State) (l : Launch) (pos : Nat),
      s.launches = [l] → s.saved = [] → l.deps = [] → l.due ≤ s.now → s.mayPlace l.src.diag = true → l.next = 0 → l.waiting = [] → l.ntask = l.gsize →
      (l.det = true → pos = l.position 0) → (l.det = false → s.search [] l = some pos) →
      let free : Prop := ∀ n ∈ posCores l.gsize pos, s.vacant n = true ∧ n ∉ s.retired
      (free → s.busTaken l (posCores l.gsize pos) = false → ∃ t, exec .groupPlacement s = .next t ∧
        (∀ i < l.gsize, let c := t.coreOf (pos * l.gsize + i)
          c.running = true ∧ (∃ k, c.task = some k ∧ k.launch = l.id ∧ k.first = pos * l.gsize ∧ k.size = l.gsize ∧ k.index = i ∧
            k.image = l.image ∧ k.imlen = l.imlen) ∧
          c.bank.use = .task ∧ c.bank.pc = (l.image + l.entry) % 2 ^ 40 ∧ c.bank.g = [] ∧ c.bank.p = [] ∧ c.bank.v = [] ∧ c.bank.t = [] ∧
          c.bank.sys.wid = BitVec.ofNat 64 (l.wid i) ∧ c.bank.sys.taskix = BitVec.ofNat 64 i ∧ c.bank.sys.lseed = BitVec.ofNat 64 l.lseed ∧
          c.bank.sys.bgrp = BitVec.ofNat 64 l.bgrp ∧ c.bank.sys.tvec = BitVec.ofNat 64 l.tmpl.tvec) ∧
        ∃ m ∈ t.launches, m.id = l.id ∧ m.started = true ∧ m.waiting = []) ∧
      (l.det = true → (∃ n ∈ posCores l.gsize pos, s.vacant n = false) → (∀ n ∈ posCores l.gsize pos, (s.coreOf n).preemptible l.level = false) →
        ∃ t, exec .groupPlacement s = .next t ∧ (∀ n, (t.coreOf n).task = (s.coreOf n).task) ∧
          ∃ m ∈ t.launches, m.id = l.id ∧ m.waiting = [(0, pos)])) ∧
    -- starvation
    (∀ (s : State) (n : BitVec 64),
      (s.launch? n.toNat = none → exec (.starvationBound n) s = .next s) ∧
      (∀ l, s.launch? n.toNat = some l →
        (l.ntask ≤ l.next * l.gsize → l.waiting = [] → exec (.starvationBound n) s = .next s) ∧
        (l.next * l.gsize < l.ntask ∨ l.waiting ≠ [] → ∃ t m, exec (.starvationBound n) s = .next t ∧ m ∈ t.launches ∧ m.id = l.id ∧
          m.level = min 7 (l.level + 1) ∧ t.calendar.any (fun e => e.event = .groupPlacement) = true))) ∧
    -- a task of a group of one ends
    (∀ (s : State) (core : BitVec 8) (k : Task) (l : Launch), let u := s.focus core.toNat
      u.core.task = some k → u.launch? k.launch = some l → (∀ m ∈ s.launches, m.id = l.id → m = l) →
      u.groupCores u.core = [u.core] →
      (∀ m ∈ s.launches, l.tag ∉ m.deps) →
      ∃ t, exec (.taskEnd core false) s = .next t ∧ (t.coreOf core.toNat).running = false ∧ (t.coreOf core.toNat).task = none ∧
        (l.ended + 1 + l.dead ≠ l.ntask → ∃ m ∈ t.launches, m.id = l.id ∧ m.ended = l.ended + 1 ∧
          m.trig = if u.core.bank.trig = true ∧ u.core.bank.trigAt = none then l.trig else l.trig + 1) ∧
        (l.ended + 1 + l.dead = l.ntask → LaunchEnds s t l (if l.bad then 4 else 0))) ∧
    (∀ (s : State) (core : BitVec 8) (dead : Bool), (s.focus core.toNat).core.task = none →
      exec (.taskEnd core dead) s = .next (s.focus core.toNat)) ∧
    -- a group of one is terminated
    (∀ (s : State) (core : BitVec 8) (k : Task) (l : Launch), let u := s.focus core.toNat
      u.core.task = some k → u.launch? k.launch = some l → (∀ m ∈ s.launches, m.id = l.id → m = l) → u.core.taskBank.use = .task →
      u.groupCores u.core = [u.core] →
      l.ended + (l.dead + 1) ≠ l.ntask →
      ∃ t, exec (.taskEnd core true) s = .next t ∧ (t.coreOf core.toNat).running = false ∧ (t.coreOf core.toNat).task = none ∧
        ∃ m ∈ t.launches, m.id = l.id ∧ m.dead = l.dead + 1 ∧ m.bad = true))

/-- 15 R273-R278, 19 R300: a checkpoint's save, a resume, and module reset.

Where the rules leave a reading open it takes that of notes/assumptions/39.md and notes/assumptions/44.md. -/
def Obligations.CheckpointAndReset : Prop :=
  (∀ (s : State) (core : BitVec 8) (p : Preempt) (k : Task),
    let n := core.toNat
    let c := s.coreOf n
    let a := c.bank.area + 0x100000 + k.prio * 0x400000
    c.preempt = some p → c.task = some k →
    (p.stopped = false → exec (.checkpointSaveComplete core) s = .next s) ∧
    (p.stopped = true → s.domainCores c = [c] → c.bank.use = .task → a + 0x400000 ≤ hbmSize → ∃ t,
      exec (.checkpointSaveComplete core) s = .next t ∧
      (∃ x, t.saved = s.saved ++ [x] ∧ x.launch = k.launch ∧ x.prio = k.prio ∧ x.cores = [c]) ∧
      (∀ j < 0x200000, t.hbm.byte (a + 0x200000 + j) = c.spad.byte j) ∧ (∀ j < 0x100000, t.hbm.byte (a + 0x100000 + j) = c.wbuf.byte j) ∧
      (∀ b, b < a ∨ (a + 0x14000 ≤ b ∧ b < a + 0x20000) ∨ (a + 0xC0000 ≤ b ∧ b < a + 0x100000) ∨ a + 0x400000 ≤ b →
        t.hbm.byte b = s.hbm.byte b) ∧
      (c.bank.sys.tvec = 0 → (t.coreOf n).task = none ∧ (t.coreOf n).running = false) ∧
      (c.bank.sys.tvec ≠ 0 → let d := t.coreOf n
        d.running = true ∧ d.bank.use = .supervisor ∧ d.bank.pc = c.bank.sys.tvec.toNat ∧ d.bank.sys.tcause = 0x14 ∧
        d.bank.sys.tpc = BitVec.ofNat 64 (c.bank.pc % 2 ^ 40) ∧
        d.bank.sys.tval = BitVec.ofNat 64 (1 + k.prio % 8 * 2 ^ 8 + p.tag * 2 ^ 16)))) ∧
  (∀ (s : State) (core : BitVec 8), (∀ x ∈ s.saved, x.cores.head?.map Core.id ≠ some core.toNat) → exec (.groupResume core) s = .next s) ∧
  (∀ (s : State) (core : BitVec 8) (x : Saved) (c : Core),
    s.saved.find? (fun x => x.cores.head?.map Core.id = some core.toNat) = some x → x.cores = [c] → c.bank.use = .task →
    ∃ t, exec (.groupResume core) s = .next t ∧ t.saved = s.saved.filter (· ≠ x) ∧
      let d := t.coreOf core.toNat
      let a := c.bank.area + 0x100000 + x.prio * 0x400000
      d.running = true ∧ d.task = c.task ∧ d.bank.pc = c.bank.pc ∧ d.bank.g = c.bank.g ∧ d.bank.p = c.bank.p ∧ d.bank.a = c.bank.a ∧
      d.bank.m = c.bank.m ∧ d.bank.vm = c.bank.vm ∧ d.bank.lc = c.bank.lc ∧
      (∀ j < 0x200000, d.spad.byte j = s.hbm.byte (a + 0x200000 + j)) ∧ (∀ j < 0x100000, d.wbuf.byte j = s.hbm.byte (a + 0x100000 + j)) ∧
      t.calendar.any (fun e => e.event = .backgroundFill core) = true) ∧
  (∀ s : State, ∃ t, exec .moduleReset s = .next t ∧ t.core = State.reset.core ∧ t.others = [] ∧ t.hbm = [] ∧ t.launches = [] ∧
    t.queues = State.reset.queues ∧ t.calendar = State.reset.calendar ∧ t.host = s.host ∧ t.iommu = s.iommu ∧ t.now = s.now)

/-- 12 R234, R238-R240, 24 R386: SLMARK, its ring entries, and the end of the walk.

Where the rules leave a reading open it takes that of notes/assumptions/24.md and notes/assumptions/40.md. -/
def Obligations.Strandline : Prop :=
  (∀ (s : State) (a : GReg),
    let x := (s.g a).toNat
    let r := s.core.bank.sys
    let ctl := r.slctl.toNat
    let p := s.core.path
    let len := p.l + (s.now - p.at')
    let hops := p.chain.length
    (1 < x → exec (.slmark a) s = .next (s.takeTrap (violation 10))) ∧
    (x = 0 → ∃ t, exec (.slmark a) s = .next t ∧ t = { s with core := { s.core with path := { l := 0, at' := s.now, chain := [] } } }) ∧
    (x = 1 → ctl.testBit 2 = true → exec (.slmark a) s = .next { s with holding := some (23, false) }) ∧
    (x = 1 → ctl.testBit 2 = false → ∃ t, exec (.slmark a) s = .next t ∧
      t.core.sllen = BitVec.ofNat 64 len ∧ t.core.slhop = BitVec.ofNat 64 (hops % 65536) ∧ t.core.path = p ∧
      SameRegisters t.core.bank s.core.bank ∧
      (ctl.testBit 0 = false → t.hbm = s.hbm ∧ t.core.bank.sys.slctl = r.slctl) ∧
      (ctl.testBit 0 = true →
        let ring := r.slbase.toNat / 2 ^ 6 % 2 ^ 34 * 64
        let n := s.hbm.read ring 8
        let at' (k : Nat) : Nat := ring + 64 + 32 * ((n + k) % 65536)
        t.hbm.read ring 8 = (n + hops + 1) % 2 ^ 64 ∧
        t.core.bank.sys.slctl.toNat.testBit 2 = true ∧ t.core.bank.sys.slctl.toNat / 2 ^ 32 % 2 ^ 16 = (n + hops) % 65536 ∧
        t.calendar.any (fun e => e.event = .strandlineWalkComplete (BitVec.ofNat 8 s.core.id) (BitVec.ofNat 1 s.core.bank.id)) = true ∧
        -- the end entry
        t.hbm.read (at' hops) 8 = s.count0 s.now % 2 ^ 64 ∧
        t.hbm.read (at' hops + 8) 8 = 0x11 * 2 ^ 40 + s.core.id % 256 * 2 ^ 48 ∧
        t.hbm.read (at' hops + 24) 8 = len % 2 ^ 64 ∧
        -- the hops, none of them overwritten in its buffer
        ((∀ e ∈ p.chain, SMap.get 0 s.edgeNum e.die ≤ e.num + 4096) →
          t.hbm.read (at' hops + 16) 8 = s.core.id % 2 ^ 32 + hops % 65536 * 2 ^ 32 ∧
          (hops < 65536 → ∀ k e, p.chain[k]? = some e →
            t.hbm.read (at' k) 8 = s.count0 e.time % 2 ^ 64 ∧ t.hbm.read (at' k + 24) 8 = e.l % 2 ^ 64 ∧
            t.hbm.read (at' k + 16) 8 = e.pid % 2 ^ 32 + k % 65536 * 2 ^ 32))))) ∧
  (∀ (s : State) (core : BitVec 8) (bank : BitVec 1), ∃ t, exec (.strandlineWalkComplete core bank) s = .next t ∧ t.hbm = s.hbm ∧
    let x := (bankIn s core.toNat bank.toNat).sys.slctl.toNat
    let y := (bankIn t core.toNat bank.toNat).sys.slctl.toNat
    y.testBit 2 = false ∧ ∀ k < 64, k ≠ 2 → y.testBit k = x.testBit k)

/-! ### The stack engines -/

/-- 13 R242-R245: BDRED, BDIDX and BDTOPK as they issue, and an engine that takes its next command.

13 R246-R250, R432: what a stack engine writes: a BDRED, one command of a BDIDX and one row of a BDTOPK without options, and
the completion line; the engine then goes on to its next command.

Where the rules leave a reading open it takes that of notes/assumptions/35.md. -/
def Obligations.StackEngines : Prop :=
  ((∀ (s : State) (a b : GReg) (kind least : Nat) (i : Instr),
      (kind = 0 ∧ least = 192 ∧ i = .bdred a b) ∨ (kind = 1 ∧ least = 64 ∧ i = .bdidx a b) ∨ (kind = 2 ∧ least = 128 ∧ i = .bdtopk a b) →
      s.xFree = .ok () →
      let x := (s.g a).toNat
      let y := (s.g b).toNat
      let tid := x % 2 ^ 32
      let c := x / 2 ^ 32
      let bad : TrapReq := own 0x0B (tid + 10 * 2 ^ 32 + 0xFF * 2 ^ 40)
      (2 ^ 56 ≤ x ∨ 12 ≤ y → exec i s = .next (s.takeTrap (violation 10))) ∧
      (∀ d, x < 2 ^ 56 → y < 12 → s.desc tid = .ok d → ¬ BlockTensor s tid c least d → exec i s = .next (s.takeTrap bad)) ∧
      (∀ d, x < 2 ^ 56 → y < 12 → BlockTensor s tid c least d → s.permit tid d .read = .ok () →
        let self : EngineRef := { off := 0, tid := tid, desc := d, coord := c }
        s.blockThere self (blockLen kind 0) = .ok () →
        -- the block's read: one hold until it returns
        (s.core.fetchedOf fetchParams (tid * 2 ^ 24 + c) = none → ∃ t, exec i s = .next t ∧ t.holding = some (21, false) ∧ t.core = s.core ∧
          t.calendar.any (fun e => e.event = .parameterBlockRead (BitVec.ofNat 8 s.core.id) (BitVec.ofNat 32 tid) (BitVec.ofNat 24 c)) = true) ∧
        (∀ data, s.core.fetchedOf fetchParams (tid * 2 ^ 24 + c) = some data →
          let blk : Block := { tid := tid, data := data }
          let nline := data % 2 ^ 32
          (kind = 1 → d.ext0 < c + 64 + 64 * nline → 1 ≤ nline → nline ≤ 63 → exec i s = .next (s.takeTrap bad)) ∧
          (kind = 0 → nline < 2 ∨ 16 < nline → exec i s = .next (s.takeTrap (own 0x0B (tid + 10 * 2 ^ 32)))) ∧
          (∀ p sp, (kind = 1 → c + 64 + 64 * nline ≤ d.ext0) → s.blockThere self (blockLen kind nline) = .ok () → fieldsOf s kind blk = .ok p →
            (∀ r ∈ p.refs, s.permit r.1.tid r.1.desc r.2 = .ok ()) →
            p.extents.foldl (fun (r : Chk (List SpanEntry)) e => r.bind fun acc => s.pin acc e) (.ok []) = .ok sp →
            -- the block and the operands known at issue meet no race, and no link on the way to the stack is down
            (∀ e ∈ ({ ref := self, off := self.at 0, len := blockLen kind nline, mode := .read } : Extent) :: p.extents,
              s.raceCheck e.ref.tid e.ref.desc (if e.mode = .read then .read else .write) (s.extentLocs e) = .ok ()) →
            s.reaches (y * 2 ^ 36) = .ok () → (s.engine y).lines + p.lines ≤ 64 → ∃ t q, exec i s = .next t ∧ (t.engine y).queue = (s.engine y).queue ++ [q] ∧
              (t.engine y).busy = (s.engine y).busy ∧ q.kind = kind ∧ q.block = data ∧ q.refs = p.refs.map Prod.fst ∧ q.spans = sp ∧
              q.path = s.core.path ∧ t.core.xBusy = s.core.cpy.cycles + 1 ∧ t.core.bank = s.core.bank ∧ SameOuterMemory s t ∧
              ((s.engine y).busy = false →
                t.calendar.any (fun e => e.event = .engineCommandStart (BitVec.ofNat 4 y)) = true))))) ∧
    -- the fields of a BDRED that is sent
    (∀ (s : State) (b : Block) (p : Parsed), s.parseRed b = .ok p →
      2 ≤ b.get 0 4 ∧ b.get 0 4 ≤ 16 ∧ 64 ≤ b.get 4 4 ∧ b.get 4 4 ≤ 262144 ∧ b.get 4 4 % 64 = 0 ∧ b.get 0x18 8 ≠ 0 ∧ b.get 0x20 32 = 0 ∧
      ∀ e ∈ p.extents, e.mode = .read ∨ e.mode = .write) ∧
    (∀ (s : State) (stack : BitVec 4), let e := s.engine stack.toNat
      (e.busy = true ∨ e.queue = [] → exec (.engineCommandStart stack) s = .next s) ∧
      (e.busy = false → e.queue ≠ [] → ∃ t, exec (.engineCommandStart stack) s = .next t ∧ (t.engine stack.toNat).busy = true ∧
        (t.engine stack.toNat).queue = e.queue ∧ t.core = s.core ∧ SameOuterMemory s t ∧
        t.calendar.any (fun x => x.event = .engineCommandComplete stack false []) = true))) ∧
  -- where `err` is set, `bad` lists the HBM addresses of the bytes that the engine found uncorrectable
  (∀ (s : State) (stack : BitVec 4) (err : Bool) (bad : List (BitVec 40)),
      let e := s.engine stack.toNat
      let spoilt (a : Nat) : Prop := err = true ∧ a ∈ bad.map BitVec.toNat
      (e.busy = false ∨ e.queue = [] → exec (.engineCommandComplete stack err bad) s = .next s) ∧
      (∀ c rest, e.busy = true → e.queue = c :: rest → ∃ t, exec (.engineCommandComplete stack err bad) s = .next t ∧
        t.engine stack.toNat = { queue := rest, busy := false } ∧ t.core.bank = s.core.bank ∧
        (rest ≠ [] → t.calendar.any (fun x => x.event = .engineCommandStart stack) = true) ∧
        -- BDRED
        (c.kind = 0 →
          let nbuf := c.get 0 4
          let len := c.get 4 4
          let dst := c.ref 8
          let cpl := c.ref 0x10
          let src (k : Nat) : EngineRef := c.ref (0x40 + 8 * k)
          len % 64 = 0 → dst.desc.tag = 1 → (∀ k < nbuf, (src k).desc.tag = 1) → nbuf ≤ 16 →
          ∀ (fd fc : Nat → Nat) (fs : Nat → Nat → Nat),
          Pinned c dst (dst.at 0) (4 * len) fd → Pinned c cpl (cpl.at 0) 64 fc →
          (∀ k < nbuf, ∀ j < 4 * len, ∃ x, findSpan c.spans (src k).tid ((src k).at 0 + j) = some x ∧
            fs k j = spanFrame x.raw + ((src k).at 0 + j - x.start)) →
          Apart (4 * len) 64 fd fc → (∀ k < nbuf, Apart (4 * len) (4 * len) fd (fs k)) →
          -- a line of 64 elements with an uncorrectable byte in a source
          let lost (line : Nat) : Prop := ∃ k < nbuf, ∃ b < 256, spoilt (fs k (256 * line + b))
          (∀ j < len, ¬ lost (j / 64) → HoldsWord t fd j (pairSum32 ((List.range nbuf).map fun k =>
            ((List.range 4).map fun b => (s.hbm.byte (fs k (4 * j + b))).toNat * 256 ^ b).sum))) ∧
          (∀ j < len, lost (j / 64) → ∀ b < 4, t.hbm.byte (fd (4 * j + b)) = s.hbm.byte (fd (4 * j + b))) ∧
          ((∀ n < len / 64, ¬ lost n) → CompletionLine t fc (c.get 0x18 8) 0 0 0) ∧
          -- FIRST is the first of the lines not written
          (∀ n < len / 64, lost n → (∀ m < n, ¬ lost m) → CompletionLine t fc (c.get 0x18 8) 1 0 n) ∧
          (∀ a, (∀ j < 4 * len, fd j ≠ a) → (∀ k < 64, fc k ≠ a) → t.hbm.byte a = s.hbm.byte a) ∧
          ∃ f ∈ t.flags, f.stack = stack.toNat ∧ f.addr = fc 0 ∧ f.path = c.path) ∧
        -- BDIDX
        (∀ k, c.kind = 1 → (err = true → bad = []) → idxCmds c.block (c.get 0 4) = [k] →
          let len := c.get 4 4
          let table := c.ref 8
          let list := c.ref 0x10
          let out := c.ref 0x18
          let cpl := c.ref 0x20
          out.desc.tag = 1 → table.desc.tag = 1 ∨ table.desc.tag = 2 → k.cnt ≤ 2047 →
          ∀ fo fc : Nat → Nat, Pinned c out (out.cell k.row 0) (4 * len) fo → Pinned c cpl (cpl.at 0) 64 fc → Apart (4 * len) 64 fo fc →
          let idx (n : Nat) : Int := signed 32 (c.read s.hbm list (list.at (k.p + n)) 4)
          let outside (n : Nat) : Bool := decide (idx n < 0 ∨ (table.desc.ext1 : Int) ≤ table.coord + idx n)
          let width := if table.desc.tag = 2 then 2 else 4
          let elt (n e : Nat) : Nat := if outside n then 0 else
            c.read s.hbm table (table.cell (idx n).toNat e) width * (if table.desc.tag = 2 then 2 ^ 16 else 1)
          let absent (n : Nat) : Prop := outside n = false ∧ ∃ b < len * width, c.addr s.hbm table (table.cell (idx n).toNat 0 + b) = none
          let aux := ((List.range k.cnt).filter outside).length
          -- OUT's row holds nothing that the list, the table or its span table feeds
          (∀ m : Memory, (∀ a, (∀ j < 4 * len, fo j ≠ a) → m.byte a = s.hbm.byte a) → ∀ n < k.cnt,
            c.read m list (list.at (k.p + n)) 4 = c.read s.hbm list (list.at (k.p + n)) 4 ∧
            (outside n = false → ∀ e < len, c.read m table (table.cell (idx n).toNat e) width = c.read s.hbm table (table.cell (idx n).toNat e) width)) →
          ((∀ n < k.cnt, ¬ absent n) →
            (∀ e < len, HoldsWord t fo e (pairSum32 ((List.range k.cnt).map fun n => elt n e))) ∧ CompletionLine t fc (c.get 0x28 8) 0 aux 0) ∧
          ((∃ n < k.cnt, absent n) → (∀ j < 4 * len, t.hbm.byte (fo j) = s.hbm.byte (fo j)) ∧
            CompletionLine t fc (c.get 0x28 8) 2 aux (k.pos % 2 ^ 32))) ∧
        -- BDTOPK
        (c.kind = 2 → (err = true → bad = []) → c.get 0 4 = 1 → c.get 9 1 = 0 →
          let len := c.get 4 4
          let k := c.get 8 1
          let logits := c.ref 0x10
          let oi := c.ref 0x18
          let ow := c.ref 0x20
          let cpl := c.ref 0x28
          oi.desc.tag = 8 → ow.desc.tag = 1 →
          ∀ fi fw fc : Nat → Nat, Pinned c oi (oi.cell 0 0) (4 * k) fi → Pinned c ow (ow.cell 0 0) (4 * k) fw → Pinned c cpl (cpl.at 0) 64 fc →
          Apart (4 * k) (4 * k) fi fw → Apart (4 * k) 64 fi fc → Apart (4 * k) 64 fw fc → len < 2 ^ 32 →
          let v (e : Nat) : Nat := c.read s.hbm logits (logits.cell 0 e) 4
          ∃ sel : List Nat, sel.length = min k len ∧ sel.Nodup ∧ (∀ e ∈ sel, e < len) ∧
            sel.Pairwise (fun x y => topBefore (v x, x) (v y, y) = true) ∧
            (∀ e < len, e ∉ sel → ∀ x ∈ sel, topBefore (v x, x) (v e, e) = true) ∧
            (∀ a < k, HoldsWord t fi a (sel.getD a (2 ^ 32 - 1)) ∧ HoldsWord t fw a ((topWeights (sel.map v)).getD a 0)) ∧
            CompletionLine t fc (c.get 0x30 8) 0 (k - min k len) 0)))

/-! ### Sampling -/

/-- 17 R286-R289, 24 R388, R393, R394: the candidate register file.

17 R290-R295, 24 R380, R382, R387, R392: SDRAW, SMATCH, SPEN and SACCEPT.

Where the rules leave a reading open it takes that of notes/assumptions/34.md. -/
def Obligations.Sampling : Prop :=
  (∀ (s : State) (k : BitVec 4) (a : GReg) (v : VReg),
      let x := (s.g a).toNat
      let row := s.crf k.toNat
      let rows (t : State) (r : CrfRow) : Prop := t.crf k.toNat = r ∧ ∀ j, j ≠ k.toNat → t.crf j = s.crf j
      let same (t : State) : Prop := SameRegisters t.core.bank s.core.bank ∧ t.core.bank.inflight = s.core.bank.inflight ∧ t.groups = s.groups
      let lane (j : Nat) : Nat := ((s.v v).at j).toNat
      let admitted (base j : Nat) : Bool := decide (base + j < s.core.bank.sys.svoc.toNat) && !(v32 (lane j)).isNan
      let sorted (l : List (Nat × Nat)) : Prop := l.Pairwise fun e f => before f e = false
      -- SRESET
      (x / 2 ^ 9 % 2 ^ 23 ≠ 0 → exec (.sreset k a) s = .next (s.takeTrap (violation 10))) ∧
      (x / 2 ^ 9 % 2 ^ 23 = 0 → x.testBit 8 = true → ∃ t, exec (.sreset k a) s = .next t ∧ rows t { entries := [], m := 0xFF800000, sum := 0, bound := none } ∧ same t) ∧
      (x / 2 ^ 9 % 2 ^ 23 = 0 → x.testBit 8 = false →
        (s.bgrp = none ∨ s.rqEn = false → exec (.sreset k a) s = .next (s.takeTrap (requestFault 1))) ∧
        (s.bgrp ≠ none → s.rqEn = true → ∃ t, exec (.sreset k a) s = .next t ∧
          rows t { entries := [], m := 0xFF800000, sum := 0, bound := some (x % 2 ^ 8, x / 2 ^ 32) } ∧ same t)) ∧
      -- SMERGE
      (s.tag v ≠ 1 → exec (.smerge k a v) s = .next (s.takeTrap (tagMismatch (v.val + s.tag v * 2 ^ 8))) ∧
        exec (.ssoft k v) s = .next (s.takeTrap (tagMismatch (v.val + s.tag v * 2 ^ 8)))) ∧
      (s.tag v = 1 → 2 ^ 32 ≤ x → exec (.smerge k a v) s = .next (s.takeTrap (violation 10))) ∧
      (s.tag v = 1 → x < 2 ^ 32 →
        (∀ slot id, row.bound = some (slot, id) → s.rowLive slot = false → exec (.smerge k a v) s = .next s) ∧
        ((∀ slot id, row.bound = some (slot, id) → s.rowLive slot = true) → sorted row.entries →
          (∀ e ∈ row.entries, (v32 e.1).isNan = false) → ∃ t l, exec (.smerge k a v) s = .next t ∧
          rows t { row with entries := l.take 64 } ∧ same t ∧ sorted l ∧
          l.Perm (row.entries ++ ((List.range 64).filter (admitted x)).map fun j => (lane j, x + j)) ∧
          t.core.bank.sys = (if (List.range 64).any fun j => (v32 (lane j)).isNan then
            { s.core.bank.sys with sstat := s.core.bank.sys.sstat ||| 1 } else s.core.bank.sys))) ∧
      -- SSOFT
      (s.tag v = 1 →
        (∀ slot id, row.bound = some (slot, id) → s.rowLive slot = false → exec (.ssoft k v) s = .next s) ∧
        ((∀ slot id, row.bound = some (slot, id) → s.rowLive slot = true) →
          let xs := ((List.range 64).filter (admitted 0)).map lane
          let mn := max32 row.m ((pairwise max32 6 xs).headD negInf32)
          ∃ t, exec (.ssoft k v) s = .next t ∧ same t ∧ t.core.bank.sys = s.core.bank.sys ∧
            (mn = negInf32 → rows t row) ∧ (mn = posInf32 → rows t { row with m := posInf32, sum := Fmt.fp32.defaultNan }) ∧
            (mn ≠ negInf32 → mn ≠ posInf32 → rows t { row with m := mn
                                                               sum := add32 (mul32 row.sum (expW (sub32 row.m mn)))
                                                                 (pairSum32 (xs.map fun y => expW (sub32 y mn))) })))) ∧
  (
    -- SDRAW
    (∀ (s : State) (d a : GReg) (k : BitVec 4) (b slot id : Nat),
      s.bgrp = some b → s.rqEn = true →
      let x := (s.g a).toNat
      let row := s.crf k.toNat
      let seat := (s.group b).seat slot
      let gives (t : State) (w : Word) : Prop := t.core.bank.inflight = s.core.bank.inflight ++ [s.result (.g d w) .ctl 6] ∧
        SameRegisters t.core.bank s.core.bank ∧ t.core.bank.crf = s.core.bank.crf
      (64 ≤ x → exec (.sdraw d a k) s = .next (s.takeTrap (requestFault 4))) ∧
      (x < 64 → row.bound = none → exec (.sdraw d a k) s = .next (s.takeTrap (requestFault 6))) ∧
      (x < 64 → row.bound = some (slot, id) →
        (s.rowLive slot = false ∨ (∀ r, seat = some r → r.rqid ≠ id ∨ isBreakwater r.fcode = true) → ∃ t,
          exec (.sdraw d a k) s = .next t ∧ gives t (BitVec.allOnes 64) ∧ t.groups = s.groups ∧
          t.core.bank.sys.sstat = s.core.bank.sys.sstat) ∧
        (∀ r, s.rowLive slot = true → seat = some r → r.rqid = id → isBreakwater r.fcode = false → ∃ t w,
          exec (.sdraw d a k) s = .next t ∧ gives t w ∧
          t.group b = (s.group b).write { slot := slot, rqid := id, words :=
            [(15, 2 ^ 32 - 1, row.m % 2 ^ 32), (15, (2 ^ 32 - 1) * 2 ^ 32, row.sum % 2 ^ 32 * 2 ^ 32)] } ∧
          let topk := r.word 8 / 2 ^ 56 % 2 ^ 7
          let temp := r.word 9 % 2 ^ 32
          let topp := r.word 9 / 2 ^ 32 % 2 ^ 32
          let es := row.entries.take topk
          (es = [] → w = 0xFFFFFFFF#64 ∧ t.core.bank.sys.sstat = s.core.bank.sys.sstat ||| 2) ∧
          (∀ e, es.head? = some e → t.core.bank.sys.sstat = s.core.bank.sys.sstat ∧
            (¬ (gt32 temp 0 = true ∧ (v32 temp).isFinite = true) ∨ e.1 = posInf32 → w = BitVec.ofNat 64 (e.2 % 2 ^ 32 + kOne * 2 ^ 32)) ∧
            (gt32 temp 0 = true → (v32 temp).isFinite = true → e.1 ≠ posInf32 →
              let ws := es.map fun f => if e.1 = negInf32 then kOne else expW (div32 (sub32 f.1 e.1) temp)
              ∃ cs : List Nat, cs.length = ws.length ∧ cs.head? = ws.head? ∧
                (∀ j, j + 1 < ws.length → cs.getD (j + 1) 0 = add32 (cs.getD j 0) (ws.getD (j + 1) 0)) ∧
                let last := cs.getD (ws.length - 1) 0
                let p := if gt32 topp 0 = true ∧ gt32 kOne topp = true then mul32 topp last else last
                ∃ astar pick, astar < ws.length ∧ pick ≤ astar ∧
                  (∀ j < astar, ge32 (cs.getD j 0) p = false) ∧ (ge32 (cs.getD astar 0) p = true ∨ astar + 1 = ws.length) ∧
                  let u := (mix (BitVec.ofNat 64 (r.word 12)) (r.word 13 + x)).toNat / 2 ^ 40
                  let thr := (Fmt.fp32.mulNum plain (.fin false u (-24)) (v32 (cs.getD astar 0))).bits
                  (∀ j < pick, gt32 (cs.getD j 0) thr = false) ∧ (gt32 (cs.getD pick 0) thr = true ∨ pick = astar) ∧
                  w = BitVec.ofNat 64 ((es.getD pick (0, 0)).2 % 2 ^ 32 + div32 (ws.getD pick 0) (cs.getD astar 0) * 2 ^ 32)))))) ∧
    -- a selector (17 R282)
    (∀ (s : State) (d a b : GReg) (v : VReg) (f : TrapReq), s.selector (s.g a).toNat = .error (.trap f) →
      exec (.smatch d a b) s = .next (s.takeTrap f) ∧ (s.tag v = 1 → exec (.spen v a b) s = .next (s.takeTrap f)) ∧
      (s.tag v = 8 → exec (.saccept d a v) s = .next (s.takeTrap f))) ∧
    (∀ (s : State) (x : Nat),
      (s.bgrp = none ∨ s.rqEn = false → s.selector x = .error (.trap (requestFault 1))) ∧
      (∀ b, s.bgrp = some b → s.rqEn = true →
        let g := s.group b
        let slot := x % 2 ^ 8
        (g.nslot ≤ slot → g.seat slot = none → s.selector x = .error (.trap (requestFault 2))) ∧
        (slot < g.nslot ∨ g.seat slot ≠ none → x / 2 ^ 8 % 2 ^ 24 ≠ 0 → s.selector x = .error (.trap (requestFault 4))) ∧
        (slot < g.nslot ∨ g.seat slot ≠ none → x / 2 ^ 8 % 2 ^ 24 = 0 → ∃ n, s.selector x = .ok n ∧ n.grp = b ∧ n.slot = slot ∧
          n.rqid = x / 2 ^ 32 ∧ ∀ r, n.seat = some r ↔ g.seat slot = some r ∧ r.rqid = x / 2 ^ 32))) ∧
    -- SMATCH
    (∀ (s : State) (d a b : GReg) (n : Named), s.selector (s.g a).toNat = .ok n →
      let y := (s.g b).toNat
      let cnt := y / 2 ^ 56 % 2 ^ 4
      let gives (t : State) (x : Nat) : Prop := t.core.bank.inflight = s.core.bank.inflight ++ [s.result (.g d (BitVec.ofNat 64 x)) .ctl 4]
      (7 < cnt ∨ 2 ^ 60 ≤ y → exec (.smatch d a b) s = .next (s.takeTrap (requestFault 4))) ∧
      (cnt ≤ 7 → y < 2 ^ 60 →
        ((∀ r, n.seat = some r → isBreakwater r.fcode = true ∨ r.word 8 / 2 ^ 4 % 2 ^ 3 = 0) ∨ cnt = 0 → ∃ t,
          exec (.smatch d a b) s = .next t ∧ gives t 0 ∧ t.groups = s.groups) ∧
        (∀ r, n.seat = some r → isBreakwater r.fcode = false → 0 < r.word 8 / 2 ^ 4 % 2 ^ 3 → 0 < cnt →
          let len (q : Nat) : Nat := r.word 8 / 2 ^ (8 + 6 * q) % 2 ^ 6
          let st (q : Nat) : Nat := min (r.word 8 / 2 ^ (32 + 6 * q) % 2 ^ 6) (len q - 1)
          ∃ t, exec (.smatch d a b) s = .next t ∧
            let m := matchBytes r ((List.range (r.word 8 / 2 ^ 4 % 2 ^ 3)).map st) ((List.range cnt).map fun i => y / 2 ^ (8 * i) % 2 ^ 8) 0 [] 0
            gives t (((List.range 4).map fun q => if m.2.1.contains q then 2 ^ q else 0).sum + m.2.2 * 2 ^ 8) ∧
            t.group n.grp = (s.group n.grp).write { slot := n.slot, rqid := n.rqid, words :=
              (m.1.zipIdx.map fun e => (8, (2 ^ 6 - 1) * 2 ^ (32 + 6 * e.2), e.1 % 2 ^ 6 * 2 ^ (32 + 6 * e.2))) ++
                (if m.2.1 ≠ [] ∧ r.fcode = 0 then [(0, 0xFF * 2 ^ 56, 0x11 * 2 ^ 56)] else []) }))) ∧
    -- one step of an automaton
    (∀ (r : Seat) (q ss b n : Nat), n ≤ ss + 1 →
      let at' (i : Nat) : Nat := if i = ss then b else r.sstr q i
      let ends (l : Nat) : Prop := ∀ i < l, at' (ss + 1 - l + i) = r.sstr q i
      let l := prefixStep r q ss b n
      l ≤ n ∧ ends l ∧ ∀ m, l < m → m ≤ n → ¬ ends m) ∧
    -- SPEN
    (∀ (s : State) (v : VReg) (a b : GReg) (n : Named) (tree : Nat), s.tag v = 1 → s.selector (s.g a).toNat = .ok n →
      let y := (s.g b).toNat
      let base := y % 2 ^ 32
      let node := y / 2 ^ 32 % 2 ^ 6
      let gives (t : State) (x : Words) : Prop := t.core.bank.inflight = s.core.bank.inflight ++ [s.result (.v v x (BitVec.allOnes 64) 1) .ctl 6] ∧
        t.groups = s.groups
      (2 ^ 39 ≤ y → exec (.spen v a b) s = .next (s.takeTrap (requestFault 4))) ∧
      (y < 2 ^ 39 → n.usable = none → ∃ t, exec (.spen v a b) s = .next t ∧ gives t (s.v v)) ∧
      (∀ r, y < 2 ^ 39 → n.usable = some r → r.draft + 512 ≤ hbmSize → (y.testBit 38 = true → s.draftTree r = .ok tree) →
        let path := if y.testBit 38 = true ∧ r.draft ≠ 0 ∧ ((depths tree 63).getD node none).isSome = true then pathTokens tree 64 node else []
        ∃ t z, exec (.spen v a b) s = .next t ∧ gives t z ∧ ∀ j < 64,
          let old := ((s.v v).at j).toNat
          let c := (r.history ++ path).count (base + j)
          (c = 0 ∨ s.core.bank.sys.svoc.toNat ≤ base + j ∨ (v32 old).isNan = true → z.at j = (s.v v).at j) ∧
          (c ≠ 0 → base + j < s.core.bank.sys.svoc.toNat → (v32 old).isNan = false →
            let rep := r.word 10 % 2 ^ 32
            let freq := r.word 10 / 2 ^ 32 % 2 ^ 32
            let pres := r.word 11 % 2 ^ 32
            (z.at j).toNat = sub32 (sub32 (if gt32 old 0 then div32 old rep else mul32 old rep)
              (mul32 freq (Fmt.fp32.ofNum (.fin false c 0)))) pres % 2 ^ 32))) ∧
    -- SACCEPT
    (∀ (s : State) (d a : GReg) (v : VReg) (n : Named), s.tag v = 8 → s.selector (s.g a).toNat = .ok n →
      let trims (k : Nat) : List Result := if s.core.bank.sys.sctrim.toNat.testBit 0 then
        (List.range 4).map fun i => s.result (.p (s.core.bank.sys.sctrim.toNat / 2 ^ 2 % 2 ^ 4 + i)
          (decide (s.core.bank.sys.sctrim.toNat / 2 ^ (6 + 6 * i) % 2 ^ 6 < k))) .ctl 8 else []
      let gives (t : State) (k : Nat) : Prop :=
        t.core.bank.inflight = s.core.bank.inflight ++ [s.result (.g d (BitVec.ofNat 64 k)) .ctl 8] ++ trims k
      (n.seat = none → ∃ t, exec (.saccept d a v) s = .next t ∧ gives t 0 ∧ t.groups = s.groups) ∧
      (∀ r, n.seat = some r → r.draft + 512 ≤ hbmSize →
        let left := r.word 2 % 2 ^ 24
        (r.fcode ≠ 0 ∨ left = 0 → ∃ t, exec (.saccept d a v) s = .next t ∧ gives t 0 ∧ t.groups = s.groups) ∧
        (r.fcode = 0 → left ≠ 0 → 0 < r.prefill → ∃ t, exec (.saccept d a v) s = .next t ∧ gives t 0 ∧ t.groups = s.groups ∧
          t.core.bank.sys.sstat = s.core.bank.sys.sstat ||| 4) ∧
        (∀ tree, r.fcode = 0 → left ≠ 0 → r.prefill = 0 → s.draftTree r = .ok tree → (s.group n.grp).boundary = none →
          (s.group n.grp).seat n.slot = some r → r.rqid = n.rqid → ∃ t q, exec (.saccept d a v) s = .next t ∧
          let inTree := if r.draft = 0 then [some 0] else depths tree 63
          let stops := (List.range (r.word 8 % 2 ^ 4)).map fun q => r.word (4 + q / 2) / 2 ^ (32 * (q % 2)) % 2 ^ 32
          let run := cutAtStop stops ((acceptRun tree inTree (fun j => ((s.v v).at j).toNat) 64 0).take left)
          let k := run.1.length
          gives t k ∧ (t.group n.grp).seat n.slot = some q ∧ 1 ≤ k ∧ k ≤ 64 ∧
          q.word 1 % 2 ^ 32 = (r.word 1 % 2 ^ 32 + k) % 2 ^ 32 ∧ q.word 2 % 2 ^ 24 = left - k ∧
          q.fcode = (if run.2 then 0x10 else if left = k then 0x12 else 0) ∧
          (r.word 13 < 2 ^ 64 → q.word 13 = (r.word 13 + k) % 2 ^ 64) ∧
          (∀ i < k, let j := (r.word 1 % 2 ^ 32 + i) % 2 ^ 32 % 64
            (q.word 14).testBit j = true ∧ q.word (32 + j / 2) / 2 ^ (32 * (j % 2)) % 2 ^ 32 = run.1.getD i 0 % 2 ^ 32)))))

/-! ### Requests and the boundary -/

/-- 03 R51, R69, R70, 21 R341, 23 R376-R378: BSTEP, RQRD, RQWR and RQRET; 03 R64: the acquire of a map version.

03 R57-R63: a boundary publishes: a descriptor out of range; STEP and the map; a request that has ended; a row that goes on;
the admission of the request that waits.

Where the rules leave a reading open it takes that of notes/assumptions/29.md and notes/assumptions/31.md. -/
def Obligations.RequestsAndBoundaries : Prop :=
  ((∀ (s : State) (d a : GReg) (w : BitVec 6), s.bgrp = none ∨ s.rqEn = false →
      exec (.rqrd d a w) s = .next (s.takeTrap (requestFault 1)) ∧ exec (.rqwr d a w) s = .next (s.takeTrap (requestFault 1)) ∧
      exec (.rqret d a w) s = .next (s.takeTrap (requestFault 1)) ∧
      (s.core.bank.sys.slctl.toNat.testBit 2 = false → exec (.bstep d a) s = .next (s.takeTrap (requestFault 1)))) ∧
    (∀ (s : State) (d a : GReg) (w : BitVec 6) (b : Nat), s.bgrp = some b → s.rqEn = true →
      let x := (s.g a).toNat
      let g := s.group b
      let slot := x % 2 ^ 8
      let id := x / 2 ^ 32
      let gives (t : State) (v : Nat) (lat : Nat) : Prop := t.core.bank.inflight = s.core.bank.inflight ++ [s.result (.g d (BitVec.ofNat 64 v)) .ctl lat] ∧
        SameRegisters t.core.bank s.core.bank ∧ SameOuterMemory s t
      let named : Prop := slot < g.nslot ∨ g.seat slot ≠ none
      -- RQRD
      (2 ^ 9 ≤ x → exec (.rqrd d a w) s = .next (s.takeTrap (requestFault 4))) ∧
      (x < 2 ^ 9 → x.testBit 8 = true →
        (w ≠ 0 → ∃ t, exec (.rqrd d a w) s = .next t ∧ t.groups = s.groups ∧ gives t (match s.core.map with
          | none => 0
          -- bit 63 of word 1 shows in the version already published
          | some m => if w = 1 ∧ m.1 = g.step then g.map.read 8 8 else m.2.read (8 * w.toNat) 8) 24) ∧
        -- STEP, and with it the version of that STEP, to be acquired when the result lands
        (w = 0 → ∃ t, exec (.rqrd d a w) s = .next t ∧ t.groups = s.groups ∧ t.core.map = s.core.map ∧ SameRegisters t.core.bank s.core.bank ∧
          t.core.bank.inflight = s.core.bank.inflight ++ [{ s.result (.g d (BitVec.ofNat 64 g.step)) .ctl 24 with
            acquire := some { grp := b, step := g.step, published := g.published, map := g.map } }])) ∧
      (x < 2 ^ 8 →
        (¬ named → exec (.rqrd d a w) s = .next (s.takeTrap (requestFault 2))) ∧
        (named → ∃ t, exec (.rqrd d a w) s = .next t ∧ t.groups = s.groups ∧ gives t (match g.seat slot with
          | none => 0
          | some r => r.word w.toNat) 24)) ∧
      -- RQWR
      (x / 2 ^ 8 % 2 ^ 24 ≠ 0 → exec (.rqwr d a w) s = .next (s.takeTrap (requestFault 4)) ∧
        exec (.rqret d a w) s = .next (s.takeTrap (requestFault 4))) ∧
      (x / 2 ^ 8 % 2 ^ 24 = 0 →
        (¬ named → exec (.rqwr d a w) s = .next (s.takeTrap (requestFault 2)) ∧ exec (.rqret d a w) s = .next (s.takeTrap (requestFault 2))) ∧
        (named → w.toNat ∉ [8, 9, 10, 11, 15] → exec (.rqwr d a w) s = .next (s.takeTrap (requestFault 3))) ∧
        (named → w.toNat ∈ [8, 9, 10, 11, 15] →
          ((∀ r, g.seat slot = some r → r.rqid ≠ id) → exec (.rqwr d a w) s = .next s) ∧
          (∀ r, g.seat slot = some r → r.rqid = id → g.boundary = none → ∃ t q, exec (.rqwr d a w) s = .next t ∧ t.core = s.core ∧
            SameOuterMemory s t ∧ (∀ c, c ≠ b → t.group c = s.group c) ∧ (t.group b).seat slot = some q ∧
            (∀ j, j ≠ w.toNat → q.word j = r.word j) ∧
            (w ≠ 8 → r.word w.toNat < 2 ^ 64 → q.word w.toNat = (s.g d).toNat) ∧
            (w = 8 → let k := (s.g d).toNat / 2 ^ 56 % 2 ^ 7
              q.word 8 / 2 ^ 56 % 2 ^ 7 = (if k = 0 ∨ 64 < k then 64 else k) ∧ ∀ i, i < 56 ∨ 63 ≤ i → (q.word 8).testBit i = (r.word 8).testBit i)) ∧
          (∀ r bd, g.seat slot = some r → r.rqid = id → g.boundary = some bd → ∃ t x, exec (.rqwr d a w) s = .next t ∧ t.core = s.core ∧
            t.group b = { g with held := g.held ++ [x] } ∧ x.slot = slot ∧ x.rqid = id)) ∧
        -- RQRET
        (named →
          ((∀ r, g.seat slot = some r → r.rqid ≠ id) → ∃ t, exec (.rqret d a w) s = .next t ∧ t.groups = s.groups ∧ gives t 0 24) ∧
          (∀ r, g.seat slot = some r → r.rqid = id → g.boundary = none → ∃ t q, exec (.rqret d a w) s = .next t ∧ gives t 1 24 ∧
            (t.group b).seat slot = some q ∧
            (w = 0 → q.retreq = true ∧ ∀ i, i ≠ 55 → (q.word 0).testBit i = (r.word 0).testBit i) ∧
            (w = 1 → q.cancel = true ∧ ∀ i, i ≠ 54 → (q.word 0).testBit i = (r.word 0).testBit i) ∧
            (w ≠ 0 → w ≠ 1 → q = r ∧ (t.group b).resumes = g.resumes ++ [slot])))) ∧
      -- BSTEP
      (s.core.bank.sys.slctl.toNat.testBit 2 = true → exec (.bstep d a) s = .next { s with holding := some (23, false) }) ∧
      (s.core.bank.sys.slctl.toNat.testBit 2 = false →
        (x ≠ b → exec (.bstep d a) s = .next (s.takeTrap (requestFault 4))) ∧
        (x = b → g.boundary ≠ none → exec (.bstep d a) s = .next (s.takeTrap (requestFault 5))) ∧
        (x = b → g.boundary = none → s.region + 0x2000000 + 64 * b + 64 ≤ hbmSize → ∃ t bd, exec (.bstep d a) s = .next t ∧
          t.group b = { g with boundary := some bd } ∧ bd.desc = s.hbm.read (s.region + 0x2000000 + 64 * b) 64 ∧
          t.core.bank.inflight = s.core.bank.inflight ++ [s.result (.g d (BitVec.ofNat 64 (g.step + 1))) .ctl 1] ∧
          SameRegisters t.core.bank s.core.bank ∧
          t.core.sllen = BitVec.ofNat 64 (s.core.path.l + (s.now - s.core.path.at')) ∧
          -- within 1.5 microseconds
          t.calendar.any (fun e => e.event = .boundaryPublish (BitVec.ofNat 4 b) && decide (s.now < e.at') && decide (e.at' ≤ s.now + 3750)) = true)))) ∧
  -- the acquire, when that result lands: a version of another STEP empties the mask's cleared bits
  (∀ (s : State) (core : BitVec 8) (r : Result) (v : MapVersion),
      let c := (s.focus core.toNat).core
      c.bank.inflight = [r] → r.acquire = some v → DueNow c r → ¬ Excepts r → ∃ t, exec (.resultLanding core) s = .next t ∧
        (∀ m, c.map = some m → m.1 = v.step → t.core.map = c.map ∧ t.core.cleared = c.cleared) ∧
        ((∀ m, c.map = some m → m.1 ≠ v.step) → t.core.map = some (v.step, v.map) ∧ t.core.cleared = [])) ∧
  (∀ (s : State) (grp : BitVec 4),
      let b := grp.toNat
      let g := s.group b
      let base := s.rqbase.toNat / 2 ^ 26 % 2 ^ 14 * 2 ^ 26
      (g.boundary = none → exec (.boundaryPublish grp) s = .next s) ∧
      (∀ bd, g.boundary = some bd → base + 2 ^ 26 ≤ hbmSize → g.held = [] →
        let f (off n : Nat) : Nat := bd.desc / 256 ^ off % 256 ^ n
        let inRange : Prop := f 0 2 ≤ 256 ∧ 1 ≤ f 2 2 ∧ f 2 2 ≤ 65 ∧ 1 ≤ f 4 4 ∧ f 4 4 ≤ 65536 ∧ 1 ≤ f 8 4 ∧ f 8 4 ≤ 65536 ∧
          1 ≤ f 0x10 4 ∧ f 0x10 4 ≤ 2 ^ 24
        let quiet : Prop := g.waiting = [] ∧ f 0x18 8 = f 0x20 8
        (¬ inRange → ∃ t, exec (.boundaryPublish grp) s = .next t ∧ t.core = s.core ∧
          let h := t.group b
          h.step = g.step ∧ h.slots = g.slots ∧ h.boundary = none ∧ h.waiting = g.waiting ∧ (h.map.read 8 8).testBit 63 = true) ∧
        -- the publication: at once, where no slot's change asks for more time
        (inRange → bd.late = true ∨ s.lates.headD 0 = 0 → ∃ t, exec (.boundaryPublish grp) s = .next t ∧ t.core = s.core ∧
          let h := t.group b
          h.step = g.step + 1 ∧ h.boundary = none ∧ h.published = s.now ∧ h.nslot = f 0 2 ∧ h.dstep = f 2 2 ∧ h.tpp = f 4 4 ∧ h.pchunk = f 8 4 ∧
          h.map.read 0 8 = (g.step + 1) % 2 ^ 64 ∧
          t.hbm.read (base + 0x2050000 + b * 16384 + (g.step + 1) % 2 * 8192) 8 = (g.step + 1) % 2 ^ 64 ∧
          -- one occupant, which has ended
          (∀ slot r, quiet → g.slots = [(slot, some r)] → slot < 256 → r.cancel = false → 0x10 ≤ r.fcode → r.idx < 65536 →
            h.seat slot = none ∧ t.hbm.read (base + 512 * r.idx) 8 / 2 ^ 32 % 2 ^ 4 = 6 ∧
            t.hbm.read (base + 512 * r.idx) 8 / 2 ^ 56 % 2 ^ 8 = r.fcode ∧ t.hbm.read (base + 512 * r.idx + 24) 8 / 2 ^ 32 % 2 ^ 24 = 0 ∧
            h.map.read (512 + 16 * slot + 10) 2 = 0) ∧
          -- one occupant, a decoding row whose pages suffice
          (∀ slot r, quiet → g.slots = [(slot, some r)] → slot < 256 → r.cancel = false → r.retreq = false → r.fcode = 0 → r.state = 2 →
            r.prefill = 0 → (r.pos + f 2 2 + f 4 4 - 1) / f 4 4 ≤ r.pageCnt → (r.pos + f 2 2 + f 4 4 - 1) / f 4 4 ≤ f 0x10 4 → ∃ q,
            h.seat slot = some q ∧ q.state = 2 ∧ q.pos = r.pos ∧ q.rqid = r.rqid ∧
            h.map.read (512 + 16 * slot) 4 = r.rqid ∧ h.map.read (512 + 16 * slot + 4) 4 = r.pos ∧
            h.map.read (512 + 16 * slot + 8) 2 = f 2 2 ∧ h.map.read (512 + 16 * slot + 10) 2 = 9) ∧
          -- a request waits, every slot is free and the pool has its pages
          (∀ idx n, g.slots = [] → g.waiting = [(idx, n)] → f 0x18 8 = f 0x20 8 → idx < 65536 → 0 < f 0 2 →
            let r : Seat := { idx := idx, words := SMap.tabulate 0 (List.range 64) fun w => s.hbm.read (base + 512 * idx + 8 * w) 8 &&& recordMask w }
            let ntok := if 0 < r.prefill then min r.prefill (f 8 4) else f 2 2
            let need := (ntok + f 4 4 - 1) / f 4 4
            admissible b r = true → need ≤ s.hbm.read (base + 0x2000408) 4 → need ≤ f 0xC 4 → need < 2 ^ 24 → ∃ q,
            h.seat 0 = some q ∧ q.state = 2 ∧ q.fcode = 0 ∧ q.rqid = r.rqid ∧ q.pageCnt = need ∧ q.seq = g.admseq ∧ h.admseq = g.admseq + 1 ∧
            h.waiting = [] ∧ h.map.read 512 4 = r.rqid ∧ h.map.read (512 + 8) 2 = ntok % 2 ^ 16 ∧ (h.map.read (512 + 10) 2).testBit 0 = true))) ∧
      -- every boundary that is due publishes, or once takes up to 12 ns for each of the 256 slots
      (∀ bd, g.boundary = some bd → base + 2 ^ 26 ≤ hbmSize → ∃ t, exec (.boundaryPublish grp) s = .next t ∧
        ((t.group b).boundary = none ∨ (bd.late = false ∧ (t.group b).boundary = some { bd with late := true } ∧ t.hbm = s.hbm ∧
          t.calendar.any (fun e => e.event = .boundaryPublish grp && decide (s.now < e.at') && decide (e.at' ≤ s.now + 30 * 256)) = true))))

/-! ### The host -/

/-- 20 R313-R318: doorbells, the configuration of work queues, answers to page requests, invalidations and the reset of a
function.

Where the rules leave a reading open it takes that of notes/assumptions/28.md, notes/assumptions/36.md and notes/assumptions/38.md. -/
def Obligations.HostRequests : Prop :=
  -- doorbells
  (∀ (s : State) (fn : BitVec 5) (q : BitVec 12) (x : BitVec 32),
    let n := q.toNat
    let w := s.queue n
    let others (t : State) : Prop := (∀ k, k ≠ n → t.queue k = s.queue k) ∧ t.launches = s.launches
    let reads (t : State) : Prop := t.calendar.any (fun e => e.event = .launchAccept q) = true
    (fn ≠ 0 → w.func ≠ fn.toNat → exec (.doorbellTail fn q x) s = .next s ∧ exec (.doorbellChead fn q x) s = .next s) ∧
    (fn = 0 ∨ w.func = fn.toNat →
      (2 ^ w.logn < (x.toNat + 2 ^ 32 - w.head) % 2 ^ 32 → ∃ t, exec (.doorbellTail fn q x) s = .next t ∧ others t ∧
        (t.queue n).tail = w.tail ∧ (t.queue n).err.testBit 0 = true) ∧
      ((x.toNat + 2 ^ 32 - w.head) % 2 ^ 32 ≤ 2 ^ w.logn → ∃ t, exec (.doorbellTail fn q x) s = .next t ∧ others t ∧ reads t ∧
        t.queue n = { w with tail := x.toNat }) ∧
      ∃ t, exec (.doorbellChead fn q x) s = .next t ∧ others t ∧ reads t ∧ t.queue n = { w with chead := x.toNat })) ∧
  -- configuration
  (∀ (s : State) (q : BitVec 12) (x : BitVec 8),
    let n := q.toNat
    let w := s.queue n
    let on : Prop := w.flags.testBit 0 = true
    let others (t : State) : Prop := (∀ k, k ≠ n → t.queue k = s.queue k) ∧ t.launches = s.launches
    let right : Prop := 4 ≤ w.logn ∧ w.logn ≤ 16 ∧ w.func ≤ 16 ∧ x.toNat < 8 ∧ w.pasid < 2 ^ 20
    (on → ∃ t, exec (.queueEnable q x) s = .next t ∧ others t ∧ t.queue n = w) ∧
    (¬ on → right → ∃ t, exec (.queueEnable q x) s = .next t ∧ others t ∧ (t.queue n).flags = x.toNat ||| 1 ∧
      (t.queue n).stopped = false ∧ t.calendar.any (fun e => e.event = .launchAccept q) = true) ∧
    (¬ on → ¬ right → ∃ t, exec (.queueEnable q x) s = .next t ∧ others t ∧ (t.queue n).flags.testBit 0 = false) ∧
    (∃ t, exec (.queueDisable q) s = .next t ∧ others t ∧ (t.queue n).flags.testBit 0 = false ∧ t.calendar = s.calendar ∧
      (∀ k, 0 < k → (t.queue n).flags.testBit k = w.flags.testBit k) ∧ (t.queue n).head = w.head ∧ (t.queue n).tail = w.tail)) ∧
  (∀ (s : State) (q : BitVec 12) (x : BitVec 32),
    let n := q.toNat
    ∃ t, exec (.queueErrorClear q x) s = .next t ∧ (∀ k, k ≠ n → t.queue k = s.queue k) ∧
      (∀ k < 3, (t.queue n).err.testBit k = ((s.queue n).err.testBit k && !x.toNat.testBit k)) ∧
      t.queue n = { s.queue n with err := (t.queue n).err }) ∧
  (∀ (s : State) (q : BitVec 12) (off : BitVec 6) (x : BitVec 64),
    let n := q.toNat
    let w := s.queue n
    let on : Prop := w.flags.testBit 0 = true
    ∃ t, exec (.queueConfigWrite q off x) s = .next t ∧ (∀ k, k ≠ n → t.queue k = s.queue k) ∧
      (on → off ≠ 0x34 → off ≠ 0x1B → t.queue n = w) ∧
      (on → off = 0x1B → x.toNat.testBit 0 = false → (t.queue n).flags.testBit 0 = false) ∧
      (¬ on →
        (off = 0x00 → t.queue n = { w with rbase := x.toNat }) ∧ (off = 0x08 → t.queue n = { w with cbase := x.toNat }) ∧
        (off = 0x10 → t.queue n = { w with ctx := x.toNat }) ∧ (off = 0x18 → t.queue n = { w with logn := x.toNat % 2 ^ 8 }) ∧
        (off = 0x19 → t.queue n = { w with func := x.toNat % 2 ^ 8 }) ∧ (off = 0x1A → t.queue n = { w with prio := x.toNat % 2 ^ 8 }) ∧
        (off = 0x1C → t.queue n = { w with pasid := x.toNat % 2 ^ 32 }) ∧ (off = 0x20 → t.queue n = { w with msix := x.toNat % 2 ^ 16 }))) ∧
  -- page requests and invalidations
  (∀ (s : State) (fn : BitVec 5) (pasid : BitVec 21) (iova page : BitVec 52) (code : BitVec 2),
    let key (p : HostPage) : Prop := p.fn = fn.toNat ∧ p.pasid = pasidOf pasid ∧ p.iova = iova.toNat
    let under : Option Nat := if pasid.toNat < 2 ^ 20 then none else some (pasid.toNat % 2 ^ 20)
    (∃ t, exec (.pageRequestResponse fn pasid iova code page) s = .next t ∧ t.core = s.core ∧ SameOuterMemory s t ∧
      (∀ p ∈ t.pageReqs, ¬ key p ∧ p ∈ s.pageReqs) ∧
      (code = 0 → (∀ o < 4096, t.hostAddr fn.toNat under (iova.toNat * 4096 + o) = some (page.toNat * 4096 + o)) ∧
        (∀ p ∈ t.refused, ¬ key p) ∧ t.noPages = s.noPages) ∧
      (code ≠ 0 → t.iommu = s.iommu ∧ (∃ p ∈ t.refused, key p) ∧ (code ≠ 1 → fn.toNat ∈ t.noPages))) ∧
    (∃ t, exec (.atsInvalidation fn pasid iova) s = .next t ∧ t.core = s.core ∧ SameOuterMemory s t ∧
      (∀ o < 4096, t.hostAddr fn.toNat under (iova.toNat * 4096 + o) = none) ∧
      ∀ f u a, ¬ (f = fn.toNat ∧ u = under ∧ a / 4096 = iova.toNat) → t.hostAddr f u a = s.hostAddr f u a)) ∧
  -- function-level reset
  (∀ (s : State) (fn : BitVec 5), let f := fn.toNat
    (∃ t, exec (.functionLevelReset fn) s = .next t ∧ (∀ l ∈ t.launches, l.src.fn ≠ f) ∧ (∀ r ∈ t.spawns, r.src.fn ≠ f) ∧
      (∀ e ∈ t.queues, e.2.func = f → e.2.flags.testBit 0 = false) ∧ (∀ p ∈ t.pageReqs, p.fn ≠ f) ∧ f ∉ t.noPages ∧
      t.calendar.any (fun e => e.event = .groupPlacement) = true) ∧
    -- one launch of the function and nothing else of it
    (∀ l, s.launches = [l] → l.src.fn = f → s.spawns = [] → (∀ e ∈ s.queues, e.2.func ≠ f) →
      l.src.origin = .spawn none → ∃ t e, exec (.functionLevelReset fn) s = .next t ∧ t.launches = [] ∧ t.ended.head? = some e ∧
        e.tag = l.tag ∧ e.status = (if l.started then 4 else 5)))

/-! ### Cold, bands and upkeep -/

/-- 19 R301-R304, R306: a rise of the band takes the floor, the stretch and refresh with it at once; a fall is one band at a
time and its floor waits for the timing switch, which takes stacks and weight stores one by one.

Where the rules leave a reading open it takes that of notes/assumptions/13.md, notes/assumptions/42.md and notes/assumptions/47.md. -/
def Obligations.Bands : Prop :=
  (∀ (s : State) (z0 z1 z2 z3 : BitVec 16),
    let w := warmestOf z0 z1 z2 z3
    let c := s.cryo
    let ids := s.cores.map Core.id
    (∀ b, InBand w b → b ≤ c.band → ∃ t, exec (.bandRise z0 z1 z2 z3) s = .next t ∧ Reads s t z0 z1 z2 z3) ∧
    (∀ b, InBand w b → c.band < b → ∃ t, exec (.bandRise z0 z1 z2 z3) s = .next t ∧ TasksKept s t ∧
      t.cryo.band = b ∧ t.cryo.rband = b ∧ t.cryo.chg = (c.chg + 1) % 2 ^ 16 ∧ t.cryo.floor = max c.floor (bandFloor b) ∧
      t.cryo.temps = [z0.toNat, z1.toNat, z2.toNat, z3.toNat] ∧ t.cryo.state = stateIn c.state b ∧
      (t.cryo.state = 8 → c.state ≠ 8 → t.cryo.hreas = 6) ∧
      (c.switch = none → c.neap = decide (2 ≤ b) → t.cryo.switch = none ∧ t.closed = s.closed) ∧
      (c.switch = none → c.neap ≠ decide (2 ≤ b) → t.cryo.switch = some (0, decide (2 ≤ b)) ∧ t.closed = some 0) ∧
      (c.switch ≠ none → t.cryo.switch = c.switch ∧ t.closed = s.closed) ∧
      (c.floor < bandFloor b → ∀ d ∈ s.cores, s.coreOf d.id = d → d.minDiv < bandFloor b → (t.coreOf d.id).fl = true) ∧
      (ids.Nodup → StretchFits t)) ∧
    (∀ b, InBand w b → b ≤ c.band → c.band = 0 ∨ fallBound c.band < w → ∃ t, exec (.bandFall z0 z1 z2 z3) s = .next t ∧ Reads s t z0 z1 z2 z3) ∧
    -- a sensor that already indicates a higher band raises it
    (∀ b, InBand w b → c.band < b → exec (.bandFall z0 z1 z2 z3) s = exec (.bandRise z0 z1 z2 z3) s) ∧
    (0 < c.band → w ≤ fallBound c.band → ∃ t, exec (.bandFall z0 z1 z2 z3) s = .next t ∧ TasksKept s t ∧
      t.cryo.band = c.band - 1 ∧ t.cryo.chg = (c.chg + 1) % 2 ^ 16 ∧ t.cryo.state = stateIn c.state (c.band - 1) ∧
      (c.switch = none → c.neap = decide (2 ≤ c.band - 1) → t.cryo.switch = none ∧ t.cryo.floor = bandFloor (c.band - 1) ∧
        t.cryo.rband = c.band - 1 ∧ (ids.Nodup → StretchFits t)) ∧
      (c.switch ≠ none ∨ c.neap ≠ decide (2 ≤ c.band - 1) → t.cryo.switch.isSome ∧ t.cryo.floor = c.floor ∧
        (c.released = true → t.cryo.rband = c.rband)))) ∧
  (fallBound 1 = 80 * 64 ∧ fallBound 2 = 93 * 64 ∧ fallBound 3 = 128 * 64 ∧ fallBound 4 = 198 * 64) ∧
  (∀ (s : State) (u : BitVec 4), let c := s.cryo
    (c.switch = none → exec (.stackTimingSwitch u) s = .next s) ∧
    (∀ k want, c.switch = some (k, want) → k ≠ u.toNat → exec (.stackTimingSwitch u) s = .next s) ∧
    (∀ want, c.switch = some (u.toNat, want) → ∃ t, exec (.stackTimingSwitch u) s = .next t ∧ TasksKept s t ∧
      t.cryo.neap = c.neap ∧ t.cryo.frozen = (c.frozen || c.freezing) ∧ t.cryo.freezing = false ∧
      (u.toNat < 15 → t.cryo.switch = some (u.toNat + 1, want) ∧ t.closed = some (u.toNat + 1) ∧
        t.calendar.any (fun e => e.event = .stackTimingSwitch (u + 1)) = true) ∧
      (u.toNat = 15 → t.cryo.switch = c.switch ∧ t.closed = none ∧
        t.calendar.any (fun e => e.event = .timingSwitchComplete) = true))) ∧
  (∀ (s : State), let c := s.cryo
    (c.switch = none → exec .timingSwitchComplete s = .next s) ∧
    (∀ k want, c.switch = some (k, want) → ∃ t, exec .timingSwitchComplete s = .next t ∧ TasksKept s t ∧ t.cryo.neap = want ∧
      (want = decide (2 ≤ c.band) → t.cryo.switch = none ∧ t.closed = none ∧ t.cryo.rband = c.band ∧ t.cryo.floor = bandFloor c.band ∧
        ((s.cores.map Core.id).Nodup → StretchFits t)) ∧
      (want ≠ decide (2 ≤ c.band) → t.cryo.switch = some (0, !want) ∧ t.closed = some 0 ∧ t.cryo.floor = c.floor)))

/-- 19 R298-R300, R310, R312: the cryogenic state machine, its events and the controller's commands; each command answers
(20 R319, R320).

Where the rules leave a reading open it takes that of notes/assumptions/8.md, notes/assumptions/41.md, notes/assumptions/43.md and notes/assumptions/44.md. -/
def Obligations.CryogenicStates : Prop :=
  -- events of the plant
  (∀ (s : State), let c := s.cryo
    (c.state ≠ 1 → exec .purgeComplete s = .next s) ∧ (c.state ≠ 3 → exec .soakComplete s = .next s) ∧
    (c.state ≠ 2 ∨ 5120 < c.warmest.1 → exec .descentComplete s = .next s) ∧
    (∀ ok, c.state ≠ 4 → exec (.trainingComplete ok) s = .next s) ∧
    (c.state = 1 → ∃ t, exec .purgeComplete s = .next t ∧ TasksKept s t ∧ t.cryo.state = 2 ∧ Logged t 8 255 (1 + 2 * 2 ^ 8)) ∧
    (c.state = 2 → c.warmest.1 ≤ 5120 → ∃ t, exec .descentComplete s = .next t ∧ TasksKept s t ∧ t.cryo.state = 3 ∧
      Logged t 8 255 (2 + 3 * 2 ^ 8)) ∧
    (c.state = 3 → ∃ t, exec .soakComplete s = .next t ∧ TasksKept s t ∧ t.cryo.state = 4 ∧ Logged t 8 255 (3 + 4 * 2 ^ 8)) ∧
    (c.state = 4 → ∃ t, exec (.trainingComplete false) s = .next t ∧ TasksKept s t ∧ t.cryo.state = 8 ∧ t.cryo.hreas = 5 ∧
      -- the dies leave reset whichever way TRAIN is left
      t.cryo.released = true ∧ (c.released = false → t.trained = s.now) ∧ Logged t 8 255 (4 + 8 * 2 ^ 8 + 5 * 2 ^ 16)) ∧
    (c.state = 4 → ∃ t, exec (.trainingComplete true) s = .next t ∧ TasksKept s t ∧ t.cryo.released = true ∧
      t.cryo.state = stateIn 5 c.band ∧ t.cryo.floor = bandFloor c.band ∧ t.cryo.neap = false ∧
      (c.released = false → t.trained = s.now)) ∧
    (c.state = 7 → (∀ z ∈ c.temps, 18240 ≤ z) → ∃ t, exec .ascentComplete s = .next t ∧ t.cryo.state = 0 ∧ t.cryo.released = false ∧
      t.cryo.closing = false ∧ DiesReset s t) ∧
    (c.state ≠ 7 ∨ (∃ z ∈ c.temps, z < 18240) → exec .ascentComplete s = .next s)) ∧
  (∀ (s : State) (i : Instr) (why : Nat),
    (i, why) ∈ [(Instr.sensorsDisagree, 1), (.valveNotFollowing, 2), (.lossOfVacuum, 3), (.rateOfChange, 4)] →
    ∃ t, exec i s = .next t ∧ TasksKept s t ∧ t.cryo.state = 8 ∧ t.cryo.vacuum = (s.cryo.vacuum && why ≠ 3) ∧
      (s.cryo.state = 8 → t.cryo.hreas = s.cryo.hreas ∧ t.log = s.log) ∧
      (s.cryo.state ≠ 8 → t.cryo.hreas = why ∧ t.cryo.prev = s.cryo.state ∧
        Logged t 8 255 (s.cryo.state + 8 * 2 ^ 8 + why * 2 ^ 16))) ∧
  -- commands with no payload: accepted only in their states
  (∀ (s : State), let c := s.cryo
    let cool : Prop := c.state = 0 ∧ c.wm = false ∧ c.warmReq = none ∧ c.vacuum = true
    let warm : Prop := c.state = 5 ∨ c.state = 6 ∨ c.state = 8
    let clear : Prop := c.state = 8 ∧ c.band < 4 ∧ (c.hreas = 3 → c.vacuum = true)
    (∀ i cmd, (i, cmd) ∈ [(Instr.cool, 1), (.warmup, 2), (.resume, 3), (.freeze, 4), (.thaw, 5), (.warmrun, 6), (.warmstop, 7),
        (.status, 8), (.pubkey, 0x21)] → (cmd = 4 ∨ cmd = 5 → s.request.cmd = cmd) → s.request.payload ≠ [] → ∃ t, exec i s = .next t ∧ OnlyAnswers s t cmd 5 []) ∧
    (s.request.payload = [] →
      (¬ cool → ∃ t, exec .cool s = .next t ∧ OnlyAnswers s t 1 3 []) ∧
      (cool → ∃ t, exec .cool s = .next t ∧ Answers s t 1 0 [] ∧ TasksKept s t ∧ t.cryo.state = 1) ∧
      (¬ warm → ∃ t, exec .warmup s = .next t ∧ OnlyAnswers s t 2 3 []) ∧
      (warm → ∃ t, exec .warmup s = .next t ∧ Answers s t 2 0 [] ∧ TasksKept s t ∧ t.cryo.state = 7 ∧ t.cryo.closing = true) ∧
      (¬ clear → ∃ t, exec .resume s = .next t ∧ OnlyAnswers s t 3 3 []) ∧
      (clear → ∃ t, exec .resume s = .next t ∧ Answers s t 3 0 [] ∧ TasksKept s t ∧
        t.cryo.state = (if c.band = 0 then 5 else 6)) ∧
      (c.released = false → s.request.cmd = 4 → ∃ t, exec .freeze s = .next t ∧ OnlyAnswers s t 4 3 []) ∧
      (c.released = true → s.request.cmd = 4 → ∃ t, exec .freeze s = .next t ∧ Answers s t 4 0 [] ∧ TasksKept s t ∧
        t.cryo = if s.closed = none then { c with frozen := true } else { c with freezing := true }) ∧
      (c.frozen = false → s.request.cmd = 5 → ∃ t, exec .thaw s = .next t ∧ OnlyAnswers s t 5 3 []) ∧
      (c.frozen = true → s.request.cmd = 5 → ∃ t, exec .thaw s = .next t ∧ Answers s t 5 0 [] ∧ TasksKept s t ∧ t.cryo = { c with frozen := false }) ∧
      (c.warmReq ≠ none → ∃ t, exec .warmrun s = .next t ∧ OnlyAnswers s t 6 1 []) ∧
      (c.warmReq = none → ¬ (c.state = 0 ∧ c.wm = false ∧ ∀ z ∈ c.temps, 12800 < z) →
        ∃ t, exec .warmrun s = .next t ∧ OnlyAnswers s t 6 3 []) ∧
      (c.warmReq = none → c.state = 0 → c.wm = false → (∀ z ∈ c.temps, 12800 < z) → ∃ t, exec .warmrun s = .next t ∧
        t = { s with cryo := { c with warmReq := some s.request.seq } }) ∧
      (c.wm = false → ∃ t, exec .warmstop s = .next t ∧ OnlyAnswers s t 7 3 []) ∧
      (c.wm = true → ∃ t, exec .warmstop s = .next t ∧ Answers s t 7 0 [] ∧ TasksKept s t ∧ t.cryo = { c with closing := true } ∧
        t.calendar.any (fun e => e.event = .warmstopTimeout) = true) ∧
      (∃ t, exec .status s = .next t ∧ OnlyAnswers s t 8 0 (bytesLe c.cryost 8 ++ bytesLe c.tband 8 ++ bytesLe c.floor 8 ++
        (List.range 8).flatMap (fun p => bytesLe (Config.macAddress p) 6) ++ bytesLe Config.identity 16)) ∧
      (∃ t, exec .pubkey s = .next t ∧ OnlyAnswers s t 0x21 0 (bytesLe Config.publicKey 32 ++ Config.certificate)))) ∧
  -- FREEZE and THAW through the IEEE 1149.1 port, with no response
  (∀ (s : State), let c := s.cryo
    (s.request.cmd ≠ 4 → exec .freeze s = .next { s with cryo := if c.released = false then c
      else if s.closed = none then { c with frozen := true } else { c with freezing := true } }) ∧
    (s.request.cmd ≠ 5 → exec .thaw s = .next { s with cryo := { c with frozen := false } })) ∧
  -- warm mode
  (∀ (s : State) (ok : Bool), let c := s.cryo
    (c.warmReq = none → exec (.warmrunTrainingComplete ok) s = .next s) ∧
    (∀ q, c.warmReq = some q → ∃ t, exec (.warmrunTrainingComplete ok) s = .next t ∧ TasksKept s t ∧ t.cryo.warmReq = none ∧
      t.cryo.wm = (ok || c.wm) ∧ t.cryo.state = c.state ∧
      t.replies = { cmd := 0x86, seq := q, code := if ok then 0 else 4 } :: s.replies ∧
      (ok = true → t.cryo.released = true ∧ t.cryo.neap = true ∧ t.cryo.band = 4 ∧ t.cryo.floor = 8)) ∧
    (c.wm = false ∨ c.closing = false → exec .warmstopTimeout s = .next s) ∧
    (c.wm = true → c.closing = true → ∃ t, exec .warmstopTimeout s = .next t ∧ t.cryo.wm = false ∧ t.cryo.closing = false ∧
      t.cryo.released = false ∧ DiesReset s t)) ∧
  -- commands with a payload, the scan chain, a command of no meaning
  (∀ (s : State), let p := s.request.payload
    let first := ofBytesLe (p.take 4)
    let count := ofBytesLe ((p.drop 4).take 2)
    (p.length ≠ 6 → ∃ t, exec .log s = .next t ∧ OnlyAnswers s t 0x10 5 []) ∧
    (p.length = 6 → count = 0 ∨ 32 < count → ∃ t, exec .log s = .next t ∧ OnlyAnswers s t 0x10 4 []) ∧
    (p.length = 6 → 0 < count → count ≤ 32 → ∃ t x, exec .log s = .next t ∧ OnlyAnswers s t 0x10 0 x ∧ x.length = 32 * count ∧
      ∀ i < count, ∀ e, s.log.find? (fun e => e.seqno = first + i) = some e → (x.drop (32 * i)).take 32 =
        bytesLe e.time 8 ++ bytesLe e.seqno 4 ++ bytesLe e.kind 2 ++ bytesLe e.unit 2 ++ bytesLe e.detail 16) ∧
    (p.length ≠ 32 → ∃ t, exec .attest s = .next t ∧ OnlyAnswers s t 0x20 5 []) ∧
    (p.length = 32 → ∃ t x, exec .attest s = .next t ∧ OnlyAnswers s t 0x20 0 x ∧ x.length = 7856) ∧
    exec .chainReadOut s = .next s ∧
    ∃ t, exec .unknownCommand s = .next t ∧ OnlyAnswers s t (s.request.cmd % 128) 2 [])

/-- 04 R90, R99, 19 R302, R309-R311, 20 R321: refresh, coolant, soft errors, and the time of IEEE 1588.

Where the rules leave a reading open it takes that of notes/assumptions/13.md, notes/assumptions/41.md, notes/assumptions/42.md and notes/assumptions/45.md. -/
def Obligations.Upkeep : Prop :=
  (∀ (s : State) (d : BitVec 2), let n := d.toNat
    (∃ t, exec (.refreshWindowStart d) s = .next t ∧ TasksKept s t ∧ t.windows = SMap.set 0 s.windows n (s.now + 2500) ∧
      t.calendar.any (fun e => e.event = .refreshWindowEnd d && e.at' = s.now + 2500) = true) ∧
    (∃ t, exec (.refreshWindowEnd d) s = .next t ∧ (SMap.get 0 s.windows n ≤ s.now → SMap.get 0 t.windows n = 0) ∧
      t = { s with windows := t.windows } ∧ ∀ k, k ≠ n ∨ s.now < SMap.get 0 s.windows n → SMap.get 0 t.windows k = SMap.get 0 s.windows k)) ∧
  (∀ (s : State) (st : BitVec 4) (ch : BitVec 6), let k := 64 * st.toNat + ch.toNat
    (s.cryo.rband = 0 → exec (.hbm4Refresh st ch) s = .next s) ∧
    (s.cryo.rband ≠ 0 → ∃ t, exec (.hbm4Refresh st ch) s = .next t ∧ t = { s with refreshing := t.refreshing, lates := t.lates } ∧
      s.now < SMap.get 0 t.refreshing k ∧ SMap.get 0 t.refreshing k ≤ s.now + 875 ∧ ∀ j, j ≠ k → SMap.get 0 t.refreshing j = SMap.get 0 s.refreshing j)) ∧
  (∀ (s : State) (z0 z1 z2 z3 : BitVec 16) (v0 v1 v2 v3 : BitVec 8) (l0 l1 l2 l3 : BitVec 12),
    let opened : List Nat := [v0, v1, v2, v3].map fun v => min 200 v.toNat
    ∃ t, exec (.valveControlPeriod z0 z1 z2 z3 v0 v1 v2 v3 l0 l1 l2 l3) s = .next t ∧ TasksKept s t ∧
      (∀ b, InBand (warmestOf z0 z1 z2 z3) b →
        (b ≤ s.cryo.band → t.cryo = { s.cryo with temps := [z0.toNat, z1.toNat, z2.toNat, z3.toNat], valves := opened }) ∧
        -- readings above the band's bound raise it as BAND_RISE does
        (s.cryo.band < b → ∃ u, exec (.bandRise z0 z1 z2 z3) s = .next u ∧ t.cryo = { u.cryo with valves := opened })) ∧
      ∀ n < 256, (t.coreOf n).elim = max 64 ([l0, l1, l2, l3].getD (n / 64) l0).toNat) ∧
  (∀ (s : State) (d : BitVec 2), ∃ t, exec (.elimRestore d) s = .next t ∧ TasksKept s t ∧ t.cryo = s.cryo ∧
    ∀ n < 256, (t.coreOf n).elim = if n / 64 = d.toNat then 0xFFF else (s.coreOf n).elim) ∧
  (∀ (s : State) (res : BitVec 3) (unit : BitVec 8) (addr : BitVec 64) (err : BitVec 2),
    let k := err.toNat
    (k ≠ 1 → k ≠ 2 → exec (.patrolScrub res unit addr err) s = .next s) ∧
    (k = 1 ∨ k = 2 → ∃ t, exec (.patrolScrub res unit addr err) s = .next t ∧ TasksKept s t ∧
      Logged t k unit.toNat (res.toNat + addr.toNat * 2 ^ 64) ∧
      (res = 1 → (addr.toNat / 256, s.now + 5000) ∈ t.testing) ∧ (res ≠ 1 → t.testing = s.testing))) ∧
  (∀ (s : State) (res : BitVec 3) (unit : BitVec 8) (addr : BitVec 64) (owner : BitVec 9) (ok spare : Bool),
    ∃ t, exec (.selfTestComplete res unit addr owner ok spare) s = .next t ∧ TasksKept s t ∧
      Logged t (if ok then 3 else if spare then 4 else 5) unit.toNat (res.toNat + addr.toNat * 2 ^ 64) ∧
      (res = 1 → ∀ x ∈ t.testing, x.1 ≠ addr.toNat / 256) ∧
      (∀ n, n ∈ t.retired ↔ n ∈ s.retired ∨ (ok = false ∧ spare = false ∧ n = owner.toNat ∧ n < 256))) ∧
  (∀ (s : State) (port : BitVec 3) (ns : BitVec 64) (num den : BitVec 32),
    let set : Prop := s.ptbase.toNat % 2 = 1 ∧ (s.hbm.byte (s.ptbase.toNat / 2 ^ 12 % 2 ^ 28 * 4096)).toNat = port.toNat
    (¬ set → exec (.ptpMessage port ns num den) s = .next s) ∧
    (set → ∃ t, exec (.ptpMessage port ns num den) s = .next t ∧ t = { s with ptp := t.ptp } ∧ t.ptp.holdover = false ∧
      t.ptp.num = num.toNat ∧ t.ptp.den = max 1 den.toNat ∧ t.nanos s.now = max (s.nanos s.now) ns.toNat) ∧
    exec .ptpHoldover s = .next { s with ptp := { s.ptp with holdover := true } })

/-! ### Fetching and stepping -/

/-- 06 R131: the bundle at the pc is its words up to the first with S = 1, each decoded; a reserved encoding, a missing S bit,
too few slots, too many of a class, one register named twice as destination, and a word outside the image trap, in this order
of the checks.

Where the rules leave a reading open it takes that of notes/assumptions/23.md. -/
def Obligations.Fetch : Prop :=
  ∀ (s : State) (ws : List Nat),
    let pc := s.core.bank.pc
    let n := ws.length
    let word (k : Nat) : Nat := ws.getD k 0
    let ends : Prop := (word (n - 1)).testBit 31 = true
    let slots := ws.filterMap decodeSlot
    let count (k : Nat) : Nat := (ws.filter fun w => slotClass w = k).length
    let fits : Prop := count 0 ≤ 1 ∧ count 1 ≤ 2 ∧ count 2 ≤ 2 ∧ count 3 ≤ 1 ∧ count 4 ≤ 1 ∧ count 5 ≤ 1
    let once : Prop := (slots.flatMap fun x => destsOf x.instr).Nodup
    n ≤ 8 → (∀ k < n, MayFetch s (pc + 4 * k) ∧ s.hbm.read (pc + 4 * k) 4 = word k) → (∀ k, k + 1 < n → (word k).testBit 31 = false) →
    (0 < n → (∀ k, k + 1 < n → LegalWord (word k)) → ¬ LegalWord (word (n - 1)) →
      s.fetch = .error { cause := 0x01, tval := BitVec.ofNat 64 (n - 1 + word (n - 1) * 2 ^ 32), cls := 1 }) ∧
    ((∀ k < n, LegalWord (word k)) →
      (n < 8 → (n = 0 ∨ ¬ ends) → ¬ MayFetch s (pc + 4 * n) → s.fetch = .error { cause := 0x02, tval := 6, cls := 1 }) ∧
      (n = 8 → ¬ ends → s.fetch = .error { cause := 0x02, tval := 2, cls := 1 }) ∧
      (0 < n → n < 4 → ends → s.fetch = .error { cause := 0x02, tval := 1, cls := 1 }) ∧
      (4 ≤ n → ends → ¬ fits → s.fetch = .error { cause := 0x02, tval := 3, cls := 1 }) ∧
      (4 ≤ n → ends → fits → ¬ once → s.fetch = .error { cause := 0x02, tval := 4, cls := 1 }) ∧
      (4 ≤ n → ends → fits → once → s.fetch = .ok (ws, slots)))

/-- A step runs the decoded instruction.  What comes from outside and what the calendar holds is executed as it stands; a core's
bundle is fetched, decoded and executed, and then commits as 02 R40 and 06 R144 say: the pc moves past it or to its target, the
loops count, one issue cycle passes.  A trap of the bundle is taken instead of its effect, a hold leaves it for later, and a
bundle whose guards are all false issues as an empty cycle or, settled, is skipped in no time (02 R48).

Where the rules leave a reading open it takes that of notes/assumptions/3.md, notes/assumptions/9.md, notes/assumptions/24.md and notes/assumptions/46.md. -/
def Obligations.StepRuns : Prop :=
  (∀ (s : State) (i : Instr) (r : List Instr), s.agenda = i :: r → step s = exec i { s with agenda := r }) ∧
  (∀ (s : State), s.agenda = [] → s.cryo.frozen = true → step s = .next s) ∧
  (∀ (s : State) (e : Sched) (r : List Sched), s.agenda = [] → s.cryo.frozen = false → s.calendar = e :: r → e.at' ≤ s.now →
    step s = exec e.event { s with calendar := r }) ∧
  (∀ (s : State), s.agenda = [] → s.cryo.frozen = false → (∀ e, s.calendar.head? = some e → s.now < e.at') → s.acting = none →
    ∃ k, s.now < k ∧ step s = .next { s with now := k } ∧ (∀ e, s.calendar.head? = some e → k ≤ e.at') ∧
      ∀ c ∈ s.cores, c.running = true → k ≤ c.nextAt) ∧
  (∀ (s : State) (r : TrapReq), Quiet s → s.fetch = .error r → ∃ u, step s = .next u ∧ TrapTaken s u r) ∧
  (∀ (s : State) (ws : List Nat) (slots : List Slot), Quiet s → s.fetch = .ok (ws, slots) → s.skips slots = true →
    ∃ u, step s = .next u ∧ SameValues u.core.bank s.core.bank ∧ u.core.bank.pc = (s.flow ws.length).1 ∧
      u.core.bank.lc = (s.flow ws.length).2 ∧ u.core.bank.issues = s.core.bank.issues ∧ u.now = s.now ∧ u.core.nextAt = s.core.nextAt) ∧
  (∀ (s : State) (ws : List Nat) (slots : List Slot), Quiet s → s.core.scinv = false → s.wenNext = [] →
    s.fetch = .ok (ws, slots) → s.skips slots = false →
    let n := s.core.id
    ((∀ x ∈ slots, s.guardOf x = false) → ∃ u, step s = .next u ∧ SameValues (u.coreOf n).bank s.core.bank ∧
      (u.coreOf n).bank.pc = (s.flow ws.length).1 ∧ (u.coreOf n).bank.lc = (s.flow ws.length).2 ∧
      (u.coreOf n).bank.issues = s.core.bank.issues + 1 ∧ (u.coreOf n).nextAt = s.now + 1) ∧
    (∀ x, s.liveSlots 0 [] ws slots = [x] → s.core.bank.absent = [] → s.core.other.absent = [] →
      let a := (s.openBundle ws).atSlot x
      (∀ f, exec x.instr a = .fault f → step s = .fault f) ∧
      (∀ t, exec x.instr a = .next t → t.raised = none → t.holding.isSome → s.deadAccess = none →
        ∃ u, step s = .next u ∧ (u.coreOf n).bank = s.core.bank ∧ (u.coreOf n).other = s.core.other ∧
          -- memory is unchanged but for the records that SLCTL asks for
          (s.core.bank.sys.slctl = 0 → SameOuterMemory s u) ∧ (u.coreOf n).spad = s.core.spad ∧ (u.coreOf n).nextAt = s.now + 1 ∧
          -- the watchdog counts, but not the wait of a RECV, nor one for a checkpointed group at a barrier
          (∀ k g, t.holding = some (k, g) → (k % 256 = 10 → (u.coreOf n).frozen = 0) ∧
            (k % 256 ≠ 10 → k ≠ 9 ∨ s.saved = [] → (u.coreOf n).frozen = if s.core.recvWait then 1 else s.core.frozen + 1))) ∧
      (s.trimClash slots [x] = false → ∀ t, exec x.instr a = .next t →
        (∀ r, t.raised = some r → r.cls ≠ 7 → (∀ k g, x.instr ≠ .muwr k g) → ∃ u, step s = .next u ∧ TrapTaken s u { r with rank := x.rank }) ∧
        (∀ r, t.raised = some r → r.cls = 7 → ∃ u, step s = .next u ∧
          TrapTaken ((committed s (s.openBundle ws) ws slots false).onCoreOf n Core.clocks) u r) ∧
        (t.raised = none → t.holding = none → x.instr = .tret → ∀ v,
          exec .tret (committed s (s.openBundle ws) ws slots false) = .next v → ∃ u, step s = .next u ∧
          SameValues (u.coreOf n).bank v.core.bank ∧ (u.coreOf n).bank.pc = v.core.bank.pc ∧
          (u.coreOf n).bank.use = v.core.bank.use ∧ (u.coreOf n).running = v.core.running) ∧
        (t.raised = none → t.holding = none → x.instr ≠ .tret → ∃ u, step s = .next u ∧
          let b := (u.coreOf n).bank
          SameValues b t.core.bank ∧ b.inflight = t.core.bank.inflight ∧ b.laq = t.core.bank.laq ∧ b.stq = t.core.bank.stq ∧
          b.pc = t.core.cur.npc % 2 ^ 40 ∧ b.issues = t.core.bank.issues + 1 ∧
          b.bubbles = (if t.core.cur.taken then 2 else 0) ∧
          b.lc = (if t.core.cur.taken then t.core.bank.lc else (s.flow ws.length).2) ∧
          u.now = s.now ∧ (u.coreOf n).nextAt = s.now + 1 ∧ (u.coreOf n).seq = t.core.seq + 1 ∧
          (s.core.bank.sys.slctl = 0 → t.core.bank.sys.slctl = 0 → s.core.held = 0 → t.core.sends = [] →
            SameOuterMemory t u ∧ (u.coreOf n).spad = t.core.spad ∧ (u.coreOf n).wbuf = t.core.wbuf)))))

/-! ### The whole machine -/

/-- 01 R17, 01 R14, 06 R129, 19 R298-R308, 02 R46: the machine right after module reset.  The registers and the sensors for
which the spec states no value stand at the values that notes/assumptions/2.md names (DESIGN CHOICE), memory at that of
notes/assumptions/1.md. -/
def Obligations.Reset : Prop :=
  let s := State.reset
  s.cryo.released = false ∧ s.cryo.state = 0 ∧ s.cryo.wm = false ∧ s.cryo.frozen = false ∧ s.cryo.chg = 0 ∧
  s.launches = [] ∧ s.saved = [] ∧ s.queues = [] ∧ s.log = [] ∧ Canonical s ∧
  (∀ a, s.hbm.byte a = 0 ∧ s.host.byte a = 0 ∧ s.wstore.byte a = 0) ∧
  (∀ n, let c := s.coreOf n
    c.id = n ∧ c.running = false ∧ c.task = none ∧ c.clkd = 0x11111 ∧ c.elim = 0xFFF ∧ c.frzc = 0 ∧ FreshBank c.bank ∧
    FreshBank c.other ∧ c.spad = [] ∧ c.wbuf = []) ∧
  ∃ k, 0 < k ∧ step s = .next { s with now := k }

/-- Every step keeps every memory of the machine in canonical form, so that memories that read alike are the same data. -/
def Obligations.StepKeepsMemoryCanonical : Prop :=
  ∀ s t : State, Canonical s → step s = .next t → Canonical t

/-- 06 R127, R128, 08 R195: the decoder reads back every well-formed instruction from its word, at every value of every operand,
with the S, G and N of its slot; a word that decodes is the word of the instruction it decodes to; microwords likewise. -/
def Obligations.DecodeOfEncode : Prop :=
  (∀ (i : Instr) (w : Nat), i.WellFormed → encode i = some w → w < 2 ^ 26 ∧ decodeBits w = some i) ∧
  (∀ (x : Slot) (w : Nat), x.instr.WellFormed → encodeSlot x = some w → w < 2 ^ 32 ∧ decodeSlot w = some x) ∧
  (∀ (i : Instr) (w : Nat), w < 2 ^ 26 → decodeBits w = some i → encode i = some w) ∧
  (∀ (i : Instr) (w : Nat), encodeMicroword i = some w → w < 2 ^ 32 ∧ decodeMicroword w = some i) ∧
  (∀ w : Nat, w < 2 ^ 32 → (decodeTableWord 32 w = decodeBits w))

/-- 06 R127, R128: words of the spec's examples decode to the instructions they stand for, and reserved ones to none. -/
def Obligations.DecodeWords : Prop :=
  decodeBits 0x0001461E = some (.and 5 6 7) ∧ decodeBits 0x0050C264 = some (.addi 3 2 100) ∧
  decodeBits 0x00BF0060 = some (.call 60 24) ∧ decodeBits 0x00AFFFF8 = some (.br (-8)) ∧
  decodeBits 0x00D14409 = some (.mts 5 0x102) ∧ decodeBits 0x01324626 = some (.rqwr 9 6 9) ∧
  decodeBits 0x00300401 = some (.clkdiv 4) ∧ decodeBits 0x01100002 = some .tret ∧
  decodeSlot 0x83C00000 = some { last := true, guard := 0, neg := false, instr := .nop } ∧
  decodeBits 0x03D00000 = none ∧ decodeBits 0x01100006 = none
end

