-- ==== Sys2Proof/Laws/Memory.lean ====
section
/-!
SUPPORT. The laws of sparse tables and of memories: every operation keeps the canonical form, a read after a write gives
what was written, and a write leaves every other place alone.
-/
namespace Sys2Proof.Machine

variable {α : Type}

/-! ### Keys above a bound -/

@[simp] theorem SMap.above_nil (k : Nat) : SMap.above k ([] : SMap α) = true := rfl

@[simp] theorem SMap.above_cons (k : Nat) (c : Nat × α) (r : SMap α) :
    SMap.above k (c :: r) = (decide (k < c.1) && SMap.above k r) := rfl

theorem SMap.above_mono {j k : Nat} (h : j ≤ k) : ∀ {m : SMap α}, SMap.above k m = true → SMap.above j m = true
  | [], _ => rfl
  | c :: r, hm => by
    simp only [SMap.above_cons, Bool.and_eq_true, decide_eq_true_eq] at hm ⊢
    exact ⟨by omega, SMap.above_mono h hm.2⟩

/-- An unlisted key below every key reads as the default. -/
theorem SMap.get_above (d : α) : ∀ {m : SMap α} {k : Nat}, SMap.above k m = true → SMap.get d m k = d
  | [], _, _ => rfl
  | c :: r, k, h => by
    simp only [SMap.above_cons, Bool.and_eq_true, decide_eq_true_eq] at h
    simp only [SMap.get, show c.1 ≠ k by omega, if_false, SMap.get_above d h.2]

theorem SMap.erase_above {j : Nat} : ∀ {m : SMap α} (k : Nat), SMap.above j m = true → SMap.above j (SMap.erase m k) = true
  | [], _, _ => rfl
  | c :: r, k, h => by
    simp only [SMap.above_cons, Bool.and_eq_true] at h
    unfold SMap.erase
    split
    · exact SMap.erase_above k h.2
    · simp only [SMap.above_cons, Bool.and_eq_true]; exact ⟨h.1, SMap.erase_above k h.2⟩

theorem SMap.insert_above {j : Nat} : ∀ {m : SMap α} {k : Nat} (v : α), j < k → SMap.above j m = true →
    SMap.above j (SMap.insert m k v) = true
  | [], k, v, hk, _ => by simp [SMap.insert, hk]
  | c :: r, k, v, hk, h => by
    simp only [SMap.above_cons, Bool.and_eq_true] at h
    unfold SMap.insert
    split
    · simp [hk, h.1, h.2, decide_eq_true_eq.mp h.1]
    · simp only [SMap.above_cons, Bool.and_eq_true]; exact ⟨h.1, SMap.insert_above v hk h.2⟩

section
variable [DecidableEq α]

@[simp] theorem SMap.wf_nil (d : α) : SMap.wf d [] = true := rfl

theorem SMap.wf_cons (d : α) (c : Nat × α) (r : SMap α) :
    SMap.wf d (c :: r) = true ↔ c.2 ≠ d ∧ SMap.above c.1 r = true ∧ SMap.wf d r = true := by
  simp only [SMap.wf, Bool.and_eq_true, decide_eq_true_eq, and_assoc]

/-! ### Reading after writing -/

omit [DecidableEq α] in
theorem SMap.get_erase (d : α) (m : SMap α) (k j : Nat) :
    SMap.get d (SMap.erase m k) j = if j = k then d else SMap.get d m j := by
  induction m with
  | nil => simp [SMap.erase, SMap.get]
  | cons c r ih =>
    simp only [SMap.erase]
    split
    · rename_i h
      rw [ih]
      by_cases e : j = k
      · rw [if_pos e, if_pos e]
      · rw [if_neg e, if_neg e, SMap.get, if_neg (by omega)]
    · rename_i h; simp only [SMap.get]; split
      · rename_i h'; subst h'; simp [h]
      · exact ih

omit [DecidableEq α] in
theorem SMap.get_insert (d : α) (m : SMap α) (k : Nat) (v : α) (j : Nat) (h : SMap.get d m k = d ∨ j ≠ k)
    (hk : ∀ c ∈ m, c.1 ≠ k) : SMap.get d (SMap.insert m k v) j = if j = k then v else SMap.get d m j := by
  induction m with
  | nil => simp [SMap.insert, SMap.get, eq_comm]
  | cons c r ih =>
    have hc := hk c (by simp)
    have hr := ih (by by_cases e : j = k <;> simp_all [SMap.get]) (fun x hx => hk x (by simp [hx]))
    simp only [SMap.insert]
    split
    · by_cases e : j = k
      · rw [if_pos e, SMap.get, if_pos e.symm]
      · rw [if_neg e, SMap.get, if_neg (by simpa using fun h => e h.symm)]
    · simp only [SMap.get, hr]
      by_cases e : j = k
      · subst e; simp [hc]
      · simp [e]

omit [DecidableEq α] in
theorem SMap.erase_keys (m : SMap α) (k : Nat) : ∀ c ∈ SMap.erase m k, c.1 ≠ k := by
  induction m with
  | nil => simp [SMap.erase]
  | cons c r ih =>
    simp only [SMap.erase]
    split
    · exact ih
    · rename_i h; intro x hx; rcases List.mem_cons.mp hx with rfl | hx
      · exact h
      · exact ih x hx

/-- A read after a write: the value written at its key, and every other key as it was. -/
theorem SMap.get_set (d : α) (m : SMap α) (k : Nat) (v : α) (j : Nat) :
    SMap.get d (SMap.set d m k v) j = if j = k then v else SMap.get d m j := by
  unfold SMap.set
  split
  · rename_i h; rw [SMap.get_erase]; split <;> simp_all
  · rw [SMap.get_insert _ _ _ _ _ (Or.inl (by simp [SMap.get_erase])) (SMap.erase_keys m k), SMap.get_erase]
    split <;> simp_all

@[simp] theorem SMap.get_set_same (d : α) (m : SMap α) (k : Nat) (v : α) : SMap.get d (SMap.set d m k v) k = v := by
  simp [SMap.get_set]

theorem SMap.get_set_ne (d : α) (m : SMap α) {k j : Nat} (v : α) (h : j ≠ k) :
    SMap.get d (SMap.set d m k v) j = SMap.get d m j := by simp [SMap.get_set, h]

/-! ### The canonical form is kept -/

theorem SMap.erase_wf (d : α) : ∀ {m : SMap α} (k : Nat), SMap.wf d m = true → SMap.wf d (SMap.erase m k) = true
  | [], _, _ => rfl
  | c :: r, k, h => by
    rw [SMap.wf_cons] at h
    unfold SMap.erase
    split
    · exact SMap.erase_wf d k h.2.2
    · rw [SMap.wf_cons]; exact ⟨h.1, SMap.erase_above k h.2.1, SMap.erase_wf d k h.2.2⟩

theorem SMap.insert_wf (d : α) : ∀ {m : SMap α} {k : Nat} {v : α}, v ≠ d → (∀ c ∈ m, c.1 ≠ k) → SMap.wf d m = true →
    SMap.wf d (SMap.insert m k v) = true
  | [], k, v, hv, _, _ => by simp [SMap.insert, SMap.wf, hv]
  | c :: r, k, v, hv, hk, h => by
    have h' := (SMap.wf_cons d c r).mp h
    have hc := hk c (by simp)
    unfold SMap.insert
    split
    · rename_i hlt
      refine (SMap.wf_cons d _ _).mpr ⟨hv, ?_, h⟩
      simp only [SMap.above_cons, Bool.and_eq_true, decide_eq_true_eq]
      exact ⟨hlt, SMap.above_mono (Nat.le_of_lt hlt) h'.2.1⟩
    · rename_i hlt
      refine (SMap.wf_cons d _ _).mpr ⟨h'.1, SMap.insert_above v (by omega) h'.2.1, ?_⟩
      exact SMap.insert_wf d hv (fun x hx => hk x (by simp [hx])) h'.2.2

/-- Writing keeps the canonical form. -/
theorem SMap.set_wf (d : α) {m : SMap α} (k : Nat) (v : α) (h : SMap.wf d m = true) : SMap.wf d (SMap.set d m k v) = true := by
  unfold SMap.set
  split
  · exact SMap.erase_wf d k h
  · exact SMap.insert_wf d ‹_› (SMap.erase_keys m k) (SMap.erase_wf d k h)

theorem SMap.put_above {j k : Nat} (d : α) (v : α) (hk : j < k) : ∀ {m : SMap α}, SMap.above j m = true →
    SMap.above j (SMap.put d k v m) = true
  | [], _ => by unfold SMap.put; split <;> simp [hk]
  | c :: r, h => by
    have h' := h
    simp only [SMap.above_cons, Bool.and_eq_true, decide_eq_true_eq] at h'
    unfold SMap.put
    split
    · split
      · exact h
      · simp [hk, h']
    · split
      · split
        · exact h'.2
        · simp [hk, h'.2]
      · simp only [SMap.above_cons, Bool.and_eq_true, decide_eq_true_eq]; exact ⟨h'.1, SMap.put_above d v hk h'.2⟩

theorem SMap.put_wf (d : α) (k : Nat) (v : α) : ∀ {m : SMap α}, SMap.wf d m = true → SMap.wf d (SMap.put d k v m) = true
  | [], _ => by unfold SMap.put; split <;> simp_all [SMap.wf]
  | c :: r, h => by
    have h' := (SMap.wf_cons d c r).mp h
    unfold SMap.put
    split
    · split
      · exact h
      · rename_i hlt hv
        refine (SMap.wf_cons d _ _).mpr ⟨hv, ?_, h⟩
        simp only [SMap.above_cons, Bool.and_eq_true, decide_eq_true_eq]
        exact ⟨hlt, SMap.above_mono (Nat.le_of_lt hlt) h'.2.1⟩
    · split
      · rename_i he
        split
        · exact h'.2.2
        · rename_i hv; exact (SMap.wf_cons d _ _).mpr ⟨hv, by simpa [he] using h'.2.1, h'.2.2⟩
      · refine (SMap.wf_cons d _ _).mpr ⟨h'.1, SMap.put_above d v (by omega) h'.2.1, SMap.put_wf d k v h'.2.2⟩

/-- Pairs in any order become a canonical table. -/
theorem SMap.canon_wf (d : α) : ∀ l : List (Nat × α), SMap.wf d (SMap.canon d l) = true
  | [] => rfl
  | c :: r => SMap.put_wf d c.1 c.2 (SMap.canon_wf d r)

theorem SMap.put_mem (d : α) (k : Nat) (v : α) : ∀ {m : SMap α} {c : Nat × α}, c ∈ SMap.put d k v m → c = (k, v) ∨ c ∈ m
  | [], c, h => by unfold SMap.put at h; split at h <;> simp_all
  | x :: r, c, h => by
    unfold SMap.put at h
    split at h
    · split at h
      · exact Or.inr h
      · rcases List.mem_cons.mp h with h | h
        · exact Or.inl h
        · exact Or.inr h
    · split at h
      · split at h
        · exact Or.inr (List.mem_cons_of_mem _ h)
        · rcases List.mem_cons.mp h with h | h
          · exact Or.inl h
          · exact Or.inr (List.mem_cons_of_mem _ h)
      · rcases List.mem_cons.mp h with h | h
        · exact Or.inr (h ▸ List.mem_cons_self ..)
        · rcases SMap.put_mem d k v h with h | h
          · exact Or.inl h
          · exact Or.inr (List.mem_cons_of_mem _ h)

theorem SMap.canon_mem (d : α) : ∀ {l : List (Nat × α)} {c : Nat × α}, c ∈ SMap.canon d l → c ∈ l
  | [], _, h => h
  | x :: r, c, h => by
    rcases SMap.put_mem d x.1 x.2 h with h | h
    · exact h ▸ List.mem_cons_self ..
    · exact List.mem_cons_of_mem _ (SMap.canon_mem d h)

omit [DecidableEq α] in
theorem SMap.above_iff {k : Nat} {m : SMap α} : SMap.above k m = true ↔ ∀ c ∈ m, k < c.1 := by
  simp [SMap.above]

/-- Two canonical tables, the keys of the first below those of the second, make one. -/
theorem SMap.append_wf (d : α) : ∀ {m n : SMap α}, SMap.wf d m = true → SMap.wf d n = true →
    (∀ c ∈ m, SMap.above c.1 n = true) → SMap.wf d (m ++ n) = true
  | [], _, _, hn, _ => hn
  | c :: r, n, hm, hn, h => by
    have h' := (SMap.wf_cons d c r).mp hm
    refine (SMap.wf_cons d _ _).mpr ⟨h'.1, ?_, SMap.append_wf d h'.2.2 hn fun x hx => h x (List.mem_cons_of_mem _ hx)⟩
    rw [SMap.above_iff]
    intro x hx
    rcases List.mem_append.mp hx with hx | hx
    · exact SMap.above_iff.mp h'.2.1 x hx
    · exact SMap.above_iff.mp (h c (List.mem_cons_self ..)) x hx

theorem SMap.filter_wf (d : α) (p : Nat × α → Bool) : ∀ {m : SMap α}, SMap.wf d m = true → SMap.wf d (m.filter p) = true
  | [], _ => rfl
  | c :: r, h => by
    have h' := (SMap.wf_cons d c r).mp h
    by_cases hp : p c = true
    · rw [List.filter_cons_of_pos hp]
      refine (SMap.wf_cons d _ _).mpr ⟨h'.1, ?_, SMap.filter_wf d p h'.2.2⟩
      exact SMap.above_iff.mpr fun x hx => SMap.above_iff.mp h'.2.1 x ((List.mem_filter.mp hx).1)
    · rw [List.filter_cons_of_neg hp]; exact SMap.filter_wf d p h'.2.2

/-- A splice keeps the canonical form, whatever is spliced in. -/
theorem SMap.splice_wf (d : α) {m : SMap α} (lo hi : Nat) (new : List (Nat × α)) (h : SMap.wf d m = true) :
    SMap.wf d (SMap.splice d m lo hi new) = true := by
  unfold SMap.splice
  have inside : ∀ c ∈ SMap.canon d (new.filter fun c => decide (lo ≤ c.1) && decide (c.1 < hi)), lo ≤ c.1 ∧ c.1 < hi := by
    intro c hc; simpa using (List.mem_filter.mp (SMap.canon_mem d hc)).2
  refine SMap.append_wf d (SMap.append_wf d (SMap.filter_wf d _ h) (SMap.canon_wf d _) ?_) (SMap.filter_wf d _ h) ?_
  · intro c hc
    have h1 : c.1 < lo := by simpa using (List.mem_filter.mp hc).2
    exact SMap.above_iff.mpr fun x hx => by have := inside x hx; omega
  · intro c hc
    refine SMap.above_iff.mpr fun x hx => ?_
    have h2 : lo ≤ x.1 ∧ hi ≤ x.1 := by simpa using (List.mem_filter.mp hx).2
    rcases List.mem_append.mp hc with hc | hc
    · have h1 : c.1 < lo := by simpa using (List.mem_filter.mp hc).2
      omega
    · have := inside c hc; omega

/-- A slice of a canonical table is canonical. -/
theorem SMap.slice_wf (d : α) (lo hi base : Nat) : ∀ {m : SMap α}, SMap.wf d m = true → SMap.wf d (SMap.slice m lo hi base) = true
  | [], _ => rfl
  | c :: r, h => by
    have h' := (SMap.wf_cons d c r).mp h
    have ih := SMap.slice_wf d lo hi base h'.2.2
    unfold SMap.slice at ih ⊢
    simp only [List.filterMap_cons]
    by_cases hc : lo ≤ c.1 ∧ c.1 < hi
    · simp only [hc, and_self, if_true]
      refine (SMap.wf_cons d _ _).mpr ⟨h'.1, ?_, ih⟩
      refine SMap.above_iff.mpr fun x hx => ?_
      obtain ⟨y, hy, e⟩ := List.mem_filterMap.mp hx
      have := SMap.above_iff.mp h'.2.1 y hy
      split at e
      · obtain rfl := Option.some.inj e; simp only; omega
      · cases e
    · simp only [hc, if_false]; exact ih

/-- A table tabulated over rising keys is canonical. -/
theorem SMap.tabulate_wf (d : α) (f : Nat → α) : ∀ {ks : List Nat}, ks.Pairwise (· < ·) → SMap.wf d (SMap.tabulate d ks f) = true
  | [], _ => rfl
  | k :: r, h => by
    have ih := SMap.tabulate_wf d f (List.Pairwise.of_cons h)
    unfold SMap.tabulate at ih ⊢
    simp only [List.filterMap_cons]
    by_cases hk : f k = d
    · simp only [hk, if_true]; exact ih
    · simp only [hk, if_false]
      refine (SMap.wf_cons d _ _).mpr ⟨hk, SMap.above_iff.mpr fun x hx => ?_, ih⟩
      obtain ⟨y, hy, e⟩ := List.mem_filterMap.mp hx
      have := (List.pairwise_cons.mp h).1 y hy
      split at e
      · cases e
      · obtain rfl := Option.some.inj e; exact this

end

/-! ### Memories -/

@[simp] theorem Memory.wf_nil : Memory.wf [] = true := rfl

/-- A byte read after a byte written. -/
theorem Memory.byte_setByte (m : Memory) (a : Nat) (b : Byte) (x : Nat) :
    (m.setByte a b).byte x = if x = a then b else m.byte x := SMap.get_set ..

@[simp] theorem Memory.setByte_wf {m : Memory} (a : Nat) (b : Byte) (h : m.wf = true) : (m.setByte a b).wf = true :=
  SMap.set_wf _ _ _ h

@[simp] theorem Memory.write_wf : ∀ {m : Memory} (a x n : Nat), m.wf = true → (m.write a x n).wf = true
  | _, _, _, 0, h => h
  | _, a, x, n + 1, h => Memory.write_wf (a + 1) (x / 256) n (Memory.setByte_wf a _ h)

/-- A write changes its bytes only, and the byte `a + i` becomes bits 8i+7:8i of the value (00 R3). -/
theorem Memory.byte_write : ∀ (m : Memory) (a x n b : Nat),
    (m.write a x n).byte b = if a ≤ b ∧ b < a + n then BitVec.ofNat 8 (x / 256 ^ (b - a)) else m.byte b
  | m, a, x, 0, b => by
    have h : ¬ (a ≤ b ∧ b < a + 0) := by omega
    rw [if_neg h]; rfl
  | m, a, x, n + 1, b => by
    rw [Memory.write, Memory.byte_write, Memory.byte_setByte]
    by_cases h1 : b = a
    · subst h1
      rw [if_neg (by omega), if_pos rfl, if_pos ⟨Nat.le_refl _, by omega⟩, Nat.sub_self, Nat.pow_zero, Nat.div_one]
    · by_cases h2 : a + 1 ≤ b ∧ b < a + 1 + n
      · have e : b - a = (b - (a + 1)) + 1 := by omega
        rw [if_pos h2, if_pos (by omega), e, Nat.pow_succ, Nat.div_div_eq_div_mul, Nat.mul_comm]
      · rw [if_neg h2, if_neg h1, if_neg (by omega)]

theorem Memory.read_congr {m k : Memory} : ∀ {a n : Nat}, (∀ b, a ≤ b → b < a + n → m.byte b = k.byte b) → m.read a n = k.read a n
  | _, 0, _ => rfl
  | a, n + 1, h => by
    simp only [Memory.read]
    rw [h a (by omega) (by omega), Memory.read_congr (a := a + 1) fun b h1 h2 => h b (by omega) (by omega)]

/-- Reading the bytes just written gives the value, reduced to their number. -/
theorem Memory.read_write_same : ∀ (m : Memory) (a x n : Nat), (m.write a x n).read a n = x % 256 ^ n
  | _, _, x, 0 => by simp [Memory.read, Nat.mod_one]
  | m, a, x, n + 1 => by
    simp only [Memory.read]
    rw [Memory.write]
    have h0 : ((m.setByte a (BitVec.ofNat 8 x)).write (a + 1) (x / 256) n).byte a = BitVec.ofNat 8 x := by
      rw [Memory.byte_write, if_neg (by omega), Memory.byte_setByte, if_pos rfl]
    rw [h0, Memory.read_write_same, BitVec.toNat_ofNat, show (2 : Nat) ^ 8 = 256 from rfl, Nat.pow_succ, Nat.mul_comm (256 ^ n), Nat.mod_mul]

/-- A write elsewhere leaves a read alone. -/
theorem Memory.read_write_other (m : Memory) (a x n b k : Nat) (h : b + k ≤ a ∨ a + n ≤ b) :
    (m.write a x n).read b k = m.read b k :=
  Memory.read_congr fun c h1 h2 => by rw [Memory.byte_write, if_neg (by omega)]

end Sys2Proof.Machine
end

