-- ==== Sys2Proof/Laws/State.lean ====
section
/-!
SUPPORT. The lenses of State, one lemma for each field under each update (Machine/Ops.lean): what an update writes, and that
every other field stands.
-/
namespace Sys2Proof.Machine

set_option Elab.async false

/-! ### The core whose step is taken -/

@[simp] theorem State.onCore_core (s : State) (f : Core → Core) : (s.onCore f).core = f s.core := rfl
@[simp] theorem State.onCore_now (s : State) (f : Core → Core) : (s.onCore f).now = s.now := rfl
@[simp] theorem State.onCore_trained (s : State) (f : Core → Core) : (s.onCore f).trained = s.trained := rfl
@[simp] theorem State.onCore_offsets (s : State) (f : Core → Core) : (s.onCore f).offsets = s.offsets := rfl
@[simp] theorem State.onCore_others (s : State) (f : Core → Core) : (s.onCore f).others = s.others := rfl
@[simp] theorem State.onCore_hbm (s : State) (f : Core → Core) : (s.onCore f).hbm = s.hbm := rfl
@[simp] theorem State.onCore_host (s : State) (f : Core → Core) : (s.onCore f).host = s.host := rfl
@[simp] theorem State.onCore_wstore (s : State) (f : Core → Core) : (s.onCore f).wstore = s.wstore := rfl
@[simp] theorem State.onCore_calendar (s : State) (f : Core → Core) : (s.onCore f).calendar = s.calendar := rfl
@[simp] theorem State.onCore_agenda (s : State) (f : Core → Core) : (s.onCore f).agenda = s.agenda := rfl
@[simp] theorem State.onCore_lates (s : State) (f : Core → Core) : (s.onCore f).lates = s.lates := rfl
@[simp] theorem State.onCore_iommu (s : State) (f : Core → Core) : (s.onCore f).iommu = s.iommu := rfl
@[simp] theorem State.onCore_pageReqs (s : State) (f : Core → Core) : (s.onCore f).pageReqs = s.pageReqs := rfl
@[simp] theorem State.onCore_refused (s : State) (f : Core → Core) : (s.onCore f).refused = s.refused := rfl
@[simp] theorem State.onCore_stamps (s : State) (f : Core → Core) : (s.onCore f).stamps = s.stamps := rfl
@[simp] theorem State.onCore_wen (s : State) (f : Core → Core) : (s.onCore f).wen = s.wen := rfl
@[simp] theorem State.onCore_wenNext (s : State) (f : Core → Core) : (s.onCore f).wenNext = s.wenNext := rfl
@[simp] theorem State.onCore_windows (s : State) (f : Core → Core) : (s.onCore f).windows = s.windows := rfl
@[simp] theorem State.onCore_rqbase (s : State) (f : Core → Core) : (s.onCore f).rqbase = s.rqbase := rfl
@[simp] theorem State.onCore_rqOld (s : State) (f : Core → Core) : (s.onCore f).rqOld = s.rqOld := rfl
@[simp] theorem State.onCore_ptbase (s : State) (f : Core → Core) : (s.onCore f).ptbase = s.ptbase := rfl
@[simp] theorem State.onCore_ports (s : State) (f : Core → Core) : (s.onCore f).ports = s.ports := rfl
@[simp] theorem State.onCore_cryo (s : State) (f : Core → Core) : (s.onCore f).cryo = s.cryo := rfl
@[simp] theorem State.onCore_ptp (s : State) (f : Core → Core) : (s.onCore f).ptp = s.ptp := rfl
@[simp] theorem State.onCore_groups (s : State) (f : Core → Core) : (s.onCore f).groups = s.groups := rfl
@[simp] theorem State.onCore_clears (s : State) (f : Core → Core) : (s.onCore f).clears = s.clears := rfl
@[simp] theorem State.onCore_buses (s : State) (f : Core → Core) : (s.onCore f).buses = s.buses := rfl
@[simp] theorem State.onCore_edgeNum (s : State) (f : Core → Core) : (s.onCore f).edgeNum = s.edgeNum := rfl
@[simp] theorem State.onCore_barriers (s : State) (f : Core → Core) : (s.onCore f).barriers = s.barriers := rfl
@[simp] theorem State.onCore_queueWaits (s : State) (f : Core → Core) : (s.onCore f).queueWaits = s.queueWaits := rfl
@[simp] theorem State.onCore_queueMarks (s : State) (f : Core → Core) : (s.onCore f).queueMarks = s.queueMarks := rfl
@[simp] theorem State.onCore_engines (s : State) (f : Core → Core) : (s.onCore f).engines = s.engines := rfl
@[simp] theorem State.onCore_flags (s : State) (f : Core → Core) : (s.onCore f).flags = s.flags := rfl
@[simp] theorem State.onCore_launches (s : State) (f : Core → Core) : (s.onCore f).launches = s.launches := rfl
@[simp] theorem State.onCore_launchNum (s : State) (f : Core → Core) : (s.onCore f).launchNum = s.launchNum := rfl
@[simp] theorem State.onCore_draws (s : State) (f : Core → Core) : (s.onCore f).draws = s.draws := rfl
@[simp] theorem State.onCore_ended (s : State) (f : Core → Core) : (s.onCore f).ended = s.ended := rfl
@[simp] theorem State.onCore_spawns (s : State) (f : Core → Core) : (s.onCore f).spawns = s.spawns := rfl
@[simp] theorem State.onCore_queues (s : State) (f : Core → Core) : (s.onCore f).queues = s.queues := rfl
@[simp] theorem State.onCore_saved (s : State) (f : Core → Core) : (s.onCore f).saved = s.saved := rfl
@[simp] theorem State.onCore_retired (s : State) (f : Core → Core) : (s.onCore f).retired = s.retired := rfl
@[simp] theorem State.onCore_msix (s : State) (f : Core → Core) : (s.onCore f).msix = s.msix := rfl
@[simp] theorem State.onCore_noPages (s : State) (f : Core → Core) : (s.onCore f).noPages = s.noPages := rfl
@[simp] theorem State.onCore_peers (s : State) (f : Core → Core) : (s.onCore f).peers = s.peers := rfl
@[simp] theorem State.onCore_wire (s : State) (f : Core → Core) : (s.onCore f).wire = s.wire := rfl
@[simp] theorem State.onCore_request (s : State) (f : Core → Core) : (s.onCore f).request = s.request := rfl
@[simp] theorem State.onCore_replies (s : State) (f : Core → Core) : (s.onCore f).replies = s.replies := rfl
@[simp] theorem State.onCore_log (s : State) (f : Core → Core) : (s.onCore f).log = s.log := rfl
@[simp] theorem State.onCore_closed (s : State) (f : Core → Core) : (s.onCore f).closed = s.closed := rfl
@[simp] theorem State.onCore_refreshing (s : State) (f : Core → Core) : (s.onCore f).refreshing = s.refreshing := rfl
@[simp] theorem State.onCore_testing (s : State) (f : Core → Core) : (s.onCore f).testing = s.testing := rfl
@[simp] theorem State.onCore_links (s : State) (f : Core → Core) : (s.onCore f).links = s.links := rfl
@[simp] theorem State.onCore_raised (s : State) (f : Core → Core) : (s.onCore f).raised = s.raised := rfl
@[simp] theorem State.onCore_holding (s : State) (f : Core → Core) : (s.onCore f).holding = s.holding := rfl

/-! ### The executing bank -/

@[simp] theorem State.onBank_bank (s : State) (f : Bank → Bank) : (s.onBank f).core.bank = f s.core.bank := rfl
@[simp] theorem State.onBank_now (s : State) (f : Bank → Bank) : (s.onBank f).now = s.now := rfl
@[simp] theorem State.onBank_trained (s : State) (f : Bank → Bank) : (s.onBank f).trained = s.trained := rfl
@[simp] theorem State.onBank_offsets (s : State) (f : Bank → Bank) : (s.onBank f).offsets = s.offsets := rfl
@[simp] theorem State.onBank_others (s : State) (f : Bank → Bank) : (s.onBank f).others = s.others := rfl
@[simp] theorem State.onBank_hbm (s : State) (f : Bank → Bank) : (s.onBank f).hbm = s.hbm := rfl
@[simp] theorem State.onBank_host (s : State) (f : Bank → Bank) : (s.onBank f).host = s.host := rfl
@[simp] theorem State.onBank_wstore (s : State) (f : Bank → Bank) : (s.onBank f).wstore = s.wstore := rfl
@[simp] theorem State.onBank_calendar (s : State) (f : Bank → Bank) : (s.onBank f).calendar = s.calendar := rfl
@[simp] theorem State.onBank_agenda (s : State) (f : Bank → Bank) : (s.onBank f).agenda = s.agenda := rfl
@[simp] theorem State.onBank_lates (s : State) (f : Bank → Bank) : (s.onBank f).lates = s.lates := rfl
@[simp] theorem State.onBank_iommu (s : State) (f : Bank → Bank) : (s.onBank f).iommu = s.iommu := rfl
@[simp] theorem State.onBank_pageReqs (s : State) (f : Bank → Bank) : (s.onBank f).pageReqs = s.pageReqs := rfl
@[simp] theorem State.onBank_refused (s : State) (f : Bank → Bank) : (s.onBank f).refused = s.refused := rfl
@[simp] theorem State.onBank_stamps (s : State) (f : Bank → Bank) : (s.onBank f).stamps = s.stamps := rfl
@[simp] theorem State.onBank_wen (s : State) (f : Bank → Bank) : (s.onBank f).wen = s.wen := rfl
@[simp] theorem State.onBank_wenNext (s : State) (f : Bank → Bank) : (s.onBank f).wenNext = s.wenNext := rfl
@[simp] theorem State.onBank_windows (s : State) (f : Bank → Bank) : (s.onBank f).windows = s.windows := rfl
@[simp] theorem State.onBank_rqbase (s : State) (f : Bank → Bank) : (s.onBank f).rqbase = s.rqbase := rfl
@[simp] theorem State.onBank_rqOld (s : State) (f : Bank → Bank) : (s.onBank f).rqOld = s.rqOld := rfl
@[simp] theorem State.onBank_ptbase (s : State) (f : Bank → Bank) : (s.onBank f).ptbase = s.ptbase := rfl
@[simp] theorem State.onBank_ports (s : State) (f : Bank → Bank) : (s.onBank f).ports = s.ports := rfl
@[simp] theorem State.onBank_cryo (s : State) (f : Bank → Bank) : (s.onBank f).cryo = s.cryo := rfl
@[simp] theorem State.onBank_ptp (s : State) (f : Bank → Bank) : (s.onBank f).ptp = s.ptp := rfl
@[simp] theorem State.onBank_groups (s : State) (f : Bank → Bank) : (s.onBank f).groups = s.groups := rfl
@[simp] theorem State.onBank_clears (s : State) (f : Bank → Bank) : (s.onBank f).clears = s.clears := rfl
@[simp] theorem State.onBank_buses (s : State) (f : Bank → Bank) : (s.onBank f).buses = s.buses := rfl
@[simp] theorem State.onBank_edgeNum (s : State) (f : Bank → Bank) : (s.onBank f).edgeNum = s.edgeNum := rfl
@[simp] theorem State.onBank_barriers (s : State) (f : Bank → Bank) : (s.onBank f).barriers = s.barriers := rfl
@[simp] theorem State.onBank_queueWaits (s : State) (f : Bank → Bank) : (s.onBank f).queueWaits = s.queueWaits := rfl
@[simp] theorem State.onBank_queueMarks (s : State) (f : Bank → Bank) : (s.onBank f).queueMarks = s.queueMarks := rfl
@[simp] theorem State.onBank_engines (s : State) (f : Bank → Bank) : (s.onBank f).engines = s.engines := rfl
@[simp] theorem State.onBank_flags (s : State) (f : Bank → Bank) : (s.onBank f).flags = s.flags := rfl
@[simp] theorem State.onBank_launches (s : State) (f : Bank → Bank) : (s.onBank f).launches = s.launches := rfl
@[simp] theorem State.onBank_launchNum (s : State) (f : Bank → Bank) : (s.onBank f).launchNum = s.launchNum := rfl
@[simp] theorem State.onBank_draws (s : State) (f : Bank → Bank) : (s.onBank f).draws = s.draws := rfl
@[simp] theorem State.onBank_ended (s : State) (f : Bank → Bank) : (s.onBank f).ended = s.ended := rfl
@[simp] theorem State.onBank_spawns (s : State) (f : Bank → Bank) : (s.onBank f).spawns = s.spawns := rfl
@[simp] theorem State.onBank_queues (s : State) (f : Bank → Bank) : (s.onBank f).queues = s.queues := rfl
@[simp] theorem State.onBank_saved (s : State) (f : Bank → Bank) : (s.onBank f).saved = s.saved := rfl
@[simp] theorem State.onBank_retired (s : State) (f : Bank → Bank) : (s.onBank f).retired = s.retired := rfl
@[simp] theorem State.onBank_msix (s : State) (f : Bank → Bank) : (s.onBank f).msix = s.msix := rfl
@[simp] theorem State.onBank_noPages (s : State) (f : Bank → Bank) : (s.onBank f).noPages = s.noPages := rfl
@[simp] theorem State.onBank_peers (s : State) (f : Bank → Bank) : (s.onBank f).peers = s.peers := rfl
@[simp] theorem State.onBank_wire (s : State) (f : Bank → Bank) : (s.onBank f).wire = s.wire := rfl
@[simp] theorem State.onBank_request (s : State) (f : Bank → Bank) : (s.onBank f).request = s.request := rfl
@[simp] theorem State.onBank_replies (s : State) (f : Bank → Bank) : (s.onBank f).replies = s.replies := rfl
@[simp] theorem State.onBank_log (s : State) (f : Bank → Bank) : (s.onBank f).log = s.log := rfl
@[simp] theorem State.onBank_closed (s : State) (f : Bank → Bank) : (s.onBank f).closed = s.closed := rfl
@[simp] theorem State.onBank_refreshing (s : State) (f : Bank → Bank) : (s.onBank f).refreshing = s.refreshing := rfl
@[simp] theorem State.onBank_testing (s : State) (f : Bank → Bank) : (s.onBank f).testing = s.testing := rfl
@[simp] theorem State.onBank_links (s : State) (f : Bank → Bank) : (s.onBank f).links = s.links := rfl
@[simp] theorem State.onBank_raised (s : State) (f : Bank → Bank) : (s.onBank f).raised = s.raised := rfl
@[simp] theorem State.onBank_holding (s : State) (f : Bank → Bank) : (s.onBank f).holding = s.holding := rfl
@[simp] theorem State.onBank_core_id (s : State) (f : Bank → Bank) : (s.onBank f).core.id = s.core.id := rfl
@[simp] theorem State.onBank_core_running (s : State) (f : Bank → Bank) : (s.onBank f).core.running = s.core.running := rfl
@[simp] theorem State.onBank_core_task (s : State) (f : Bank → Bank) : (s.onBank f).core.task = s.core.task := rfl
@[simp] theorem State.onBank_core_other (s : State) (f : Bank → Bank) : (s.onBank f).core.other = s.core.other := rfl
@[simp] theorem State.onBank_core_ctl (s : State) (f : Bank → Bank) : (s.onBank f).core.ctl = s.core.ctl := rfl
@[simp] theorem State.onBank_core_mat (s : State) (f : Bank → Bank) : (s.onBank f).core.mat = s.core.mat := rfl
@[simp] theorem State.onBank_core_vec (s : State) (f : Bank → Bank) : (s.onBank f).core.vec = s.core.vec := rfl
@[simp] theorem State.onBank_core_cpy (s : State) (f : Bank → Bank) : (s.onBank f).core.cpy = s.core.cpy := rfl
@[simp] theorem State.onBank_core_nextAt (s : State) (f : Bank → Bank) : (s.onBank f).core.nextAt = s.core.nextAt := rfl
@[simp] theorem State.onBank_core_frozen (s : State) (f : Bank → Bank) : (s.onBank f).core.frozen = s.core.frozen := rfl
@[simp] theorem State.onBank_core_cause (s : State) (f : Bank → Bank) : (s.onBank f).core.cause = s.core.cause := rfl
@[simp] theorem State.onBank_core_stalled (s : State) (f : Bank → Bank) : (s.onBank f).core.stalled = s.core.stalled := rfl
@[simp] theorem State.onBank_core_held (s : State) (f : Bank → Bank) : (s.onBank f).core.held = s.core.held := rfl
@[simp] theorem State.onBank_core_waits (s : State) (f : Bank → Bank) : (s.onBank f).core.waits = s.core.waits := rfl
@[simp] theorem State.onBank_core_recvWait (s : State) (f : Bank → Bank) : (s.onBank f).core.recvWait = s.core.recvWait := rfl
@[simp] theorem State.onBank_core_returned (s : State) (f : Bank → Bank) : (s.onBank f).core.returned = s.core.returned := rfl
@[simp] theorem State.onBank_core_seq (s : State) (f : Bank → Bank) : (s.onBank f).core.seq = s.core.seq := rfl
@[simp] theorem State.onBank_core_cur (s : State) (f : Bank → Bank) : (s.onBank f).core.cur = s.core.cur := rfl
@[simp] theorem State.onBank_core_spad (s : State) (f : Bank → Bank) : (s.onBank f).core.spad = s.core.spad := rfl
@[simp] theorem State.onBank_core_wbuf (s : State) (f : Bank → Bank) : (s.onBank f).core.wbuf = s.core.wbuf := rfl
@[simp] theorem State.onBank_core_chans (s : State) (f : Bank → Bank) : (s.onBank f).core.chans = s.core.chans := rfl
@[simp] theorem State.onBank_core_micro (s : State) (f : Bank → Bank) : (s.onBank f).core.micro = s.core.micro := rfl
@[simp] theorem State.onBank_core_routines (s : State) (f : Bank → Bank) : (s.onBank f).core.routines = s.core.routines := rfl
@[simp] theorem State.onBank_core_mBusy (s : State) (f : Bank → Bank) : (s.onBank f).core.mBusy = s.core.mBusy := rfl
@[simp] theorem State.onBank_core_xBusy (s : State) (f : Bank → Bank) : (s.onBank f).core.xBusy = s.core.xBusy := rfl
@[simp] theorem State.onBank_core_late (s : State) (f : Bank → Bank) : (s.onBank f).core.late = s.core.late := rfl
@[simp] theorem State.onBank_core_engine (s : State) (f : Bank → Bank) : (s.onBank f).core.engine = s.core.engine := rfl
@[simp] theorem State.onBank_core_matOps (s : State) (f : Bank → Bank) : (s.onBank f).core.matOps = s.core.matOps := rfl
@[simp] theorem State.onBank_core_lag (s : State) (f : Bank → Bank) : (s.onBank f).core.lag = s.core.lag := rfl
@[simp] theorem State.onBank_core_stage (s : State) (f : Bank → Bank) : (s.onBank f).core.stage = s.core.stage := rfl
@[simp] theorem State.onBank_core_relax (s : State) (f : Bank → Bank) : (s.onBank f).core.relax = s.core.relax := rfl
@[simp] theorem State.onBank_core_rowOps (s : State) (f : Bank → Bank) : (s.onBank f).core.rowOps = s.core.rowOps := rfl
@[simp] theorem State.onBank_core_staged (s : State) (f : Bank → Bank) : (s.onBank f).core.staged = s.core.staged := rfl
@[simp] theorem State.onBank_core_due (s : State) (f : Bank → Bank) : (s.onBank f).core.due = s.core.due := rfl
@[simp] theorem State.onBank_core_elim (s : State) (f : Bank → Bank) : (s.onBank f).core.elim = s.core.elim := rfl
@[simp] theorem State.onBank_core_frzc (s : State) (f : Bank → Bank) : (s.onBank f).core.frzc = s.core.frzc := rfl
@[simp] theorem State.onBank_core_window (s : State) (f : Bank → Bank) : (s.onBank f).core.window = s.core.window := rfl
@[simp] theorem State.onBank_core_gov (s : State) (f : Bank → Bank) : (s.onBank f).core.gov = s.core.gov := rfl
@[simp] theorem State.onBank_core_divs (s : State) (f : Bank → Bank) : (s.onBank f).core.divs = s.core.divs := rfl
@[simp] theorem State.onBank_core_fl (s : State) (f : Bank → Bank) : (s.onBank f).core.fl = s.core.fl := rfl
@[simp] theorem State.onBank_core_stretch (s : State) (f : Bank → Bank) : (s.onBank f).core.stretch = s.core.stretch := rfl
@[simp] theorem State.onBank_core_cleared (s : State) (f : Bank → Bank) : (s.onBank f).core.cleared = s.core.cleared := rfl
@[simp] theorem State.onBank_core_map (s : State) (f : Bank → Bank) : (s.onBank f).core.map = s.core.map := rfl
@[simp] theorem State.onBank_core_mapAt (s : State) (f : Bank → Bank) : (s.onBank f).core.mapAt = s.core.mapAt := rfl
@[simp] theorem State.onBank_core_path (s : State) (f : Bank → Bank) : (s.onBank f).core.path = s.core.path := rfl
@[simp] theorem State.onBank_core_sllen (s : State) (f : Bank → Bank) : (s.onBank f).core.sllen = s.core.sllen := rfl
@[simp] theorem State.onBank_core_slhop (s : State) (f : Bank → Bank) : (s.onBank f).core.slhop = s.core.slhop := rfl
@[simp] theorem State.onBank_core_dones (s : State) (f : Bank → Bank) : (s.onBank f).core.dones = s.core.dones := rfl
@[simp] theorem State.onBank_core_fetched (s : State) (f : Bank → Bank) : (s.onBank f).core.fetched = s.core.fetched := rfl
@[simp] theorem State.onBank_core_accSeq (s : State) (f : Bank → Bank) : (s.onBank f).core.accSeq = s.core.accSeq := rfl
@[simp] theorem State.onBank_core_sends (s : State) (f : Bank → Bank) : (s.onBank f).core.sends = s.core.sends := rfl
@[simp] theorem State.onBank_core_recvs (s : State) (f : Bank → Bank) : (s.onBank f).core.recvs = s.core.recvs := rfl
@[simp] theorem State.onBank_core_recvFrom (s : State) (f : Bank → Bank) : (s.onBank f).core.recvFrom = s.core.recvFrom := rfl
@[simp] theorem State.onBank_core_stall (s : State) (f : Bank → Bank) : (s.onBank f).core.stall = s.core.stall := rfl
@[simp] theorem State.onBank_core_scinv (s : State) (f : Bank → Bank) : (s.onBank f).core.scinv = s.core.scinv := rfl
@[simp] theorem State.onBank_core_preempt (s : State) (f : Bank → Bank) : (s.onBank f).core.preempt = s.core.preempt := rfl

/-! ### The executing context's system registers -/

@[simp] theorem State.onSys_sys (s : State) (f : SysRegs → SysRegs) : (s.onSys f).core.bank.sys = f s.core.bank.sys := rfl
@[simp] theorem State.onSys_now (s : State) (f : SysRegs → SysRegs) : (s.onSys f).now = s.now := rfl
@[simp] theorem State.onSys_trained (s : State) (f : SysRegs → SysRegs) : (s.onSys f).trained = s.trained := rfl
@[simp] theorem State.onSys_offsets (s : State) (f : SysRegs → SysRegs) : (s.onSys f).offsets = s.offsets := rfl
@[simp] theorem State.onSys_others (s : State) (f : SysRegs → SysRegs) : (s.onSys f).others = s.others := rfl
@[simp] theorem State.onSys_hbm (s : State) (f : SysRegs → SysRegs) : (s.onSys f).hbm = s.hbm := rfl
@[simp] theorem State.onSys_host (s : State) (f : SysRegs → SysRegs) : (s.onSys f).host = s.host := rfl
@[simp] theorem State.onSys_wstore (s : State) (f : SysRegs → SysRegs) : (s.onSys f).wstore = s.wstore := rfl
@[simp] theorem State.onSys_calendar (s : State) (f : SysRegs → SysRegs) : (s.onSys f).calendar = s.calendar := rfl
@[simp] theorem State.onSys_agenda (s : State) (f : SysRegs → SysRegs) : (s.onSys f).agenda = s.agenda := rfl
@[simp] theorem State.onSys_lates (s : State) (f : SysRegs → SysRegs) : (s.onSys f).lates = s.lates := rfl
@[simp] theorem State.onSys_iommu (s : State) (f : SysRegs → SysRegs) : (s.onSys f).iommu = s.iommu := rfl
@[simp] theorem State.onSys_pageReqs (s : State) (f : SysRegs → SysRegs) : (s.onSys f).pageReqs = s.pageReqs := rfl
@[simp] theorem State.onSys_refused (s : State) (f : SysRegs → SysRegs) : (s.onSys f).refused = s.refused := rfl
@[simp] theorem State.onSys_stamps (s : State) (f : SysRegs → SysRegs) : (s.onSys f).stamps = s.stamps := rfl
@[simp] theorem State.onSys_wen (s : State) (f : SysRegs → SysRegs) : (s.onSys f).wen = s.wen := rfl
@[simp] theorem State.onSys_wenNext (s : State) (f : SysRegs → SysRegs) : (s.onSys f).wenNext = s.wenNext := rfl
@[simp] theorem State.onSys_windows (s : State) (f : SysRegs → SysRegs) : (s.onSys f).windows = s.windows := rfl
@[simp] theorem State.onSys_rqbase (s : State) (f : SysRegs → SysRegs) : (s.onSys f).rqbase = s.rqbase := rfl
@[simp] theorem State.onSys_rqOld (s : State) (f : SysRegs → SysRegs) : (s.onSys f).rqOld = s.rqOld := rfl
@[simp] theorem State.onSys_ptbase (s : State) (f : SysRegs → SysRegs) : (s.onSys f).ptbase = s.ptbase := rfl
@[simp] theorem State.onSys_ports (s : State) (f : SysRegs → SysRegs) : (s.onSys f).ports = s.ports := rfl
@[simp] theorem State.onSys_cryo (s : State) (f : SysRegs → SysRegs) : (s.onSys f).cryo = s.cryo := rfl
@[simp] theorem State.onSys_ptp (s : State) (f : SysRegs → SysRegs) : (s.onSys f).ptp = s.ptp := rfl
@[simp] theorem State.onSys_groups (s : State) (f : SysRegs → SysRegs) : (s.onSys f).groups = s.groups := rfl
@[simp] theorem State.onSys_clears (s : State) (f : SysRegs → SysRegs) : (s.onSys f).clears = s.clears := rfl
@[simp] theorem State.onSys_buses (s : State) (f : SysRegs → SysRegs) : (s.onSys f).buses = s.buses := rfl
@[simp] theorem State.onSys_edgeNum (s : State) (f : SysRegs → SysRegs) : (s.onSys f).edgeNum = s.edgeNum := rfl
@[simp] theorem State.onSys_barriers (s : State) (f : SysRegs → SysRegs) : (s.onSys f).barriers = s.barriers := rfl
@[simp] theorem State.onSys_queueWaits (s : State) (f : SysRegs → SysRegs) : (s.onSys f).queueWaits = s.queueWaits := rfl
@[simp] theorem State.onSys_queueMarks (s : State) (f : SysRegs → SysRegs) : (s.onSys f).queueMarks = s.queueMarks := rfl
@[simp] theorem State.onSys_engines (s : State) (f : SysRegs → SysRegs) : (s.onSys f).engines = s.engines := rfl
@[simp] theorem State.onSys_flags (s : State) (f : SysRegs → SysRegs) : (s.onSys f).flags = s.flags := rfl
@[simp] theorem State.onSys_launches (s : State) (f : SysRegs → SysRegs) : (s.onSys f).launches = s.launches := rfl
@[simp] theorem State.onSys_launchNum (s : State) (f : SysRegs → SysRegs) : (s.onSys f).launchNum = s.launchNum := rfl
@[simp] theorem State.onSys_draws (s : State) (f : SysRegs → SysRegs) : (s.onSys f).draws = s.draws := rfl
@[simp] theorem State.onSys_ended (s : State) (f : SysRegs → SysRegs) : (s.onSys f).ended = s.ended := rfl
@[simp] theorem State.onSys_spawns (s : State) (f : SysRegs → SysRegs) : (s.onSys f).spawns = s.spawns := rfl
@[simp] theorem State.onSys_queues (s : State) (f : SysRegs → SysRegs) : (s.onSys f).queues = s.queues := rfl
@[simp] theorem State.onSys_saved (s : State) (f : SysRegs → SysRegs) : (s.onSys f).saved = s.saved := rfl
@[simp] theorem State.onSys_retired (s : State) (f : SysRegs → SysRegs) : (s.onSys f).retired = s.retired := rfl
@[simp] theorem State.onSys_msix (s : State) (f : SysRegs → SysRegs) : (s.onSys f).msix = s.msix := rfl
@[simp] theorem State.onSys_noPages (s : State) (f : SysRegs → SysRegs) : (s.onSys f).noPages = s.noPages := rfl
@[simp] theorem State.onSys_peers (s : State) (f : SysRegs → SysRegs) : (s.onSys f).peers = s.peers := rfl
@[simp] theorem State.onSys_wire (s : State) (f : SysRegs → SysRegs) : (s.onSys f).wire = s.wire := rfl
@[simp] theorem State.onSys_request (s : State) (f : SysRegs → SysRegs) : (s.onSys f).request = s.request := rfl
@[simp] theorem State.onSys_replies (s : State) (f : SysRegs → SysRegs) : (s.onSys f).replies = s.replies := rfl
@[simp] theorem State.onSys_log (s : State) (f : SysRegs → SysRegs) : (s.onSys f).log = s.log := rfl
@[simp] theorem State.onSys_closed (s : State) (f : SysRegs → SysRegs) : (s.onSys f).closed = s.closed := rfl
@[simp] theorem State.onSys_refreshing (s : State) (f : SysRegs → SysRegs) : (s.onSys f).refreshing = s.refreshing := rfl
@[simp] theorem State.onSys_testing (s : State) (f : SysRegs → SysRegs) : (s.onSys f).testing = s.testing := rfl
@[simp] theorem State.onSys_links (s : State) (f : SysRegs → SysRegs) : (s.onSys f).links = s.links := rfl
@[simp] theorem State.onSys_raised (s : State) (f : SysRegs → SysRegs) : (s.onSys f).raised = s.raised := rfl
@[simp] theorem State.onSys_holding (s : State) (f : SysRegs → SysRegs) : (s.onSys f).holding = s.holding := rfl
@[simp] theorem State.onSys_core_id (s : State) (f : SysRegs → SysRegs) : (s.onSys f).core.id = s.core.id := rfl
@[simp] theorem State.onSys_core_running (s : State) (f : SysRegs → SysRegs) : (s.onSys f).core.running = s.core.running := rfl
@[simp] theorem State.onSys_core_task (s : State) (f : SysRegs → SysRegs) : (s.onSys f).core.task = s.core.task := rfl
@[simp] theorem State.onSys_core_other (s : State) (f : SysRegs → SysRegs) : (s.onSys f).core.other = s.core.other := rfl
@[simp] theorem State.onSys_core_ctl (s : State) (f : SysRegs → SysRegs) : (s.onSys f).core.ctl = s.core.ctl := rfl
@[simp] theorem State.onSys_core_mat (s : State) (f : SysRegs → SysRegs) : (s.onSys f).core.mat = s.core.mat := rfl
@[simp] theorem State.onSys_core_vec (s : State) (f : SysRegs → SysRegs) : (s.onSys f).core.vec = s.core.vec := rfl
@[simp] theorem State.onSys_core_cpy (s : State) (f : SysRegs → SysRegs) : (s.onSys f).core.cpy = s.core.cpy := rfl
@[simp] theorem State.onSys_core_nextAt (s : State) (f : SysRegs → SysRegs) : (s.onSys f).core.nextAt = s.core.nextAt := rfl
@[simp] theorem State.onSys_core_frozen (s : State) (f : SysRegs → SysRegs) : (s.onSys f).core.frozen = s.core.frozen := rfl
@[simp] theorem State.onSys_core_cause (s : State) (f : SysRegs → SysRegs) : (s.onSys f).core.cause = s.core.cause := rfl
@[simp] theorem State.onSys_core_stalled (s : State) (f : SysRegs → SysRegs) : (s.onSys f).core.stalled = s.core.stalled := rfl
@[simp] theorem State.onSys_core_held (s : State) (f : SysRegs → SysRegs) : (s.onSys f).core.held = s.core.held := rfl
@[simp] theorem State.onSys_core_waits (s : State) (f : SysRegs → SysRegs) : (s.onSys f).core.waits = s.core.waits := rfl
@[simp] theorem State.onSys_core_recvWait (s : State) (f : SysRegs → SysRegs) : (s.onSys f).core.recvWait = s.core.recvWait := rfl
@[simp] theorem State.onSys_core_returned (s : State) (f : SysRegs → SysRegs) : (s.onSys f).core.returned = s.core.returned := rfl
@[simp] theorem State.onSys_core_seq (s : State) (f : SysRegs → SysRegs) : (s.onSys f).core.seq = s.core.seq := rfl
@[simp] theorem State.onSys_core_cur (s : State) (f : SysRegs → SysRegs) : (s.onSys f).core.cur = s.core.cur := rfl
@[simp] theorem State.onSys_core_spad (s : State) (f : SysRegs → SysRegs) : (s.onSys f).core.spad = s.core.spad := rfl
@[simp] theorem State.onSys_core_wbuf (s : State) (f : SysRegs → SysRegs) : (s.onSys f).core.wbuf = s.core.wbuf := rfl
@[simp] theorem State.onSys_core_chans (s : State) (f : SysRegs → SysRegs) : (s.onSys f).core.chans = s.core.chans := rfl
@[simp] theorem State.onSys_core_micro (s : State) (f : SysRegs → SysRegs) : (s.onSys f).core.micro = s.core.micro := rfl
@[simp] theorem State.onSys_core_routines (s : State) (f : SysRegs → SysRegs) : (s.onSys f).core.routines = s.core.routines := rfl
@[simp] theorem State.onSys_core_mBusy (s : State) (f : SysRegs → SysRegs) : (s.onSys f).core.mBusy = s.core.mBusy := rfl
@[simp] theorem State.onSys_core_xBusy (s : State) (f : SysRegs → SysRegs) : (s.onSys f).core.xBusy = s.core.xBusy := rfl
@[simp] theorem State.onSys_core_late (s : State) (f : SysRegs → SysRegs) : (s.onSys f).core.late = s.core.late := rfl
@[simp] theorem State.onSys_core_engine (s : State) (f : SysRegs → SysRegs) : (s.onSys f).core.engine = s.core.engine := rfl
@[simp] theorem State.onSys_core_matOps (s : State) (f : SysRegs → SysRegs) : (s.onSys f).core.matOps = s.core.matOps := rfl
@[simp] theorem State.onSys_core_lag (s : State) (f : SysRegs → SysRegs) : (s.onSys f).core.lag = s.core.lag := rfl
@[simp] theorem State.onSys_core_stage (s : State) (f : SysRegs → SysRegs) : (s.onSys f).core.stage = s.core.stage := rfl
@[simp] theorem State.onSys_core_relax (s : State) (f : SysRegs → SysRegs) : (s.onSys f).core.relax = s.core.relax := rfl
@[simp] theorem State.onSys_core_rowOps (s : State) (f : SysRegs → SysRegs) : (s.onSys f).core.rowOps = s.core.rowOps := rfl
@[simp] theorem State.onSys_core_staged (s : State) (f : SysRegs → SysRegs) : (s.onSys f).core.staged = s.core.staged := rfl
@[simp] theorem State.onSys_core_due (s : State) (f : SysRegs → SysRegs) : (s.onSys f).core.due = s.core.due := rfl
@[simp] theorem State.onSys_core_elim (s : State) (f : SysRegs → SysRegs) : (s.onSys f).core.elim = s.core.elim := rfl
@[simp] theorem State.onSys_core_frzc (s : State) (f : SysRegs → SysRegs) : (s.onSys f).core.frzc = s.core.frzc := rfl
@[simp] theorem State.onSys_core_window (s : State) (f : SysRegs → SysRegs) : (s.onSys f).core.window = s.core.window := rfl
@[simp] theorem State.onSys_core_gov (s : State) (f : SysRegs → SysRegs) : (s.onSys f).core.gov = s.core.gov := rfl
@[simp] theorem State.onSys_core_divs (s : State) (f : SysRegs → SysRegs) : (s.onSys f).core.divs = s.core.divs := rfl
@[simp] theorem State.onSys_core_fl (s : State) (f : SysRegs → SysRegs) : (s.onSys f).core.fl = s.core.fl := rfl
@[simp] theorem State.onSys_core_stretch (s : State) (f : SysRegs → SysRegs) : (s.onSys f).core.stretch = s.core.stretch := rfl
@[simp] theorem State.onSys_core_cleared (s : State) (f : SysRegs → SysRegs) : (s.onSys f).core.cleared = s.core.cleared := rfl
@[simp] theorem State.onSys_core_map (s : State) (f : SysRegs → SysRegs) : (s.onSys f).core.map = s.core.map := rfl
@[simp] theorem State.onSys_core_mapAt (s : State) (f : SysRegs → SysRegs) : (s.onSys f).core.mapAt = s.core.mapAt := rfl
@[simp] theorem State.onSys_core_path (s : State) (f : SysRegs → SysRegs) : (s.onSys f).core.path = s.core.path := rfl
@[simp] theorem State.onSys_core_sllen (s : State) (f : SysRegs → SysRegs) : (s.onSys f).core.sllen = s.core.sllen := rfl
@[simp] theorem State.onSys_core_slhop (s : State) (f : SysRegs → SysRegs) : (s.onSys f).core.slhop = s.core.slhop := rfl
@[simp] theorem State.onSys_core_dones (s : State) (f : SysRegs → SysRegs) : (s.onSys f).core.dones = s.core.dones := rfl
@[simp] theorem State.onSys_core_fetched (s : State) (f : SysRegs → SysRegs) : (s.onSys f).core.fetched = s.core.fetched := rfl
@[simp] theorem State.onSys_core_accSeq (s : State) (f : SysRegs → SysRegs) : (s.onSys f).core.accSeq = s.core.accSeq := rfl
@[simp] theorem State.onSys_core_sends (s : State) (f : SysRegs → SysRegs) : (s.onSys f).core.sends = s.core.sends := rfl
@[simp] theorem State.onSys_core_recvs (s : State) (f : SysRegs → SysRegs) : (s.onSys f).core.recvs = s.core.recvs := rfl
@[simp] theorem State.onSys_core_recvFrom (s : State) (f : SysRegs → SysRegs) : (s.onSys f).core.recvFrom = s.core.recvFrom := rfl
@[simp] theorem State.onSys_core_stall (s : State) (f : SysRegs → SysRegs) : (s.onSys f).core.stall = s.core.stall := rfl
@[simp] theorem State.onSys_core_scinv (s : State) (f : SysRegs → SysRegs) : (s.onSys f).core.scinv = s.core.scinv := rfl
@[simp] theorem State.onSys_core_preempt (s : State) (f : SysRegs → SysRegs) : (s.onSys f).core.preempt = s.core.preempt := rfl
@[simp] theorem State.onSys_bank_id (s : State) (f : SysRegs → SysRegs) : (s.onSys f).core.bank.id = s.core.bank.id := rfl
@[simp] theorem State.onSys_bank_use (s : State) (f : SysRegs → SysRegs) : (s.onSys f).core.bank.use = s.core.bank.use := rfl
@[simp] theorem State.onSys_bank_g (s : State) (f : SysRegs → SysRegs) : (s.onSys f).core.bank.g = s.core.bank.g := rfl
@[simp] theorem State.onSys_bank_p (s : State) (f : SysRegs → SysRegs) : (s.onSys f).core.bank.p = s.core.bank.p := rfl
@[simp] theorem State.onSys_bank_a (s : State) (f : SysRegs → SysRegs) : (s.onSys f).core.bank.a = s.core.bank.a := rfl
@[simp] theorem State.onSys_bank_v (s : State) (f : SysRegs → SysRegs) : (s.onSys f).core.bank.v = s.core.bank.v := rfl
@[simp] theorem State.onSys_bank_vtag (s : State) (f : SysRegs → SysRegs) : (s.onSys f).core.bank.vtag = s.core.bank.vtag := rfl
@[simp] theorem State.onSys_bank_vm (s : State) (f : SysRegs → SysRegs) : (s.onSys f).core.bank.vm = s.core.bank.vm := rfl
@[simp] theorem State.onSys_bank_t (s : State) (f : SysRegs → SysRegs) : (s.onSys f).core.bank.t = s.core.bank.t := rfl
@[simp] theorem State.onSys_bank_ttag (s : State) (f : SysRegs → SysRegs) : (s.onSys f).core.bank.ttag = s.core.bank.ttag := rfl
@[simp] theorem State.onSys_bank_m (s : State) (f : SysRegs → SysRegs) : (s.onSys f).core.bank.m = s.core.bank.m := rfl
@[simp] theorem State.onSys_bank_lc (s : State) (f : SysRegs → SysRegs) : (s.onSys f).core.bank.lc = s.core.bank.lc := rfl
@[simp] theorem State.onSys_bank_pc (s : State) (f : SysRegs → SysRegs) : (s.onSys f).core.bank.pc = s.core.bank.pc := rfl
@[simp] theorem State.onSys_bank_bubbles (s : State) (f : SysRegs → SysRegs) : (s.onSys f).core.bank.bubbles = s.core.bank.bubbles := rfl
@[simp] theorem State.onSys_bank_issues (s : State) (f : SysRegs → SysRegs) : (s.onSys f).core.bank.issues = s.core.bank.issues := rfl
@[simp] theorem State.onSys_bank_pw (s : State) (f : SysRegs → SysRegs) : (s.onSys f).core.bank.pw = s.core.bank.pw := rfl
@[simp] theorem State.onSys_bank_resumed (s : State) (f : SysRegs → SysRegs) : (s.onSys f).core.bank.resumed = s.core.bank.resumed := rfl
@[simp] theorem State.onSys_bank_inflight (s : State) (f : SysRegs → SysRegs) : (s.onSys f).core.bank.inflight = s.core.bank.inflight := rfl
@[simp] theorem State.onSys_bank_replay (s : State) (f : SysRegs → SysRegs) : (s.onSys f).core.bank.replay = s.core.bank.replay := rfl
@[simp] theorem State.onSys_bank_laq (s : State) (f : SysRegs → SysRegs) : (s.onSys f).core.bank.laq = s.core.bank.laq := rfl
@[simp] theorem State.onSys_bank_ldq (s : State) (f : SysRegs → SysRegs) : (s.onSys f).core.bank.ldq = s.core.bank.ldq := rfl
@[simp] theorem State.onSys_bank_stq (s : State) (f : SysRegs → SysRegs) : (s.onSys f).core.bank.stq = s.core.bank.stq := rfl
@[simp] theorem State.onSys_bank_loads (s : State) (f : SysRegs → SysRegs) : (s.onSys f).core.bank.loads = s.core.bank.loads := rfl
@[simp] theorem State.onSys_bank_stores (s : State) (f : SysRegs → SysRegs) : (s.onSys f).core.bank.stores = s.core.bank.stores := rfl
@[simp] theorem State.onSys_bank_copies (s : State) (f : SysRegs → SysRegs) : (s.onSys f).core.bank.copies = s.core.bank.copies := rfl
@[simp] theorem State.onSys_bank_tiles (s : State) (f : SysRegs → SysRegs) : (s.onSys f).core.bank.tiles = s.core.bank.tiles := rfl
@[simp] theorem State.onSys_bank_pushes (s : State) (f : SysRegs → SysRegs) : (s.onSys f).core.bank.pushes = s.core.bank.pushes := rfl
@[simp] theorem State.onSys_bank_windows (s : State) (f : SysRegs → SysRegs) : (s.onSys f).core.bank.windows = s.core.bank.windows := rfl
@[simp] theorem State.onSys_bank_descs (s : State) (f : SysRegs → SysRegs) : (s.onSys f).core.bank.descs = s.core.bank.descs := rfl
@[simp] theorem State.onSys_bank_spans (s : State) (f : SysRegs → SysRegs) : (s.onSys f).core.bank.spans = s.core.bank.spans := rfl
@[simp] theorem State.onSys_bank_ring (s : State) (f : SysRegs → SysRegs) : (s.onSys f).core.bank.ring = s.core.bank.ring := rfl
@[simp] theorem State.onSys_bank_pending (s : State) (f : SysRegs → SysRegs) : (s.onSys f).core.bank.pending = s.core.bank.pending := rfl
@[simp] theorem State.onSys_bank_handled (s : State) (f : SysRegs → SysRegs) : (s.onSys f).core.bank.handled = s.core.bank.handled := rfl
@[simp] theorem State.onSys_bank_rbq (s : State) (f : SysRegs → SysRegs) : (s.onSys f).core.bank.rbq = s.core.bank.rbq := rfl
@[simp] theorem State.onSys_bank_crf (s : State) (f : SysRegs → SysRegs) : (s.onSys f).core.bank.crf = s.core.bank.crf := rfl
@[simp] theorem State.onSys_bank_phase (s : State) (f : SysRegs → SysRegs) : (s.onSys f).core.bank.phase = s.core.bank.phase := rfl
@[simp] theorem State.onSys_bank_arrived (s : State) (f : SysRegs → SysRegs) : (s.onSys f).core.bank.arrived = s.core.bank.arrived := rfl
@[simp] theorem State.onSys_bank_after (s : State) (f : SysRegs → SysRegs) : (s.onSys f).core.bank.after = s.core.bank.after := rfl
@[simp] theorem State.onSys_bank_absent (s : State) (f : SysRegs → SysRegs) : (s.onSys f).core.bank.absent = s.core.bank.absent := rfl
@[simp] theorem State.onSys_bank_lateFlags (s : State) (f : SysRegs → SysRegs) : (s.onSys f).core.bank.lateFlags = s.core.bank.lateFlags := rfl
@[simp] theorem State.onSys_bank_lateNv (s : State) (f : SysRegs → SysRegs) : (s.onSys f).core.bank.lateNv = s.core.bank.lateNv := rfl
@[simp] theorem State.onSys_bank_lateOv (s : State) (f : SysRegs → SysRegs) : (s.onSys f).core.bank.lateOv = s.core.bank.lateOv := rfl
@[simp] theorem State.onSys_bank_sigBusy (s : State) (f : SysRegs → SysRegs) : (s.onSys f).core.bank.sigBusy = s.core.bank.sigBusy := rfl
@[simp] theorem State.onSys_bank_trig (s : State) (f : SysRegs → SysRegs) : (s.onSys f).core.bank.trig = s.core.bank.trig := rfl
@[simp] theorem State.onSys_bank_trigAt (s : State) (f : SysRegs → SysRegs) : (s.onSys f).core.bank.trigAt = s.core.bank.trigAt := rfl

/-! ### A result put in flight -/

@[simp] theorem State.send_inflight (s : State) (r : Result) : (s.send r).core.bank.inflight = s.core.bank.inflight ++ [r] := rfl
@[simp] theorem State.send_now (s : State) (r : Result) : (s.send r).now = s.now := rfl
@[simp] theorem State.send_trained (s : State) (r : Result) : (s.send r).trained = s.trained := rfl
@[simp] theorem State.send_offsets (s : State) (r : Result) : (s.send r).offsets = s.offsets := rfl
@[simp] theorem State.send_others (s : State) (r : Result) : (s.send r).others = s.others := rfl
@[simp] theorem State.send_hbm (s : State) (r : Result) : (s.send r).hbm = s.hbm := rfl
@[simp] theorem State.send_host (s : State) (r : Result) : (s.send r).host = s.host := rfl
@[simp] theorem State.send_wstore (s : State) (r : Result) : (s.send r).wstore = s.wstore := rfl
@[simp] theorem State.send_calendar (s : State) (r : Result) : (s.send r).calendar = s.calendar := rfl
@[simp] theorem State.send_agenda (s : State) (r : Result) : (s.send r).agenda = s.agenda := rfl
@[simp] theorem State.send_lates (s : State) (r : Result) : (s.send r).lates = s.lates := rfl
@[simp] theorem State.send_iommu (s : State) (r : Result) : (s.send r).iommu = s.iommu := rfl
@[simp] theorem State.send_pageReqs (s : State) (r : Result) : (s.send r).pageReqs = s.pageReqs := rfl
@[simp] theorem State.send_refused (s : State) (r : Result) : (s.send r).refused = s.refused := rfl
@[simp] theorem State.send_stamps (s : State) (r : Result) : (s.send r).stamps = s.stamps := rfl
@[simp] theorem State.send_wen (s : State) (r : Result) : (s.send r).wen = s.wen := rfl
@[simp] theorem State.send_wenNext (s : State) (r : Result) : (s.send r).wenNext = s.wenNext := rfl
@[simp] theorem State.send_windows (s : State) (r : Result) : (s.send r).windows = s.windows := rfl
@[simp] theorem State.send_rqbase (s : State) (r : Result) : (s.send r).rqbase = s.rqbase := rfl
@[simp] theorem State.send_rqOld (s : State) (r : Result) : (s.send r).rqOld = s.rqOld := rfl
@[simp] theorem State.send_ptbase (s : State) (r : Result) : (s.send r).ptbase = s.ptbase := rfl
@[simp] theorem State.send_ports (s : State) (r : Result) : (s.send r).ports = s.ports := rfl
@[simp] theorem State.send_cryo (s : State) (r : Result) : (s.send r).cryo = s.cryo := rfl
@[simp] theorem State.send_ptp (s : State) (r : Result) : (s.send r).ptp = s.ptp := rfl
@[simp] theorem State.send_groups (s : State) (r : Result) : (s.send r).groups = s.groups := rfl
@[simp] theorem State.send_clears (s : State) (r : Result) : (s.send r).clears = s.clears := rfl
@[simp] theorem State.send_buses (s : State) (r : Result) : (s.send r).buses = s.buses := rfl
@[simp] theorem State.send_edgeNum (s : State) (r : Result) : (s.send r).edgeNum = s.edgeNum := rfl
@[simp] theorem State.send_barriers (s : State) (r : Result) : (s.send r).barriers = s.barriers := rfl
@[simp] theorem State.send_queueWaits (s : State) (r : Result) : (s.send r).queueWaits = s.queueWaits := rfl
@[simp] theorem State.send_queueMarks (s : State) (r : Result) : (s.send r).queueMarks = s.queueMarks := rfl
@[simp] theorem State.send_engines (s : State) (r : Result) : (s.send r).engines = s.engines := rfl
@[simp] theorem State.send_flags (s : State) (r : Result) : (s.send r).flags = s.flags := rfl
@[simp] theorem State.send_launches (s : State) (r : Result) : (s.send r).launches = s.launches := rfl
@[simp] theorem State.send_launchNum (s : State) (r : Result) : (s.send r).launchNum = s.launchNum := rfl
@[simp] theorem State.send_draws (s : State) (r : Result) : (s.send r).draws = s.draws := rfl
@[simp] theorem State.send_ended (s : State) (r : Result) : (s.send r).ended = s.ended := rfl
@[simp] theorem State.send_spawns (s : State) (r : Result) : (s.send r).spawns = s.spawns := rfl
@[simp] theorem State.send_queues (s : State) (r : Result) : (s.send r).queues = s.queues := rfl
@[simp] theorem State.send_saved (s : State) (r : Result) : (s.send r).saved = s.saved := rfl
@[simp] theorem State.send_retired (s : State) (r : Result) : (s.send r).retired = s.retired := rfl
@[simp] theorem State.send_msix (s : State) (r : Result) : (s.send r).msix = s.msix := rfl
@[simp] theorem State.send_noPages (s : State) (r : Result) : (s.send r).noPages = s.noPages := rfl
@[simp] theorem State.send_peers (s : State) (r : Result) : (s.send r).peers = s.peers := rfl
@[simp] theorem State.send_wire (s : State) (r : Result) : (s.send r).wire = s.wire := rfl
@[simp] theorem State.send_request (s : State) (r : Result) : (s.send r).request = s.request := rfl
@[simp] theorem State.send_replies (s : State) (r : Result) : (s.send r).replies = s.replies := rfl
@[simp] theorem State.send_log (s : State) (r : Result) : (s.send r).log = s.log := rfl
@[simp] theorem State.send_closed (s : State) (r : Result) : (s.send r).closed = s.closed := rfl
@[simp] theorem State.send_refreshing (s : State) (r : Result) : (s.send r).refreshing = s.refreshing := rfl
@[simp] theorem State.send_testing (s : State) (r : Result) : (s.send r).testing = s.testing := rfl
@[simp] theorem State.send_links (s : State) (r : Result) : (s.send r).links = s.links := rfl
@[simp] theorem State.send_raised (s : State) (r : Result) : (s.send r).raised = s.raised := rfl
@[simp] theorem State.send_holding (s : State) (r : Result) : (s.send r).holding = s.holding := rfl
@[simp] theorem State.send_core_id (s : State) (r : Result) : (s.send r).core.id = s.core.id := rfl
@[simp] theorem State.send_core_running (s : State) (r : Result) : (s.send r).core.running = s.core.running := rfl
@[simp] theorem State.send_core_task (s : State) (r : Result) : (s.send r).core.task = s.core.task := rfl
@[simp] theorem State.send_core_other (s : State) (r : Result) : (s.send r).core.other = s.core.other := rfl
@[simp] theorem State.send_core_ctl (s : State) (r : Result) : (s.send r).core.ctl = s.core.ctl := rfl
@[simp] theorem State.send_core_mat (s : State) (r : Result) : (s.send r).core.mat = s.core.mat := rfl
@[simp] theorem State.send_core_vec (s : State) (r : Result) : (s.send r).core.vec = s.core.vec := rfl
@[simp] theorem State.send_core_cpy (s : State) (r : Result) : (s.send r).core.cpy = s.core.cpy := rfl
@[simp] theorem State.send_core_nextAt (s : State) (r : Result) : (s.send r).core.nextAt = s.core.nextAt := rfl
@[simp] theorem State.send_core_frozen (s : State) (r : Result) : (s.send r).core.frozen = s.core.frozen := rfl
@[simp] theorem State.send_core_cause (s : State) (r : Result) : (s.send r).core.cause = s.core.cause := rfl
@[simp] theorem State.send_core_stalled (s : State) (r : Result) : (s.send r).core.stalled = s.core.stalled := rfl
@[simp] theorem State.send_core_held (s : State) (r : Result) : (s.send r).core.held = s.core.held := rfl
@[simp] theorem State.send_core_waits (s : State) (r : Result) : (s.send r).core.waits = s.core.waits := rfl
@[simp] theorem State.send_core_recvWait (s : State) (r : Result) : (s.send r).core.recvWait = s.core.recvWait := rfl
@[simp] theorem State.send_core_returned (s : State) (r : Result) : (s.send r).core.returned = s.core.returned := rfl
@[simp] theorem State.send_core_seq (s : State) (r : Result) : (s.send r).core.seq = s.core.seq := rfl
@[simp] theorem State.send_core_cur (s : State) (r : Result) : (s.send r).core.cur = s.core.cur := rfl
@[simp] theorem State.send_core_spad (s : State) (r : Result) : (s.send r).core.spad = s.core.spad := rfl
@[simp] theorem State.send_core_wbuf (s : State) (r : Result) : (s.send r).core.wbuf = s.core.wbuf := rfl
@[simp] theorem State.send_core_chans (s : State) (r : Result) : (s.send r).core.chans = s.core.chans := rfl
@[simp] theorem State.send_core_micro (s : State) (r : Result) : (s.send r).core.micro = s.core.micro := rfl
@[simp] theorem State.send_core_routines (s : State) (r : Result) : (s.send r).core.routines = s.core.routines := rfl
@[simp] theorem State.send_core_mBusy (s : State) (r : Result) : (s.send r).core.mBusy = s.core.mBusy := rfl
@[simp] theorem State.send_core_xBusy (s : State) (r : Result) : (s.send r).core.xBusy = s.core.xBusy := rfl
@[simp] theorem State.send_core_late (s : State) (r : Result) : (s.send r).core.late = s.core.late := rfl
@[simp] theorem State.send_core_engine (s : State) (r : Result) : (s.send r).core.engine = s.core.engine := rfl
@[simp] theorem State.send_core_matOps (s : State) (r : Result) : (s.send r).core.matOps = s.core.matOps := rfl
@[simp] theorem State.send_core_lag (s : State) (r : Result) : (s.send r).core.lag = s.core.lag := rfl
@[simp] theorem State.send_core_stage (s : State) (r : Result) : (s.send r).core.stage = s.core.stage := rfl
@[simp] theorem State.send_core_relax (s : State) (r : Result) : (s.send r).core.relax = s.core.relax := rfl
@[simp] theorem State.send_core_rowOps (s : State) (r : Result) : (s.send r).core.rowOps = s.core.rowOps := rfl
@[simp] theorem State.send_core_staged (s : State) (r : Result) : (s.send r).core.staged = s.core.staged := rfl
@[simp] theorem State.send_core_due (s : State) (r : Result) : (s.send r).core.due = s.core.due := rfl
@[simp] theorem State.send_core_elim (s : State) (r : Result) : (s.send r).core.elim = s.core.elim := rfl
@[simp] theorem State.send_core_frzc (s : State) (r : Result) : (s.send r).core.frzc = s.core.frzc := rfl
@[simp] theorem State.send_core_window (s : State) (r : Result) : (s.send r).core.window = s.core.window := rfl
@[simp] theorem State.send_core_gov (s : State) (r : Result) : (s.send r).core.gov = s.core.gov := rfl
@[simp] theorem State.send_core_divs (s : State) (r : Result) : (s.send r).core.divs = s.core.divs := rfl
@[simp] theorem State.send_core_fl (s : State) (r : Result) : (s.send r).core.fl = s.core.fl := rfl
@[simp] theorem State.send_core_stretch (s : State) (r : Result) : (s.send r).core.stretch = s.core.stretch := rfl
@[simp] theorem State.send_core_cleared (s : State) (r : Result) : (s.send r).core.cleared = s.core.cleared := rfl
@[simp] theorem State.send_core_map (s : State) (r : Result) : (s.send r).core.map = s.core.map := rfl
@[simp] theorem State.send_core_mapAt (s : State) (r : Result) : (s.send r).core.mapAt = s.core.mapAt := rfl
@[simp] theorem State.send_core_path (s : State) (r : Result) : (s.send r).core.path = s.core.path := rfl
@[simp] theorem State.send_core_sllen (s : State) (r : Result) : (s.send r).core.sllen = s.core.sllen := rfl
@[simp] theorem State.send_core_slhop (s : State) (r : Result) : (s.send r).core.slhop = s.core.slhop := rfl
@[simp] theorem State.send_core_dones (s : State) (r : Result) : (s.send r).core.dones = s.core.dones := rfl
@[simp] theorem State.send_core_fetched (s : State) (r : Result) : (s.send r).core.fetched = s.core.fetched := rfl
@[simp] theorem State.send_core_accSeq (s : State) (r : Result) : (s.send r).core.accSeq = s.core.accSeq := rfl
@[simp] theorem State.send_core_sends (s : State) (r : Result) : (s.send r).core.sends = s.core.sends := rfl
@[simp] theorem State.send_core_recvs (s : State) (r : Result) : (s.send r).core.recvs = s.core.recvs := rfl
@[simp] theorem State.send_core_recvFrom (s : State) (r : Result) : (s.send r).core.recvFrom = s.core.recvFrom := rfl
@[simp] theorem State.send_core_stall (s : State) (r : Result) : (s.send r).core.stall = s.core.stall := rfl
@[simp] theorem State.send_core_scinv (s : State) (r : Result) : (s.send r).core.scinv = s.core.scinv := rfl
@[simp] theorem State.send_core_preempt (s : State) (r : Result) : (s.send r).core.preempt = s.core.preempt := rfl
@[simp] theorem State.send_bank_id (s : State) (r : Result) : (s.send r).core.bank.id = s.core.bank.id := rfl
@[simp] theorem State.send_bank_use (s : State) (r : Result) : (s.send r).core.bank.use = s.core.bank.use := rfl
@[simp] theorem State.send_bank_g (s : State) (r : Result) : (s.send r).core.bank.g = s.core.bank.g := rfl
@[simp] theorem State.send_bank_p (s : State) (r : Result) : (s.send r).core.bank.p = s.core.bank.p := rfl
@[simp] theorem State.send_bank_a (s : State) (r : Result) : (s.send r).core.bank.a = s.core.bank.a := rfl
@[simp] theorem State.send_bank_v (s : State) (r : Result) : (s.send r).core.bank.v = s.core.bank.v := rfl
@[simp] theorem State.send_bank_vtag (s : State) (r : Result) : (s.send r).core.bank.vtag = s.core.bank.vtag := rfl
@[simp] theorem State.send_bank_vm (s : State) (r : Result) : (s.send r).core.bank.vm = s.core.bank.vm := rfl
@[simp] theorem State.send_bank_t (s : State) (r : Result) : (s.send r).core.bank.t = s.core.bank.t := rfl
@[simp] theorem State.send_bank_ttag (s : State) (r : Result) : (s.send r).core.bank.ttag = s.core.bank.ttag := rfl
@[simp] theorem State.send_bank_m (s : State) (r : Result) : (s.send r).core.bank.m = s.core.bank.m := rfl
@[simp] theorem State.send_bank_lc (s : State) (r : Result) : (s.send r).core.bank.lc = s.core.bank.lc := rfl
@[simp] theorem State.send_bank_pc (s : State) (r : Result) : (s.send r).core.bank.pc = s.core.bank.pc := rfl
@[simp] theorem State.send_bank_bubbles (s : State) (r : Result) : (s.send r).core.bank.bubbles = s.core.bank.bubbles := rfl
@[simp] theorem State.send_bank_issues (s : State) (r : Result) : (s.send r).core.bank.issues = s.core.bank.issues := rfl
@[simp] theorem State.send_bank_pw (s : State) (r : Result) : (s.send r).core.bank.pw = s.core.bank.pw := rfl
@[simp] theorem State.send_bank_resumed (s : State) (r : Result) : (s.send r).core.bank.resumed = s.core.bank.resumed := rfl
@[simp] theorem State.send_bank_sys (s : State) (r : Result) : (s.send r).core.bank.sys = s.core.bank.sys := rfl
@[simp] theorem State.send_bank_replay (s : State) (r : Result) : (s.send r).core.bank.replay = s.core.bank.replay := rfl
@[simp] theorem State.send_bank_laq (s : State) (r : Result) : (s.send r).core.bank.laq = s.core.bank.laq := rfl
@[simp] theorem State.send_bank_ldq (s : State) (r : Result) : (s.send r).core.bank.ldq = s.core.bank.ldq := rfl
@[simp] theorem State.send_bank_stq (s : State) (r : Result) : (s.send r).core.bank.stq = s.core.bank.stq := rfl
@[simp] theorem State.send_bank_loads (s : State) (r : Result) : (s.send r).core.bank.loads = s.core.bank.loads := rfl
@[simp] theorem State.send_bank_stores (s : State) (r : Result) : (s.send r).core.bank.stores = s.core.bank.stores := rfl
@[simp] theorem State.send_bank_copies (s : State) (r : Result) : (s.send r).core.bank.copies = s.core.bank.copies := rfl
@[simp] theorem State.send_bank_tiles (s : State) (r : Result) : (s.send r).core.bank.tiles = s.core.bank.tiles := rfl
@[simp] theorem State.send_bank_pushes (s : State) (r : Result) : (s.send r).core.bank.pushes = s.core.bank.pushes := rfl
@[simp] theorem State.send_bank_windows (s : State) (r : Result) : (s.send r).core.bank.windows = s.core.bank.windows := rfl
@[simp] theorem State.send_bank_descs (s : State) (r : Result) : (s.send r).core.bank.descs = s.core.bank.descs := rfl
@[simp] theorem State.send_bank_spans (s : State) (r : Result) : (s.send r).core.bank.spans = s.core.bank.spans := rfl
@[simp] theorem State.send_bank_ring (s : State) (r : Result) : (s.send r).core.bank.ring = s.core.bank.ring := rfl
@[simp] theorem State.send_bank_pending (s : State) (r : Result) : (s.send r).core.bank.pending = s.core.bank.pending := rfl
@[simp] theorem State.send_bank_handled (s : State) (r : Result) : (s.send r).core.bank.handled = s.core.bank.handled := rfl
@[simp] theorem State.send_bank_rbq (s : State) (r : Result) : (s.send r).core.bank.rbq = s.core.bank.rbq := rfl
@[simp] theorem State.send_bank_crf (s : State) (r : Result) : (s.send r).core.bank.crf = s.core.bank.crf := rfl
@[simp] theorem State.send_bank_phase (s : State) (r : Result) : (s.send r).core.bank.phase = s.core.bank.phase := rfl
@[simp] theorem State.send_bank_arrived (s : State) (r : Result) : (s.send r).core.bank.arrived = s.core.bank.arrived := rfl
@[simp] theorem State.send_bank_after (s : State) (r : Result) : (s.send r).core.bank.after = s.core.bank.after := rfl
@[simp] theorem State.send_bank_absent (s : State) (r : Result) : (s.send r).core.bank.absent = s.core.bank.absent := rfl
@[simp] theorem State.send_bank_lateFlags (s : State) (r : Result) : (s.send r).core.bank.lateFlags = s.core.bank.lateFlags := rfl
@[simp] theorem State.send_bank_lateNv (s : State) (r : Result) : (s.send r).core.bank.lateNv = s.core.bank.lateNv := rfl
@[simp] theorem State.send_bank_lateOv (s : State) (r : Result) : (s.send r).core.bank.lateOv = s.core.bank.lateOv := rfl
@[simp] theorem State.send_bank_sigBusy (s : State) (r : Result) : (s.send r).core.bank.sigBusy = s.core.bank.sigBusy := rfl
@[simp] theorem State.send_bank_trig (s : State) (r : Result) : (s.send r).core.bank.trig = s.core.bank.trig := rfl
@[simp] theorem State.send_bank_trigAt (s : State) (r : Result) : (s.send r).core.bank.trigAt = s.core.bank.trigAt := rfl

/-! ### The calendar -/

@[simp] theorem State.schedule_now (s : State) (n : Nat) (i : Instr) : (s.schedule n i).now = s.now := rfl
@[simp] theorem State.schedule_trained (s : State) (n : Nat) (i : Instr) : (s.schedule n i).trained = s.trained := rfl
@[simp] theorem State.schedule_offsets (s : State) (n : Nat) (i : Instr) : (s.schedule n i).offsets = s.offsets := rfl
@[simp] theorem State.schedule_core (s : State) (n : Nat) (i : Instr) : (s.schedule n i).core = s.core := rfl
@[simp] theorem State.schedule_others (s : State) (n : Nat) (i : Instr) : (s.schedule n i).others = s.others := rfl
@[simp] theorem State.schedule_hbm (s : State) (n : Nat) (i : Instr) : (s.schedule n i).hbm = s.hbm := rfl
@[simp] theorem State.schedule_host (s : State) (n : Nat) (i : Instr) : (s.schedule n i).host = s.host := rfl
@[simp] theorem State.schedule_wstore (s : State) (n : Nat) (i : Instr) : (s.schedule n i).wstore = s.wstore := rfl
@[simp] theorem State.schedule_agenda (s : State) (n : Nat) (i : Instr) : (s.schedule n i).agenda = s.agenda := rfl
@[simp] theorem State.schedule_iommu (s : State) (n : Nat) (i : Instr) : (s.schedule n i).iommu = s.iommu := rfl
@[simp] theorem State.schedule_pageReqs (s : State) (n : Nat) (i : Instr) : (s.schedule n i).pageReqs = s.pageReqs := rfl
@[simp] theorem State.schedule_refused (s : State) (n : Nat) (i : Instr) : (s.schedule n i).refused = s.refused := rfl
@[simp] theorem State.schedule_stamps (s : State) (n : Nat) (i : Instr) : (s.schedule n i).stamps = s.stamps := rfl
@[simp] theorem State.schedule_wen (s : State) (n : Nat) (i : Instr) : (s.schedule n i).wen = s.wen := rfl
@[simp] theorem State.schedule_wenNext (s : State) (n : Nat) (i : Instr) : (s.schedule n i).wenNext = s.wenNext := rfl
@[simp] theorem State.schedule_windows (s : State) (n : Nat) (i : Instr) : (s.schedule n i).windows = s.windows := rfl
@[simp] theorem State.schedule_rqbase (s : State) (n : Nat) (i : Instr) : (s.schedule n i).rqbase = s.rqbase := rfl
@[simp] theorem State.schedule_rqOld (s : State) (n : Nat) (i : Instr) : (s.schedule n i).rqOld = s.rqOld := rfl
@[simp] theorem State.schedule_ptbase (s : State) (n : Nat) (i : Instr) : (s.schedule n i).ptbase = s.ptbase := rfl
@[simp] theorem State.schedule_ports (s : State) (n : Nat) (i : Instr) : (s.schedule n i).ports = s.ports := rfl
@[simp] theorem State.schedule_cryo (s : State) (n : Nat) (i : Instr) : (s.schedule n i).cryo = s.cryo := rfl
@[simp] theorem State.schedule_ptp (s : State) (n : Nat) (i : Instr) : (s.schedule n i).ptp = s.ptp := rfl
@[simp] theorem State.schedule_groups (s : State) (n : Nat) (i : Instr) : (s.schedule n i).groups = s.groups := rfl
@[simp] theorem State.schedule_clears (s : State) (n : Nat) (i : Instr) : (s.schedule n i).clears = s.clears := rfl
@[simp] theorem State.schedule_buses (s : State) (n : Nat) (i : Instr) : (s.schedule n i).buses = s.buses := rfl
@[simp] theorem State.schedule_edgeNum (s : State) (n : Nat) (i : Instr) : (s.schedule n i).edgeNum = s.edgeNum := rfl
@[simp] theorem State.schedule_barriers (s : State) (n : Nat) (i : Instr) : (s.schedule n i).barriers = s.barriers := rfl
@[simp] theorem State.schedule_queueWaits (s : State) (n : Nat) (i : Instr) : (s.schedule n i).queueWaits = s.queueWaits := rfl
@[simp] theorem State.schedule_queueMarks (s : State) (n : Nat) (i : Instr) : (s.schedule n i).queueMarks = s.queueMarks := rfl
@[simp] theorem State.schedule_engines (s : State) (n : Nat) (i : Instr) : (s.schedule n i).engines = s.engines := rfl
@[simp] theorem State.schedule_flags (s : State) (n : Nat) (i : Instr) : (s.schedule n i).flags = s.flags := rfl
@[simp] theorem State.schedule_launches (s : State) (n : Nat) (i : Instr) : (s.schedule n i).launches = s.launches := rfl
@[simp] theorem State.schedule_launchNum (s : State) (n : Nat) (i : Instr) : (s.schedule n i).launchNum = s.launchNum := rfl
@[simp] theorem State.schedule_draws (s : State) (n : Nat) (i : Instr) : (s.schedule n i).draws = s.draws := rfl
@[simp] theorem State.schedule_ended (s : State) (n : Nat) (i : Instr) : (s.schedule n i).ended = s.ended := rfl
@[simp] theorem State.schedule_spawns (s : State) (n : Nat) (i : Instr) : (s.schedule n i).spawns = s.spawns := rfl
@[simp] theorem State.schedule_queues (s : State) (n : Nat) (i : Instr) : (s.schedule n i).queues = s.queues := rfl
@[simp] theorem State.schedule_saved (s : State) (n : Nat) (i : Instr) : (s.schedule n i).saved = s.saved := rfl
@[simp] theorem State.schedule_retired (s : State) (n : Nat) (i : Instr) : (s.schedule n i).retired = s.retired := rfl
@[simp] theorem State.schedule_msix (s : State) (n : Nat) (i : Instr) : (s.schedule n i).msix = s.msix := rfl
@[simp] theorem State.schedule_noPages (s : State) (n : Nat) (i : Instr) : (s.schedule n i).noPages = s.noPages := rfl
@[simp] theorem State.schedule_peers (s : State) (n : Nat) (i : Instr) : (s.schedule n i).peers = s.peers := rfl
@[simp] theorem State.schedule_wire (s : State) (n : Nat) (i : Instr) : (s.schedule n i).wire = s.wire := rfl
@[simp] theorem State.schedule_request (s : State) (n : Nat) (i : Instr) : (s.schedule n i).request = s.request := rfl
@[simp] theorem State.schedule_replies (s : State) (n : Nat) (i : Instr) : (s.schedule n i).replies = s.replies := rfl
@[simp] theorem State.schedule_log (s : State) (n : Nat) (i : Instr) : (s.schedule n i).log = s.log := rfl
@[simp] theorem State.schedule_closed (s : State) (n : Nat) (i : Instr) : (s.schedule n i).closed = s.closed := rfl
@[simp] theorem State.schedule_refreshing (s : State) (n : Nat) (i : Instr) : (s.schedule n i).refreshing = s.refreshing := rfl
@[simp] theorem State.schedule_testing (s : State) (n : Nat) (i : Instr) : (s.schedule n i).testing = s.testing := rfl
@[simp] theorem State.schedule_links (s : State) (n : Nat) (i : Instr) : (s.schedule n i).links = s.links := rfl
@[simp] theorem State.schedule_raised (s : State) (n : Nat) (i : Instr) : (s.schedule n i).raised = s.raised := rfl
@[simp] theorem State.schedule_holding (s : State) (n : Nat) (i : Instr) : (s.schedule n i).holding = s.holding := rfl
@[simp] theorem State.exactly_now (s : State) (n : Nat) (i : Instr) : (s.exactly n i).now = s.now := rfl
@[simp] theorem State.exactly_trained (s : State) (n : Nat) (i : Instr) : (s.exactly n i).trained = s.trained := rfl
@[simp] theorem State.exactly_offsets (s : State) (n : Nat) (i : Instr) : (s.exactly n i).offsets = s.offsets := rfl
@[simp] theorem State.exactly_core (s : State) (n : Nat) (i : Instr) : (s.exactly n i).core = s.core := rfl
@[simp] theorem State.exactly_others (s : State) (n : Nat) (i : Instr) : (s.exactly n i).others = s.others := rfl
@[simp] theorem State.exactly_hbm (s : State) (n : Nat) (i : Instr) : (s.exactly n i).hbm = s.hbm := rfl
@[simp] theorem State.exactly_host (s : State) (n : Nat) (i : Instr) : (s.exactly n i).host = s.host := rfl
@[simp] theorem State.exactly_wstore (s : State) (n : Nat) (i : Instr) : (s.exactly n i).wstore = s.wstore := rfl
@[simp] theorem State.exactly_agenda (s : State) (n : Nat) (i : Instr) : (s.exactly n i).agenda = s.agenda := rfl
@[simp] theorem State.exactly_lates (s : State) (n : Nat) (i : Instr) : (s.exactly n i).lates = s.lates := rfl
@[simp] theorem State.exactly_iommu (s : State) (n : Nat) (i : Instr) : (s.exactly n i).iommu = s.iommu := rfl
@[simp] theorem State.exactly_pageReqs (s : State) (n : Nat) (i : Instr) : (s.exactly n i).pageReqs = s.pageReqs := rfl
@[simp] theorem State.exactly_refused (s : State) (n : Nat) (i : Instr) : (s.exactly n i).refused = s.refused := rfl
@[simp] theorem State.exactly_stamps (s : State) (n : Nat) (i : Instr) : (s.exactly n i).stamps = s.stamps := rfl
@[simp] theorem State.exactly_wen (s : State) (n : Nat) (i : Instr) : (s.exactly n i).wen = s.wen := rfl
@[simp] theorem State.exactly_wenNext (s : State) (n : Nat) (i : Instr) : (s.exactly n i).wenNext = s.wenNext := rfl
@[simp] theorem State.exactly_windows (s : State) (n : Nat) (i : Instr) : (s.exactly n i).windows = s.windows := rfl
@[simp] theorem State.exactly_rqbase (s : State) (n : Nat) (i : Instr) : (s.exactly n i).rqbase = s.rqbase := rfl
@[simp] theorem State.exactly_rqOld (s : State) (n : Nat) (i : Instr) : (s.exactly n i).rqOld = s.rqOld := rfl
@[simp] theorem State.exactly_ptbase (s : State) (n : Nat) (i : Instr) : (s.exactly n i).ptbase = s.ptbase := rfl
@[simp] theorem State.exactly_ports (s : State) (n : Nat) (i : Instr) : (s.exactly n i).ports = s.ports := rfl
@[simp] theorem State.exactly_cryo (s : State) (n : Nat) (i : Instr) : (s.exactly n i).cryo = s.cryo := rfl
@[simp] theorem State.exactly_ptp (s : State) (n : Nat) (i : Instr) : (s.exactly n i).ptp = s.ptp := rfl
@[simp] theorem State.exactly_groups (s : State) (n : Nat) (i : Instr) : (s.exactly n i).groups = s.groups := rfl
@[simp] theorem State.exactly_clears (s : State) (n : Nat) (i : Instr) : (s.exactly n i).clears = s.clears := rfl
@[simp] theorem State.exactly_buses (s : State) (n : Nat) (i : Instr) : (s.exactly n i).buses = s.buses := rfl
@[simp] theorem State.exactly_edgeNum (s : State) (n : Nat) (i : Instr) : (s.exactly n i).edgeNum = s.edgeNum := rfl
@[simp] theorem State.exactly_barriers (s : State) (n : Nat) (i : Instr) : (s.exactly n i).barriers = s.barriers := rfl
@[simp] theorem State.exactly_queueWaits (s : State) (n : Nat) (i : Instr) : (s.exactly n i).queueWaits = s.queueWaits := rfl
@[simp] theorem State.exactly_queueMarks (s : State) (n : Nat) (i : Instr) : (s.exactly n i).queueMarks = s.queueMarks := rfl
@[simp] theorem State.exactly_engines (s : State) (n : Nat) (i : Instr) : (s.exactly n i).engines = s.engines := rfl
@[simp] theorem State.exactly_flags (s : State) (n : Nat) (i : Instr) : (s.exactly n i).flags = s.flags := rfl
@[simp] theorem State.exactly_launches (s : State) (n : Nat) (i : Instr) : (s.exactly n i).launches = s.launches := rfl
@[simp] theorem State.exactly_launchNum (s : State) (n : Nat) (i : Instr) : (s.exactly n i).launchNum = s.launchNum := rfl
@[simp] theorem State.exactly_draws (s : State) (n : Nat) (i : Instr) : (s.exactly n i).draws = s.draws := rfl
@[simp] theorem State.exactly_ended (s : State) (n : Nat) (i : Instr) : (s.exactly n i).ended = s.ended := rfl
@[simp] theorem State.exactly_spawns (s : State) (n : Nat) (i : Instr) : (s.exactly n i).spawns = s.spawns := rfl
@[simp] theorem State.exactly_queues (s : State) (n : Nat) (i : Instr) : (s.exactly n i).queues = s.queues := rfl
@[simp] theorem State.exactly_saved (s : State) (n : Nat) (i : Instr) : (s.exactly n i).saved = s.saved := rfl
@[simp] theorem State.exactly_retired (s : State) (n : Nat) (i : Instr) : (s.exactly n i).retired = s.retired := rfl
@[simp] theorem State.exactly_msix (s : State) (n : Nat) (i : Instr) : (s.exactly n i).msix = s.msix := rfl
@[simp] theorem State.exactly_noPages (s : State) (n : Nat) (i : Instr) : (s.exactly n i).noPages = s.noPages := rfl
@[simp] theorem State.exactly_peers (s : State) (n : Nat) (i : Instr) : (s.exactly n i).peers = s.peers := rfl
@[simp] theorem State.exactly_wire (s : State) (n : Nat) (i : Instr) : (s.exactly n i).wire = s.wire := rfl
@[simp] theorem State.exactly_request (s : State) (n : Nat) (i : Instr) : (s.exactly n i).request = s.request := rfl
@[simp] theorem State.exactly_replies (s : State) (n : Nat) (i : Instr) : (s.exactly n i).replies = s.replies := rfl
@[simp] theorem State.exactly_log (s : State) (n : Nat) (i : Instr) : (s.exactly n i).log = s.log := rfl
@[simp] theorem State.exactly_closed (s : State) (n : Nat) (i : Instr) : (s.exactly n i).closed = s.closed := rfl
@[simp] theorem State.exactly_refreshing (s : State) (n : Nat) (i : Instr) : (s.exactly n i).refreshing = s.refreshing := rfl
@[simp] theorem State.exactly_testing (s : State) (n : Nat) (i : Instr) : (s.exactly n i).testing = s.testing := rfl
@[simp] theorem State.exactly_links (s : State) (n : Nat) (i : Instr) : (s.exactly n i).links = s.links := rfl
@[simp] theorem State.exactly_raised (s : State) (n : Nat) (i : Instr) : (s.exactly n i).raised = s.raised := rfl
@[simp] theorem State.exactly_holding (s : State) (n : Nat) (i : Instr) : (s.exactly n i).holding = s.holding := rfl
@[simp] theorem State.schedule_calendar (s : State) (n : Nat) (i : Instr) : (s.schedule n i).calendar = putSched { at' := s.now + n + s.lates.headD 0, event := i } s.calendar := rfl
@[simp] theorem State.schedule_lates (s : State) (n : Nat) (i : Instr) : (s.schedule n i).lates = s.lates.tail := rfl
@[simp] theorem State.exactly_calendar (s : State) (n : Nat) (i : Instr) : (s.exactly n i).calendar = putSched { at' := s.now + n, event := i } s.calendar := rfl

/-! ### An event due in a domain of the core -/

@[simp] theorem State.dueIn_due (s : State) (d : Dom) (n : Nat) (i : Instr) : (s.dueIn d n i).core.due = s.core.due ++ [{ dom := d, cycle := (s.core.clock d).cycles + n, seq := s.core.seq, event := i }] := rfl
@[simp] theorem State.dueIn_now (s : State) (d : Dom) (n : Nat) (i : Instr) : (s.dueIn d n i).now = s.now := rfl
@[simp] theorem State.dueIn_trained (s : State) (d : Dom) (n : Nat) (i : Instr) : (s.dueIn d n i).trained = s.trained := rfl
@[simp] theorem State.dueIn_offsets (s : State) (d : Dom) (n : Nat) (i : Instr) : (s.dueIn d n i).offsets = s.offsets := rfl
@[simp] theorem State.dueIn_others (s : State) (d : Dom) (n : Nat) (i : Instr) : (s.dueIn d n i).others = s.others := rfl
@[simp] theorem State.dueIn_hbm (s : State) (d : Dom) (n : Nat) (i : Instr) : (s.dueIn d n i).hbm = s.hbm := rfl
@[simp] theorem State.dueIn_host (s : State) (d : Dom) (n : Nat) (i : Instr) : (s.dueIn d n i).host = s.host := rfl
@[simp] theorem State.dueIn_wstore (s : State) (d : Dom) (n : Nat) (i : Instr) : (s.dueIn d n i).wstore = s.wstore := rfl
@[simp] theorem State.dueIn_calendar (s : State) (d : Dom) (n : Nat) (i : Instr) : (s.dueIn d n i).calendar = s.calendar := rfl
@[simp] theorem State.dueIn_agenda (s : State) (d : Dom) (n : Nat) (i : Instr) : (s.dueIn d n i).agenda = s.agenda := rfl
@[simp] theorem State.dueIn_lates (s : State) (d : Dom) (n : Nat) (i : Instr) : (s.dueIn d n i).lates = s.lates := rfl
@[simp] theorem State.dueIn_iommu (s : State) (d : Dom) (n : Nat) (i : Instr) : (s.dueIn d n i).iommu = s.iommu := rfl
@[simp] theorem State.dueIn_pageReqs (s : State) (d : Dom) (n : Nat) (i : Instr) : (s.dueIn d n i).pageReqs = s.pageReqs := rfl
@[simp] theorem State.dueIn_refused (s : State) (d : Dom) (n : Nat) (i : Instr) : (s.dueIn d n i).refused = s.refused := rfl
@[simp] theorem State.dueIn_stamps (s : State) (d : Dom) (n : Nat) (i : Instr) : (s.dueIn d n i).stamps = s.stamps := rfl
@[simp] theorem State.dueIn_wen (s : State) (d : Dom) (n : Nat) (i : Instr) : (s.dueIn d n i).wen = s.wen := rfl
@[simp] theorem State.dueIn_wenNext (s : State) (d : Dom) (n : Nat) (i : Instr) : (s.dueIn d n i).wenNext = s.wenNext := rfl
@[simp] theorem State.dueIn_windows (s : State) (d : Dom) (n : Nat) (i : Instr) : (s.dueIn d n i).windows = s.windows := rfl
@[simp] theorem State.dueIn_rqbase (s : State) (d : Dom) (n : Nat) (i : Instr) : (s.dueIn d n i).rqbase = s.rqbase := rfl
@[simp] theorem State.dueIn_rqOld (s : State) (d : Dom) (n : Nat) (i : Instr) : (s.dueIn d n i).rqOld = s.rqOld := rfl
@[simp] theorem State.dueIn_ptbase (s : State) (d : Dom) (n : Nat) (i : Instr) : (s.dueIn d n i).ptbase = s.ptbase := rfl
@[simp] theorem State.dueIn_ports (s : State) (d : Dom) (n : Nat) (i : Instr) : (s.dueIn d n i).ports = s.ports := rfl
@[simp] theorem State.dueIn_cryo (s : State) (d : Dom) (n : Nat) (i : Instr) : (s.dueIn d n i).cryo = s.cryo := rfl
@[simp] theorem State.dueIn_ptp (s : State) (d : Dom) (n : Nat) (i : Instr) : (s.dueIn d n i).ptp = s.ptp := rfl
@[simp] theorem State.dueIn_groups (s : State) (d : Dom) (n : Nat) (i : Instr) : (s.dueIn d n i).groups = s.groups := rfl
@[simp] theorem State.dueIn_clears (s : State) (d : Dom) (n : Nat) (i : Instr) : (s.dueIn d n i).clears = s.clears := rfl
@[simp] theorem State.dueIn_buses (s : State) (d : Dom) (n : Nat) (i : Instr) : (s.dueIn d n i).buses = s.buses := rfl
@[simp] theorem State.dueIn_edgeNum (s : State) (d : Dom) (n : Nat) (i : Instr) : (s.dueIn d n i).edgeNum = s.edgeNum := rfl
@[simp] theorem State.dueIn_barriers (s : State) (d : Dom) (n : Nat) (i : Instr) : (s.dueIn d n i).barriers = s.barriers := rfl
@[simp] theorem State.dueIn_queueWaits (s : State) (d : Dom) (n : Nat) (i : Instr) : (s.dueIn d n i).queueWaits = s.queueWaits := rfl
@[simp] theorem State.dueIn_queueMarks (s : State) (d : Dom) (n : Nat) (i : Instr) : (s.dueIn d n i).queueMarks = s.queueMarks := rfl
@[simp] theorem State.dueIn_engines (s : State) (d : Dom) (n : Nat) (i : Instr) : (s.dueIn d n i).engines = s.engines := rfl
@[simp] theorem State.dueIn_flags (s : State) (d : Dom) (n : Nat) (i : Instr) : (s.dueIn d n i).flags = s.flags := rfl
@[simp] theorem State.dueIn_launches (s : State) (d : Dom) (n : Nat) (i : Instr) : (s.dueIn d n i).launches = s.launches := rfl
@[simp] theorem State.dueIn_launchNum (s : State) (d : Dom) (n : Nat) (i : Instr) : (s.dueIn d n i).launchNum = s.launchNum := rfl
@[simp] theorem State.dueIn_draws (s : State) (d : Dom) (n : Nat) (i : Instr) : (s.dueIn d n i).draws = s.draws := rfl
@[simp] theorem State.dueIn_ended (s : State) (d : Dom) (n : Nat) (i : Instr) : (s.dueIn d n i).ended = s.ended := rfl
@[simp] theorem State.dueIn_spawns (s : State) (d : Dom) (n : Nat) (i : Instr) : (s.dueIn d n i).spawns = s.spawns := rfl
@[simp] theorem State.dueIn_queues (s : State) (d : Dom) (n : Nat) (i : Instr) : (s.dueIn d n i).queues = s.queues := rfl
@[simp] theorem State.dueIn_saved (s : State) (d : Dom) (n : Nat) (i : Instr) : (s.dueIn d n i).saved = s.saved := rfl
@[simp] theorem State.dueIn_retired (s : State) (d : Dom) (n : Nat) (i : Instr) : (s.dueIn d n i).retired = s.retired := rfl
@[simp] theorem State.dueIn_msix (s : State) (d : Dom) (n : Nat) (i : Instr) : (s.dueIn d n i).msix = s.msix := rfl
@[simp] theorem State.dueIn_noPages (s : State) (d : Dom) (n : Nat) (i : Instr) : (s.dueIn d n i).noPages = s.noPages := rfl
@[simp] theorem State.dueIn_peers (s : State) (d : Dom) (n : Nat) (i : Instr) : (s.dueIn d n i).peers = s.peers := rfl
@[simp] theorem State.dueIn_wire (s : State) (d : Dom) (n : Nat) (i : Instr) : (s.dueIn d n i).wire = s.wire := rfl
@[simp] theorem State.dueIn_request (s : State) (d : Dom) (n : Nat) (i : Instr) : (s.dueIn d n i).request = s.request := rfl
@[simp] theorem State.dueIn_replies (s : State) (d : Dom) (n : Nat) (i : Instr) : (s.dueIn d n i).replies = s.replies := rfl
@[simp] theorem State.dueIn_log (s : State) (d : Dom) (n : Nat) (i : Instr) : (s.dueIn d n i).log = s.log := rfl
@[simp] theorem State.dueIn_closed (s : State) (d : Dom) (n : Nat) (i : Instr) : (s.dueIn d n i).closed = s.closed := rfl
@[simp] theorem State.dueIn_refreshing (s : State) (d : Dom) (n : Nat) (i : Instr) : (s.dueIn d n i).refreshing = s.refreshing := rfl
@[simp] theorem State.dueIn_testing (s : State) (d : Dom) (n : Nat) (i : Instr) : (s.dueIn d n i).testing = s.testing := rfl
@[simp] theorem State.dueIn_links (s : State) (d : Dom) (n : Nat) (i : Instr) : (s.dueIn d n i).links = s.links := rfl
@[simp] theorem State.dueIn_raised (s : State) (d : Dom) (n : Nat) (i : Instr) : (s.dueIn d n i).raised = s.raised := rfl
@[simp] theorem State.dueIn_holding (s : State) (d : Dom) (n : Nat) (i : Instr) : (s.dueIn d n i).holding = s.holding := rfl
@[simp] theorem State.dueIn_core_id (s : State) (d : Dom) (n : Nat) (i : Instr) : (s.dueIn d n i).core.id = s.core.id := rfl
@[simp] theorem State.dueIn_core_running (s : State) (d : Dom) (n : Nat) (i : Instr) : (s.dueIn d n i).core.running = s.core.running := rfl
@[simp] theorem State.dueIn_core_task (s : State) (d : Dom) (n : Nat) (i : Instr) : (s.dueIn d n i).core.task = s.core.task := rfl
@[simp] theorem State.dueIn_core_bank (s : State) (d : Dom) (n : Nat) (i : Instr) : (s.dueIn d n i).core.bank = s.core.bank := rfl
@[simp] theorem State.dueIn_core_other (s : State) (d : Dom) (n : Nat) (i : Instr) : (s.dueIn d n i).core.other = s.core.other := rfl
@[simp] theorem State.dueIn_core_ctl (s : State) (d : Dom) (n : Nat) (i : Instr) : (s.dueIn d n i).core.ctl = s.core.ctl := rfl
@[simp] theorem State.dueIn_core_mat (s : State) (d : Dom) (n : Nat) (i : Instr) : (s.dueIn d n i).core.mat = s.core.mat := rfl
@[simp] theorem State.dueIn_core_vec (s : State) (d : Dom) (n : Nat) (i : Instr) : (s.dueIn d n i).core.vec = s.core.vec := rfl
@[simp] theorem State.dueIn_core_cpy (s : State) (d : Dom) (n : Nat) (i : Instr) : (s.dueIn d n i).core.cpy = s.core.cpy := rfl
@[simp] theorem State.dueIn_core_nextAt (s : State) (d : Dom) (n : Nat) (i : Instr) : (s.dueIn d n i).core.nextAt = s.core.nextAt := rfl
@[simp] theorem State.dueIn_core_frozen (s : State) (d : Dom) (n : Nat) (i : Instr) : (s.dueIn d n i).core.frozen = s.core.frozen := rfl
@[simp] theorem State.dueIn_core_cause (s : State) (d : Dom) (n : Nat) (i : Instr) : (s.dueIn d n i).core.cause = s.core.cause := rfl
@[simp] theorem State.dueIn_core_stalled (s : State) (d : Dom) (n : Nat) (i : Instr) : (s.dueIn d n i).core.stalled = s.core.stalled := rfl
@[simp] theorem State.dueIn_core_held (s : State) (d : Dom) (n : Nat) (i : Instr) : (s.dueIn d n i).core.held = s.core.held := rfl
@[simp] theorem State.dueIn_core_waits (s : State) (d : Dom) (n : Nat) (i : Instr) : (s.dueIn d n i).core.waits = s.core.waits := rfl
@[simp] theorem State.dueIn_core_recvWait (s : State) (d : Dom) (n : Nat) (i : Instr) : (s.dueIn d n i).core.recvWait = s.core.recvWait := rfl
@[simp] theorem State.dueIn_core_returned (s : State) (d : Dom) (n : Nat) (i : Instr) : (s.dueIn d n i).core.returned = s.core.returned := rfl
@[simp] theorem State.dueIn_core_seq (s : State) (d : Dom) (n : Nat) (i : Instr) : (s.dueIn d n i).core.seq = s.core.seq := rfl
@[simp] theorem State.dueIn_core_cur (s : State) (d : Dom) (n : Nat) (i : Instr) : (s.dueIn d n i).core.cur = s.core.cur := rfl
@[simp] theorem State.dueIn_core_spad (s : State) (d : Dom) (n : Nat) (i : Instr) : (s.dueIn d n i).core.spad = s.core.spad := rfl
@[simp] theorem State.dueIn_core_wbuf (s : State) (d : Dom) (n : Nat) (i : Instr) : (s.dueIn d n i).core.wbuf = s.core.wbuf := rfl
@[simp] theorem State.dueIn_core_chans (s : State) (d : Dom) (n : Nat) (i : Instr) : (s.dueIn d n i).core.chans = s.core.chans := rfl
@[simp] theorem State.dueIn_core_micro (s : State) (d : Dom) (n : Nat) (i : Instr) : (s.dueIn d n i).core.micro = s.core.micro := rfl
@[simp] theorem State.dueIn_core_routines (s : State) (d : Dom) (n : Nat) (i : Instr) : (s.dueIn d n i).core.routines = s.core.routines := rfl
@[simp] theorem State.dueIn_core_mBusy (s : State) (d : Dom) (n : Nat) (i : Instr) : (s.dueIn d n i).core.mBusy = s.core.mBusy := rfl
@[simp] theorem State.dueIn_core_xBusy (s : State) (d : Dom) (n : Nat) (i : Instr) : (s.dueIn d n i).core.xBusy = s.core.xBusy := rfl
@[simp] theorem State.dueIn_core_late (s : State) (d : Dom) (n : Nat) (i : Instr) : (s.dueIn d n i).core.late = s.core.late := rfl
@[simp] theorem State.dueIn_core_engine (s : State) (d : Dom) (n : Nat) (i : Instr) : (s.dueIn d n i).core.engine = s.core.engine := rfl
@[simp] theorem State.dueIn_core_matOps (s : State) (d : Dom) (n : Nat) (i : Instr) : (s.dueIn d n i).core.matOps = s.core.matOps := rfl
@[simp] theorem State.dueIn_core_lag (s : State) (d : Dom) (n : Nat) (i : Instr) : (s.dueIn d n i).core.lag = s.core.lag := rfl
@[simp] theorem State.dueIn_core_stage (s : State) (d : Dom) (n : Nat) (i : Instr) : (s.dueIn d n i).core.stage = s.core.stage := rfl
@[simp] theorem State.dueIn_core_relax (s : State) (d : Dom) (n : Nat) (i : Instr) : (s.dueIn d n i).core.relax = s.core.relax := rfl
@[simp] theorem State.dueIn_core_rowOps (s : State) (d : Dom) (n : Nat) (i : Instr) : (s.dueIn d n i).core.rowOps = s.core.rowOps := rfl
@[simp] theorem State.dueIn_core_staged (s : State) (d : Dom) (n : Nat) (i : Instr) : (s.dueIn d n i).core.staged = s.core.staged := rfl
@[simp] theorem State.dueIn_core_elim (s : State) (d : Dom) (n : Nat) (i : Instr) : (s.dueIn d n i).core.elim = s.core.elim := rfl
@[simp] theorem State.dueIn_core_frzc (s : State) (d : Dom) (n : Nat) (i : Instr) : (s.dueIn d n i).core.frzc = s.core.frzc := rfl
@[simp] theorem State.dueIn_core_window (s : State) (d : Dom) (n : Nat) (i : Instr) : (s.dueIn d n i).core.window = s.core.window := rfl
@[simp] theorem State.dueIn_core_gov (s : State) (d : Dom) (n : Nat) (i : Instr) : (s.dueIn d n i).core.gov = s.core.gov := rfl
@[simp] theorem State.dueIn_core_divs (s : State) (d : Dom) (n : Nat) (i : Instr) : (s.dueIn d n i).core.divs = s.core.divs := rfl
@[simp] theorem State.dueIn_core_fl (s : State) (d : Dom) (n : Nat) (i : Instr) : (s.dueIn d n i).core.fl = s.core.fl := rfl
@[simp] theorem State.dueIn_core_stretch (s : State) (d : Dom) (n : Nat) (i : Instr) : (s.dueIn d n i).core.stretch = s.core.stretch := rfl
@[simp] theorem State.dueIn_core_cleared (s : State) (d : Dom) (n : Nat) (i : Instr) : (s.dueIn d n i).core.cleared = s.core.cleared := rfl
@[simp] theorem State.dueIn_core_map (s : State) (d : Dom) (n : Nat) (i : Instr) : (s.dueIn d n i).core.map = s.core.map := rfl
@[simp] theorem State.dueIn_core_mapAt (s : State) (d : Dom) (n : Nat) (i : Instr) : (s.dueIn d n i).core.mapAt = s.core.mapAt := rfl
@[simp] theorem State.dueIn_core_path (s : State) (d : Dom) (n : Nat) (i : Instr) : (s.dueIn d n i).core.path = s.core.path := rfl
@[simp] theorem State.dueIn_core_sllen (s : State) (d : Dom) (n : Nat) (i : Instr) : (s.dueIn d n i).core.sllen = s.core.sllen := rfl
@[simp] theorem State.dueIn_core_slhop (s : State) (d : Dom) (n : Nat) (i : Instr) : (s.dueIn d n i).core.slhop = s.core.slhop := rfl
@[simp] theorem State.dueIn_core_dones (s : State) (d : Dom) (n : Nat) (i : Instr) : (s.dueIn d n i).core.dones = s.core.dones := rfl
@[simp] theorem State.dueIn_core_fetched (s : State) (d : Dom) (n : Nat) (i : Instr) : (s.dueIn d n i).core.fetched = s.core.fetched := rfl
@[simp] theorem State.dueIn_core_accSeq (s : State) (d : Dom) (n : Nat) (i : Instr) : (s.dueIn d n i).core.accSeq = s.core.accSeq := rfl
@[simp] theorem State.dueIn_core_sends (s : State) (d : Dom) (n : Nat) (i : Instr) : (s.dueIn d n i).core.sends = s.core.sends := rfl
@[simp] theorem State.dueIn_core_recvs (s : State) (d : Dom) (n : Nat) (i : Instr) : (s.dueIn d n i).core.recvs = s.core.recvs := rfl
@[simp] theorem State.dueIn_core_recvFrom (s : State) (d : Dom) (n : Nat) (i : Instr) : (s.dueIn d n i).core.recvFrom = s.core.recvFrom := rfl
@[simp] theorem State.dueIn_core_stall (s : State) (d : Dom) (n : Nat) (i : Instr) : (s.dueIn d n i).core.stall = s.core.stall := rfl
@[simp] theorem State.dueIn_core_scinv (s : State) (d : Dom) (n : Nat) (i : Instr) : (s.dueIn d n i).core.scinv = s.core.scinv := rfl
@[simp] theorem State.dueIn_core_preempt (s : State) (d : Dom) (n : Nat) (i : Instr) : (s.dueIn d n i).core.preempt = s.core.preempt := rfl

end Sys2Proof.Machine
end

