-- ==== Sys2Proof/Laws/Ops.lean ====
section
/-!
SUPPORT. What each shared operation of Machine/Ops.lean can do, once: checks and how an instruction ends, the cores and the
banks, registers, memories, and taking a trap.
-/
namespace Sys2Proof.Machine

/-! ### Checks, and how an instruction ends -/

@[simp] theorem need_true (t : TrapReq) : need true t = .ok () := rfl
@[simp] theorem need_false (t : TrapReq) : need false t = .error (.trap t) := rfl

/-- A check passes or stops with its trap. -/
theorem need_cases {c : Bool} {t : TrapReq} {r : Chk Unit} (h : need c t = r) :
    (c = true ∧ r = .ok ()) ∨ (c = false ∧ r = .error (.trap t)) := by
  subst h; cases c
  · exact .inr ⟨rfl, rfl⟩
  · exact .inl ⟨rfl, rfl⟩

theorem need_ok {c : Bool} {t : TrapReq} : need c t = .ok () ↔ c = true := by cases c <;> simp [need]

@[simp] theorem Chk.ok_bind {α β : Type} (a : α) (f : α → Chk β) : ((Except.ok a : Chk α) >>= f) = f a := rfl
@[simp] theorem Chk.error_bind {α β : Type} (e : Stop) (f : α → Chk β) : ((Except.error e : Chk α) >>= f) = .error e := rfl
@[simp] theorem Chk.pure_bind {α β : Type} (a : α) (f : α → Chk β) : ((pure a : Chk α) >>= f) = f a := rfl

/-- A sequence of checks that passes: its first part passes and the rest does from there. -/
theorem Chk.bind_ok {α β : Type} {x : Chk α} {f : α → Chk β} {b : β} : (x >>= f) = .ok b ↔ ∃ a, x = .ok a ∧ f a = .ok b := by
  cases x with
  | ok a => simp
  | error e => simp

/-- A sequence of checks that stops: in its first part, or in the rest. -/
theorem Chk.bind_error {α β : Type} {x : Chk α} {f : α → Chk β} {e : Stop} :
    (x >>= f) = .error e ↔ x = .error e ∨ ∃ a, x = .ok a ∧ f a = .error e := by
  cases x with
  | ok a => simp
  | error e => simp

@[simp] theorem finish_ok (s t : State) : finish s (.ok t) = .next t := rfl
@[simp] theorem finish_pure (s t : State) : finish s (pure t) = .next t := rfl
@[simp] theorem finish_trap (s : State) (t : TrapReq) : finish s (.error (.trap t)) = .next (s.takeTrap t) := rfl
@[simp] theorem finish_hold (s : State) (c : Nat) (a : Bool) (q : Option Instr) :
    finish s (.error (.hold c a q)) = .next (s.hold c a q) := rfl
@[simp] theorem finish_fault (s : State) (f : Fault) : finish s (.error (.fault f)) = .fault f := rfl

/-- Everything an instruction's end can be. -/
theorem finish_next {s t : State} {r : Chk State} (h : finish s r = .next t) :
    r = .ok t ∨ (∃ f, r = .error (.trap f) ∧ t = s.takeTrap f) ∨ ∃ c a q, r = .error (.hold c a q) ∧ t = s.hold c a q := by
  cases r with
  | ok u => simp only [finish_ok, Host.Outcome.next.injEq] at h; exact .inl (by rw [h])
  | error e => cases e with
    | trap f => simp only [finish_trap, Host.Outcome.next.injEq] at h; exact .inr (.inl ⟨f, rfl, h.symm⟩)
    | hold c a q => simp only [finish_hold, Host.Outcome.next.injEq] at h; exact .inr (.inr ⟨c, a, q, rfl, h.symm⟩)
    | fault f => cases h

/-! ### Holds and the calendar -/

@[simp] theorem State.hold_none (s : State) (c : Nat) (a : Bool) : s.hold c a none = { s with holding := some (c, a) } := rfl

/-- An event scheduled once is scheduled, or was. -/
theorem State.scheduleOnce_cases (s : State) (n : Nat) (i : Instr) :
    s.scheduleOnce n i = s ∨ s.scheduleOnce n i = s.schedule n i := by
  unfold State.scheduleOnce; split
  · exact .inl rfl
  · exact .inr rfl

theorem putSched_mem (e x : Sched) : ∀ {l : List Sched}, x ∈ putSched e l ↔ x = e ∨ x ∈ l
  | [] => by simp [putSched]
  | y :: r => by
    unfold putSched
    split
    · simp only [List.mem_cons, putSched_mem e x]; exact or_left_comm
    · simp only [List.mem_cons]

theorem State.schedule_any (s : State) (n : Nat) (i : Instr) : (s.schedule n i).calendar.any (fun e => e.event = i) = true :=
  List.any_eq_true.mpr ⟨_, (putSched_mem _ _).mpr (.inl rfl), by simp⟩

theorem State.exactly_any (s : State) (n : Nat) (i : Instr) : (s.exactly n i).calendar.any (fun e => e.event = i) = true :=
  List.any_eq_true.mpr ⟨_, (putSched_mem _ _).mpr (.inl rfl), by simp⟩

theorem State.upTo_any (s : State) (n : Nat) (i : Instr) : (s.upTo n i).calendar.any (fun e => e.event = i) = true :=
  List.any_eq_true.mpr ⟨_, (putSched_mem _ _).mpr (.inl rfl), by simp⟩

theorem State.scheduleOnce_any (s : State) (n : Nat) (i : Instr) : (s.scheduleOnce n i).calendar.any (fun e => e.event = i) = true := by
  unfold State.scheduleOnce; split
  · assumption
  · exact s.schedule_any n i

/-- A hold changes the calendar only, and names its cause. -/
theorem State.hold_cases (s : State) (c : Nat) (a : Bool) (q : Option Instr) :
    (s.hold c a q).holding = some (c, a) ∧ (s.hold c a q).core = s.core ∧ (s.hold c a q).others = s.others ∧ (s.hold c a q).hbm = s.hbm ∧
    (s.hold c a q).host = s.host ∧ (s.hold c a q).wstore = s.wstore ∧ (s.hold c a q).raised = s.raised ∧
    ∀ i, q = some i → (s.hold c a q).calendar.any (fun e => e.event = i) = true := by
  cases q with
  | none => exact ⟨rfl, rfl, rfl, rfl, rfl, rfl, rfl, fun i h => by cases h⟩
  | some i =>
    have h := s.scheduleOnce_cases 1 i
    refine ⟨rfl, ?_, ?_, ?_, ?_, ?_, ?_, fun j hj => ?_⟩
    all_goals first
      | (cases hj; simp only [State.hold]; split
         · split
           · assumption
           · exact s.upTo_any _ i
         · exact s.scheduleOnce_any 1 i)
      | (simp only [State.hold]; split
         · split <;> rfl
         · rcases h with h | h <;> rw [h] <;> rfl)

/-! ### The cores -/

theorem insertBy_mem {α : Type} (key : α → Nat) (x y : α) : ∀ {l : List α}, y ∈ insertBy key x l ↔ y = x ∨ y ∈ l
  | [] => by simp [insertBy]
  | z :: r => by
    unfold insertBy
    split
    · simp only [List.mem_cons, insertBy_mem key x y]; exact or_left_comm
    · simp only [List.mem_cons]

/-- Finding by number in a list to which a core has been added, none of its number being there. -/
theorem find_insertBy (x : Core) (m : Nat) : ∀ {l : List Core}, (∀ c ∈ l, c.id ≠ x.id) →
    (insertBy Core.id x l).find? (fun c => c.id = m) = if x.id = m then some x else l.find? (fun c => c.id = m)
  | [], _ => by by_cases h : x.id = m <;> simp [insertBy, h]
  | z :: r, hl => by
    unfold insertBy
    split
    · rw [List.find?_cons, List.find?_cons, find_insertBy x m fun c hc => hl c (List.mem_cons_of_mem _ hc)]
      by_cases hz : z.id = m
      · have hx : x.id ≠ m := fun h => hl z List.mem_cons_self (by omega)
        simp [hz, hx]
      · simp [hz]
    · by_cases h : x.id = m <;> simp [List.find?_cons, h]

theorem find_filter_ne (n m : Nat) : ∀ (l : List Core),
    (l.filter fun c => decide (c.id ≠ n)).find? (fun c => c.id = m) = if m = n then none else l.find? (fun c => c.id = m)
  | [] => by simp
  | z :: r => by
    have ih := find_filter_ne n m r
    by_cases hz : z.id = n
    · simp only [List.filter_cons, hz, ne_eq, not_true_eq_false, decide_false, Bool.false_eq_true, if_false, List.find?_cons, ih]
      by_cases hm : m = n
      · simp [hm]
      · simp [hm, show ¬ n = m from fun h => hm h.symm]
    · simp only [List.filter_cons, hz, ne_eq, not_false_eq_true, decide_true, if_true, List.find?_cons, ih]
      by_cases hm : m = n
      · simp [hm, hz]
      · simp [hm]

@[simp] theorem State.coreOf_self (s : State) : s.coreOf s.core.id = s.core := by simp [State.coreOf]

/-- A core has the number it is named by. -/
@[simp] theorem State.coreOf_id (s : State) (n : Nat) : (s.coreOf n).id = n := by
  unfold State.coreOf
  split
  · assumption
  · cases h : s.others.find? (fun c => c.id = n) with
    | none => rfl
    | some c => simpa using List.find?_some h

theorem State.coreOf_mem (s : State) (n : Nat) : s.coreOf n = s.core ∨ s.coreOf n ∈ s.others ∨ s.coreOf n = { id := n } := by
  unfold State.coreOf
  split
  · exact .inl rfl
  · cases h : s.others.find? (fun c => c.id = n) with
    | none => exact .inr (.inr rfl)
    | some c => exact .inr (.inl (List.mem_of_find?_eq_some h))

@[simp] theorem State.focus_self (s : State) : s.focus s.core.id = s := by simp [State.focus]

/-- Every field but the cores stands when another core is taken. -/
theorem State.focus_eq (s : State) (n : Nat) : s.focus n = { s with core := (s.focus n).core, others := (s.focus n).others } := by
  unfold State.focus; split <;> rfl

/-- The core taken is the one of that number. -/
@[simp] theorem State.focus_core (s : State) (n : Nat) : (s.focus n).core = s.coreOf n := by
  unfold State.focus State.coreOf; split <;> rfl

/-- Taking another core changes no core. -/
@[simp] theorem State.focus_coreOf (s : State) (n m : Nat) : (s.focus n).coreOf m = s.coreOf m := by
  by_cases h : s.core.id = n
  · simp [State.focus, h]
  · have hn : (s.focus n).core = s.coreOf n := s.focus_core n
    have ho : (s.focus n).others = insertBy Core.id s.core (s.others.filter fun c => decide (c.id ≠ n)) := by simp [State.focus, h]
    by_cases hm : m = n
    · subst hm
      rw [show (s.focus m).coreOf m = (s.focus m).core from by
        rw [State.coreOf, if_pos (by rw [hn]; exact s.coreOf_id m)], hn]
    · rw [State.coreOf, if_neg (by rw [hn, s.coreOf_id]; omega), ho]
      by_cases hx : s.core.id = m
      · subst hx
        have hf : (insertBy Core.id s.core (s.others.filter fun c => decide (c.id ≠ n))).find? (fun c => c.id = s.core.id) = some s.core := by
          clear hn ho
          induction s.others.filter fun c => decide (c.id ≠ n) with
          | nil => simp [insertBy]
          | cons z r ih =>
            unfold insertBy
            split
            · rename_i hz
              rw [List.find?_cons, show decide (z.id = s.core.id) = false from by simp; omega]
              exact ih
            · simp
        rw [hf]; simp
      · have hf : ∀ l : List Core, (insertBy Core.id s.core l).find? (fun c => c.id = m) = l.find? (fun c => c.id = m) := by
          intro l
          induction l with
          | nil => simp [insertBy, hx]
          | cons z r ih =>
            unfold insertBy
            split
            · rw [List.find?_cons, List.find?_cons, ih]
            · rw [List.find?_cons, show decide (s.core.id = m) = false from by simp [hx]]
        rw [hf, find_filter_ne, if_neg hm, State.coreOf, if_neg hx]

/-- Every field but the cores stands when a core is changed. -/
theorem State.onCoreOf_eq (s : State) (n : Nat) (f : Core → Core) :
    s.onCoreOf n f = { s with core := (s.onCoreOf n f).core, others := (s.onCoreOf n f).others } := by
  unfold State.onCoreOf; split <;> rfl

/-- A change of one core that keeps its number changes it and no other. -/
theorem State.onCoreOf_coreOf (s : State) (n : Nat) (f : Core → Core) (hf : (f (s.coreOf n)).id = n) (m : Nat) :
    (s.onCoreOf n f).coreOf m = if m = n then f (s.coreOf n) else s.coreOf m := by
  by_cases h : s.core.id = n
  · have hc : s.coreOf n = s.core := by subst h; exact s.coreOf_self
    rw [hc] at hf ⊢
    simp only [State.onCoreOf, h, if_true]
    by_cases hm : m = n
    · subst hm; simp [State.coreOf, hf]
    · simp [State.coreOf, hf, h, hm, show ¬ n = m from fun e => hm e.symm]
  · have he : s.onCoreOf n f = { s with others := insertBy Core.id (f (s.coreOf n)) (s.others.filter fun c => decide (c.id ≠ n)) } := by
      simp [State.onCoreOf, h]
    rw [he]
    generalize f (s.coreOf n) = d at hf ⊢
    by_cases hx : s.core.id = m
    · subst hx; simp [State.coreOf, h]
    · simp only [State.coreOf, hx, if_false]
      rw [find_insertBy _ _ (fun c hc => by rw [hf]; simpa using (List.mem_filter.mp hc).2), hf, find_filter_ne]
      by_cases hm : m = n
      · simp [hm]
      · simp [hm, show ¬ n = m from fun e => hm e.symm]

/-- The core whose step is taken, after a change of one core that keeps its number. -/
theorem State.onCoreOf_core (s : State) (n : Nat) (f : Core → Core) :
    (s.onCoreOf n f).core = if s.core.id = n then f s.core else s.core := by
  unfold State.onCoreOf; split <;> simp [*]

@[simp] theorem Core.onBankOf_id (c : Core) (i : Nat) (f : Bank → Bank) : (c.onBankOf i f).id = c.id := by
  unfold Core.onBankOf; split <;> rfl

@[simp] theorem Core.bankOf_self (c : Core) : c.bankOf c.bank.id = c.bank := by simp [Core.bankOf]

/-! ### Registers -/

@[simp] theorem Bank.readG_zero (b : Bank) : b.readG 0 = 0 := rfl
@[simp] theorem Bank.readP_zero (b : Bank) : b.readP 0 = true := rfl
@[simp] theorem Bank.readVm_zero (b : Bank) : b.readVm 0 = BitVec.allOnes 64 := rfl

/-- A g register after a g register is written; a write of g0 is discarded. -/
theorem Bank.readG_put (b : Bank) (r q : Nat) (x : Word) : (b.put (.g r x)).readG q = if q = r ∧ r ≠ 0 then x else b.readG q := by
  by_cases hr : r = 0
  · simp [Bank.put, hr]
  · by_cases hq : q = 0
    · subst hq; simp [show ¬ 0 = r from fun e => hr e.symm]
    · simp only [Bank.put, hr, if_false, Bank.readG, hq, SMap.get_set]; simp [hr]

theorem Bank.readP_put (b : Bank) (r q : Nat) (x : Bool) : (b.put (.p r x)).readP q = if q = r ∧ r ≠ 0 then x else b.readP q := by
  by_cases hr : r = 0
  · simp [Bank.put, hr]
  · by_cases hq : q = 0
    · subst hq; simp [show ¬ 0 = r from fun e => hr e.symm]
    · simp only [Bank.put, hr, if_false, Bank.readP, hq, SMap.get_set]; simp [hr]

theorem Bank.readVm_put (b : Bank) (r q : Nat) (x : Word) : (b.put (.vm r x)).readVm q = if q = r ∧ r ≠ 0 then x else b.readVm q := by
  by_cases hr : r = 0
  · simp [Bank.put, hr]
  · by_cases hq : q = 0
    · subst hq; simp [show ¬ 0 = r from fun e => hr e.symm]
    · simp only [Bank.put, hr, if_false, Bank.readVm, hq, SMap.get_set]; simp [hr]

theorem Bank.readA_put (b : Bank) (r q : Nat) (x : BitVec 128) : (b.put (.a r x)).readA q = if q = r then x else b.readA q := by
  simp [Bank.put, Bank.readA, SMap.get_set]

theorem Bank.readM_put (b : Bank) (r q : Nat) (x : Word) : (b.put (.m r x)).readM q = if q = r then x else b.readM q := by
  simp [Bank.put, Bank.readM, SMap.get_set]

/-- The lanes of a v register after one is written under a mask, and the tag (06 R135). -/
theorem Bank.readV_put (b : Bank) (r q : Nat) (x : Words) (mask : Word) (tag : Nat) :
    (b.put (.v r x mask tag)).readV q = (if q = r then mergeLanes (b.readV r) x mask else b.readV q) ∧
    (b.put (.v r x mask tag)).tagV q = if q = r then tag else b.tagV q := by
  simp [Bank.put, Bank.readV, Bank.tagV, SMap.get_set]

theorem tabulate_get {α : Type} [DecidableEq α] (d : α) (f : Nat → α) (k : Nat) : ∀ {ks : List Nat}, ks.Pairwise (· < ·) →
    SMap.get d (SMap.tabulate d ks f) k = if k ∈ ks then f k else d
  | [], _ => by simp [SMap.tabulate, SMap.get]
  | j :: r, h => by
    obtain ⟨hj, hr⟩ := List.pairwise_cons.mp h
    have ih := tabulate_get d f k hr
    simp only [SMap.tabulate] at ih ⊢
    by_cases hk : k = j
    · subst hk
      have hn : k ∉ r := fun hm => absurd (hj k hm) (Nat.lt_irrefl k)
      by_cases hd : f k = d
      · rw [List.filterMap_cons]; simp only [hd, if_true]; rw [ih]; simp [hn]
      · rw [List.filterMap_cons]; simp [hd, SMap.get]
    · by_cases hd : f j = d
      · rw [List.filterMap_cons]; simp only [hd, if_true]; rw [ih]; simp [hk]
      · rw [List.filterMap_cons]; simp only [hd, if_false, SMap.get, show ¬ j = k from fun e => hk e.symm]; rw [ih]; simp [hk]

theorem range_pairwise (n : Nat) : (List.range n).Pairwise (· < ·) := List.pairwise_lt_range

/-- A lane of a masked write. -/
theorem mergeLanes_at (old new : Words) (mask : Word) {i : Nat} (hi : i < 64) :
    (mergeLanes old new mask).at i = if bitAt mask.toNat i = true then new.at i else old.at i := by
  unfold mergeLanes Words.at
  rw [tabulate_get 0 _ i (range_pairwise 64), if_pos (List.mem_range.mpr hi)]

/-! ### Memories -/

/-- HBM read by hardware: the bytes, or a fault beyond the stacks. -/
theorem State.readHbm_ok {s : State} {a n x : Nat} : s.readHbm a n = .ok x ↔ a + n ≤ hbmSize ∧ x = s.hbm.read a n := by
  unfold State.readHbm; split
  · simp [*, eq_comm]
  · simp [*]

/-- HBM written by hardware. -/
theorem State.writeHbm_ok {s t : State} {a x n : Nat} :
    s.writeHbm a x n = .ok t ↔ a + n ≤ hbmSize ∧ t = s.poke a x n := by
  unfold State.writeHbm; split
  · simp [*, eq_comm]
  · simp [*]

/-- A byte of a tile is a byte of its element. -/
theorem accByte_accSetByte (b : Bank) (a : Nat) (x : Byte) : accByte (accSetByte b a x) a = x := by
  have h4 : a % 4 = 0 ∨ a % 4 = 1 ∨ a % 4 = 2 ∨ a % 4 = 3 := by omega
  unfold accByte accSetByte
  simp only [Bank.readT, Words.at, SMap.get_set, if_true]
  apply BitVec.eq_of_toNat_eq
  have hx := x.isLt
  generalize (SMap.get 0 (SMap.get [] b.t (a / 16384)) (a % 16384 / 4)) = w
  have hw := w.isLt
  simp only [BitVec.toNat_ofNat, setField]
  rcases h4 with h | h | h | h <;> simp only [h] <;> omega

/-- The places in HBM, in host memory and in a weight store read back what is written there, and no other byte changes. -/
theorem State.byteAt_setByteAt_hbm (s : State) (n i a : Nat) (x : Byte) (l : Loc) :
    (s.setByteAt n i { space := .hbm, addr := a } x).byteAt n i l = if l.space = .hbm ∧ l.addr = a then x else s.byteAt n i l := by
  obtain ⟨sp, b⟩ := l
  cases sp with
  | hbm => simp [State.setByteAt, State.byteAt, Memory.byte_setByte]
  | _ => rw [if_neg fun h => by cases h.1]; rfl

/-- A byte written leaves every memory in canonical form. -/
theorem State.setByteAt_outer (s : State) (n i : Nat) (l : Loc) (x : Byte) (h : s.hbm.wf = true ∧ s.host.wf = true ∧ s.wstore.wf = true) :
    (s.setByteAt n i l x).hbm.wf = true ∧ (s.setByteAt n i l x).host.wf = true ∧ (s.setByteAt n i l x).wstore.wf = true := by
  obtain ⟨h1, h2, h3⟩ := h
  unfold State.setByteAt
  split
  · exact ⟨Memory.setByte_wf _ _ h1, h2, h3⟩
  · exact ⟨h1, Memory.setByte_wf _ _ h2, h3⟩
  · exact ⟨h1, h2, Memory.setByte_wf _ _ h3⟩
  · rw [State.onCoreOf_eq]; exact ⟨h1, h2, h3⟩
  · rw [State.onCoreOf_eq]; exact ⟨h1, h2, h3⟩
  · rw [State.onCoreOf_eq]; exact ⟨h1, h2, h3⟩
  · exact ⟨h1, h2, h3⟩

/-! ### Taking a trap, and returning -/

/-- A core alone in its group is its group. -/
theorem State.members_none (s : State) {c : Core} (h : c.task = none) : s.members c = [c] := by simp [State.members, h]

/-- A trap without a fault record on a core alone in its group that has a handler: the core enters it and nothing else
changes (15 R252). -/
theorem State.takeTrapAt_alone (s : State) (t : TrapReq) (tpc : Nat) (mine : List (Nat × TrapReq)) (hr : t.record = none)
    (hm : s.members s.core = [s.core]) (hv : s.core.bank.sys.tvec ≠ 0) :
    s.takeTrapAt t tpc mine = { s with core := s.core.enter t tpc false, raised := some t } := by
  have hany : ¬ ((s.members s.core).any fun c => decide (c.bank.sys.tvec = 0)) = true := by
    rw [hm]; simp only [List.any_cons, List.any_nil, Bool.or_false, decide_eq_true_eq]; exact hv
  have hrec : s.recordOf t = s := by simp only [State.recordOf, hr]
  unfold State.takeTrapAt
  rw [hrec]
  simp only
  rw [if_neg hany, hm]
  simp [State.onCore]

theorem State.takeTrap_alone (s : State) (t : TrapReq) (hr : t.record = none) (hm : s.members s.core = [s.core])
    (hv : s.core.bank.sys.tvec ≠ 0) : s.takeTrap t = { s with core := s.core.enter t s.core.bank.pc false, raised := some t } :=
  s.takeTrapAt_alone t _ _ hr hm hv

@[simp] theorem Core.stopBank_id (c : Core) : c.stopBank.id = c.id := rfl
@[simp] theorem Core.stopBank_other (c : Core) : c.stopBank.other = c.other := rfl
@[simp] theorem Core.stopBank_task (c : Core) : c.stopBank.task = c.task := rfl
@[simp] theorem Core.stopBank_running (c : Core) : c.stopBank.running = c.running := rfl
@[simp] theorem Core.stopBank_spad (c : Core) : c.stopBank.spad = c.spad := rfl
@[simp] theorem Core.stopBank_wbuf (c : Core) : c.stopBank.wbuf = c.wbuf := rfl
@[simp] theorem Core.stopBank_map (c : Core) : c.stopBank.map = c.map := rfl

/-- Entering a handler keeps the core's number, task and memories. -/
theorem Core.enter_frame (c : Core) (t : TrapReq) (tpc : Nat) (part : Bool) :
    (c.enter t tpc part).id = c.id ∧ (c.enter t tpc part).task = c.task ∧ (c.enter t tpc part).running = c.running ∧
    (c.enter t tpc part).spad = c.spad ∧ (c.enter t tpc part).wbuf = c.wbuf ∧ (c.enter t tpc part).map = c.map ∧
    (c.enter t tpc part).chans = c.chans ∧ (c.enter t tpc part).micro = c.micro := by
  unfold Core.enter; dsimp only; split <;> exact ⟨rfl, rfl, rfl, rfl, rfl, rfl, rfl, rfl⟩

/-- A handler starts at TVEC in supervisor mode with CAUSE, TPC and TVAL written (15 R252, R257). -/
theorem Core.enter_handler (c : Core) (t : TrapReq) (tpc : Nat) (part : Bool) :
    let d := c.enter t tpc part
    d.bank.use = .supervisor ∧ d.bank.pc = c.bank.sys.tvec.toNat ∧ d.bank.bubbles = 0 ∧ d.bank.sys.tval = t.tval ∧
    d.bank.sys.tpc = BitVec.ofNat 64 (c.savedPc t tpc part % 2 ^ 40) ∧
    d.bank.sys.tcause = BitVec.ofNat 64 (causeWord t (decide (c.bank.use = .supervisor)) part) := by
  unfold Core.enter
  dsimp only
  split
  · rename_i h; exact ⟨h, rfl, rfl, rfl, rfl, by simp [h, SysRegs.entered]⟩
  · rename_i h
    refine ⟨?_, rfl, rfl, rfl, rfl, by simp [h, SysRegs.entered]⟩
    dsimp only
    split
    · assumption
    · rfl

/-- The trapped bank keeps its registers (15 R252). -/
theorem Core.enter_trapped (c : Core) (t : TrapReq) (tpc : Nat) (part : Bool) (h : c.bank.use ≠ .supervisor) :
    let b := (c.enter t tpc part).other
    b.g = c.bank.g ∧ b.p = c.bank.p ∧ b.a = c.bank.a ∧ b.v = c.bank.v ∧ b.vtag = c.bank.vtag ∧ b.vm = c.bank.vm ∧ b.t = c.bank.t ∧
    b.ttag = c.bank.ttag ∧ b.m = c.bank.m ∧ b.lc = c.bank.lc ∧ b.pc = c.savedPc t tpc part ∧ b.use = c.bank.use ∧ b.id = c.bank.id ∧ b.inflight = [] ∧
    b.replay = c.bank.inflight.map (capture c) := by
  unfold Core.enter; dsimp only; rw [if_neg h]; exact ⟨rfl, rfl, rfl, rfl, rfl, rfl, rfl, rfl, rfl, rfl, rfl, rfl, rfl, rfl, rfl⟩

/-- A return: the other bank resumes at the address with its replay buffer in flight (15 R256, R263). -/
theorem Core.resume_bank (c : Core) (tpc : Nat) :
    let d := c.resume tpc
    d.id = c.id ∧ d.other = { c.bank with bubbles := 0 } ∧ d.bank.pc = tpc ∧ d.bank.replay = [] ∧ d.bank.handled = none ∧
    d.bank.g = c.other.g ∧ d.bank.use = c.other.use ∧ d.bank.inflight.length = c.other.replay.length ∧ d.spad = c.spad ∧ d.wbuf = c.wbuf :=
  ⟨rfl, rfl, rfl, rfl, rfl, rfl, rfl, by simp [Core.resume], rfl, rfl⟩

/-- The parts that a use needs are all there, or the bundle holds while the first absent one is fetched (15 R278). -/
theorem State.partsThere_cases (s : State) (ps : List Part) :
    (s.partsThere ps = .ok () ∧ ∀ p ∈ ps, s.core.owes p = false) ∨
    ∃ p ∈ ps, s.core.owes p = true ∧
      s.partsThere ps = .error (.hold 19 false (some (.registerMiss (BitVec.ofNat 8 s.core.id) (BitVec.ofNat 16 p.code)))) := by
  unfold State.partsThere
  cases h : ps.find? s.core.owes with
  | none => exact .inl ⟨rfl, fun p hp => by simpa using List.find?_eq_none.mp h p hp⟩
  | some p => exact .inr ⟨p, List.mem_of_find?_eq_some h, List.find?_some h, rfl⟩

end Sys2Proof.Machine
end

