-- ==== Sys2Proof/Laws/PerInstr.lean ====
section
/-!
SUPPORT. The family Encoding: of every instruction, that the word of its slot leaves the bits above the major opcode
(S, G and N, 06 R127) clear; an event or a micro-operation has no slot word.
-/
namespace Sys2Proof.Laws.Encoding

set_option Elab.async false

/-- A slot instruction's word lies in bits 25:0. -/
def Statement (i : Instr) : Prop := ∀ w, encode i = some w → w < 2 ^ 26

theorem add (d : GReg) (a : GReg) (b : GReg) : Statement (.add d a b) := by
  intro word hw; have := d.isLt; have := a.isLt; have := b.isLt
  simp only [encode, place, Option.some.injEq] at hw
  omega
theorem sub (d : GReg) (a : GReg) (b : GReg) : Statement (.sub d a b) := by
  intro word hw; have := d.isLt; have := a.isLt; have := b.isLt
  simp only [encode, place, Option.some.injEq] at hw
  omega
theorem and (d : GReg) (a : GReg) (b : GReg) : Statement (.and d a b) := by
  intro word hw; have := d.isLt; have := a.isLt; have := b.isLt
  simp only [encode, place, Option.some.injEq] at hw
  omega
theorem or (d : GReg) (a : GReg) (b : GReg) : Statement (.or d a b) := by
  intro word hw; have := d.isLt; have := a.isLt; have := b.isLt
  simp only [encode, place, Option.some.injEq] at hw
  omega
theorem xor (d : GReg) (a : GReg) (b : GReg) : Statement (.xor d a b) := by
  intro word hw; have := d.isLt; have := a.isLt; have := b.isLt
  simp only [encode, place, Option.some.injEq] at hw
  omega
theorem shl (d : GReg) (a : GReg) (b : GReg) : Statement (.shl d a b) := by
  intro word hw; have := d.isLt; have := a.isLt; have := b.isLt
  simp only [encode, place, Option.some.injEq] at hw
  omega
theorem shr (d : GReg) (a : GReg) (b : GReg) : Statement (.shr d a b) := by
  intro word hw; have := d.isLt; have := a.isLt; have := b.isLt
  simp only [encode, place, Option.some.injEq] at hw
  omega
theorem sar (d : GReg) (a : GReg) (b : GReg) : Statement (.sar d a b) := by
  intro word hw; have := d.isLt; have := a.isLt; have := b.isLt
  simp only [encode, place, Option.some.injEq] at hw
  omega
theorem mul (d : GReg) (a : GReg) (b : GReg) : Statement (.mul d a b) := by
  intro word hw; have := d.isLt; have := a.isLt; have := b.isLt
  simp only [encode, place, Option.some.injEq] at hw
  omega
theorem mulhS (d : GReg) (a : GReg) (b : GReg) : Statement (.mulhS d a b) := by
  intro word hw; have := d.isLt; have := a.isLt; have := b.isLt
  simp only [encode, place, Option.some.injEq] at hw
  omega
theorem mulhU (d : GReg) (a : GReg) (b : GReg) : Statement (.mulhU d a b) := by
  intro word hw; have := d.isLt; have := a.isLt; have := b.isLt
  simp only [encode, place, Option.some.injEq] at hw
  omega
theorem divu (d : GReg) (a : GReg) (b : GReg) : Statement (.divu d a b) := by
  intro word hw; have := d.isLt; have := a.isLt; have := b.isLt
  simp only [encode, place, Option.some.injEq] at hw
  omega
theorem remu (d : GReg) (a : GReg) (b : GReg) : Statement (.remu d a b) := by
  intro word hw; have := d.isLt; have := a.isLt; have := b.isLt
  simp only [encode, place, Option.some.injEq] at hw
  omega
theorem clkdiv (a : GReg) : Statement (.clkdiv a) := by
  intro word hw; have := a.isLt
  simp only [encode, place, Option.some.injEq] at hw
  omega
theorem slmark (a : GReg) : Statement (.slmark a) := by
  intro word hw; have := a.isLt
  simp only [encode, place, Option.some.injEq] at hw
  omega
theorem fillq (a : GReg) (b : GReg) : Statement (.fillq a b) := by
  intro word hw; have := a.isLt; have := b.isLt
  simp only [encode, place, Option.some.injEq] at hw
  omega
theorem cmpEq (p : PReg) (a : GReg) (b : GReg) : Statement (.cmpEq p a b) := by
  intro word hw; have := p.isLt; have := a.isLt; have := b.isLt
  simp only [encode, place, Option.some.injEq] at hw
  omega
theorem cmpNe (p : PReg) (a : GReg) (b : GReg) : Statement (.cmpNe p a b) := by
  intro word hw; have := p.isLt; have := a.isLt; have := b.isLt
  simp only [encode, place, Option.some.injEq] at hw
  omega
theorem cmpLt (p : PReg) (a : GReg) (b : GReg) : Statement (.cmpLt p a b) := by
  intro word hw; have := p.isLt; have := a.isLt; have := b.isLt
  simp only [encode, place, Option.some.injEq] at hw
  omega
theorem cmpLtu (p : PReg) (a : GReg) (b : GReg) : Statement (.cmpLtu p a b) := by
  intro word hw; have := p.isLt; have := a.isLt; have := b.isLt
  simp only [encode, place, Option.some.injEq] at hw
  omega
theorem addi (d : GReg) (a : GReg) (i : BitVec 8) : Statement (.addi d a i) := by
  intro word hw; have := d.isLt; have := a.isLt; have := i.isLt
  simp only [encode, place, Option.some.injEq] at hw
  omega
theorem shiL (d : GReg) (a : GReg) (i : BitVec 6) : Statement (.shiL d a i) := by
  intro word hw; have := d.isLt; have := a.isLt; have := i.isLt
  simp only [encode, place, Option.some.injEq] at hw
  omega
theorem shiR (d : GReg) (a : GReg) (i : BitVec 6) : Statement (.shiR d a i) := by
  intro word hw; have := d.isLt; have := a.isLt; have := i.isLt
  simp only [encode, place, Option.some.injEq] at hw
  omega
theorem shiA (d : GReg) (a : GReg) (i : BitVec 6) : Statement (.shiA d a i) := by
  intro word hw; have := d.isLt; have := a.isLt; have := i.isLt
  simp only [encode, place, Option.some.injEq] at hw
  omega
theorem shiRol (d : GReg) (a : GReg) (i : BitVec 6) : Statement (.shiRol d a i) := by
  intro word hw; have := d.isLt; have := a.isLt; have := i.isLt
  simp only [encode, place, Option.some.injEq] at hw
  omega
theorem cmpiEq (p : PReg) (a : GReg) (i : BitVec 6) : Statement (.cmpiEq p a i) := by
  intro word hw; have := p.isLt; have := a.isLt; have := i.isLt
  simp only [encode, place, Option.some.injEq] at hw
  omega
theorem cmpiNe (p : PReg) (a : GReg) (i : BitVec 6) : Statement (.cmpiNe p a i) := by
  intro word hw; have := p.isLt; have := a.isLt; have := i.isLt
  simp only [encode, place, Option.some.injEq] at hw
  omega
theorem cmpiLt (p : PReg) (a : GReg) (i : BitVec 6) : Statement (.cmpiLt p a i) := by
  intro word hw; have := p.isLt; have := a.isLt; have := i.isLt
  simp only [encode, place, Option.some.injEq] at hw
  omega
theorem cmpiLtu (p : PReg) (a : GReg) (i : BitVec 6) : Statement (.cmpiLtu p a i) := by
  intro word hw; have := p.isLt; have := a.isLt; have := i.isLt
  simp only [encode, place, Option.some.injEq] at hw
  omega
theorem lis (d : GReg) (i : BitVec 14) : Statement (.lis d i) := by
  intro word hw; have := d.isLt; have := i.isLt
  simp only [encode, place, Option.some.injEq] at hw
  omega
theorem shin (d : GReg) (i : BitVec 14) : Statement (.shin d i) := by
  intro word hw; have := d.isLt; have := i.isLt
  simp only [encode, place, Option.some.injEq] at hw
  omega
theorem br (i : BitVec 20) : Statement (.br i) := by
  intro word hw; have := i.isLt
  simp only [encode, place, Option.some.injEq] at hw
  omega
theorem call (d : GReg) (i : BitVec 12) : Statement (.call d i) := by
  intro word hw; have := d.isLt; have := i.isLt
  simp only [encode, place, Option.some.injEq] at hw
  omega
theorem ret (a : GReg) : Statement (.ret a) := by
  intro word hw; have := a.isLt
  simp only [encode, place, Option.some.injEq] at hw
  omega
theorem jmpr (a : GReg) : Statement (.jmpr a) := by
  intro word hw; have := a.isLt
  simp only [encode, place, Option.some.injEq] at hw
  omega
theorem loops (k : LReg) (a : GReg) (i : BitVec 8) : Statement (.loops k a i) := by
  intro word hw; have := k.isLt; have := a.isLt; have := i.isLt
  simp only [encode, place, Option.some.injEq] at hw
  omega
theorem mfs (d : GReg) (r : BitVec 12) : Statement (.mfs d r) := by
  intro word hw; have := d.isLt; have := r.isLt
  simp only [encode, place, Option.some.injEq] at hw
  omega
theorem mts (a : GReg) (r : BitVec 12) : Statement (.mts a r) := by
  intro word hw; have := a.isLt; have := r.isLt
  simp only [encode, place, Option.some.injEq] at hw
  omega
theorem swaps (d : GReg) (r : BitVec 12) : Statement (.swaps d r) := by
  intro word hw; have := d.isLt; have := r.isLt
  simp only [encode, place, Option.some.injEq] at hw
  omega
theorem plogAnd (d : PReg) (a : PReg) (b : PReg) : Statement (.plogAnd d a b) := by
  intro word hw; have := d.isLt; have := a.isLt; have := b.isLt
  simp only [encode, place, Option.some.injEq] at hw
  omega
theorem plogOr (d : PReg) (a : PReg) (b : PReg) : Statement (.plogOr d a b) := by
  intro word hw; have := d.isLt; have := a.isLt; have := b.isLt
  simp only [encode, place, Option.some.injEq] at hw
  omega
theorem plogXor (d : PReg) (a : PReg) (b : PReg) : Statement (.plogXor d a b) := by
  intro word hw; have := d.isLt; have := a.isLt; have := b.isLt
  simp only [encode, place, Option.some.injEq] at hw
  omega
theorem plogAndn (d : PReg) (a : PReg) (b : PReg) : Statement (.plogAndn d a b) := by
  intro word hw; have := d.isLt; have := a.isLt; have := b.isLt
  simp only [encode, place, Option.some.injEq] at hw
  omega
theorem wait (l : BitVec 4) (w : BitVec 4) (c : BitVec 4) (t : BitVec 4) : Statement (.wait l w c t) := by
  intro word hw; have := l.isLt; have := w.isLt; have := c.isLt; have := t.isLt
  simp only [encode, place, Option.some.injEq] at hw
  omega
theorem bar (a : GReg) (b : GReg) : Statement (.bar a b) := by
  intro word hw; have := a.isLt; have := b.isLt
  simp only [encode, place, Option.some.injEq] at hw
  omega
theorem barArr (d : GReg) (a : GReg) (b : GReg) : Statement (.barArr d a b) := by
  intro word hw; have := d.isLt; have := a.isLt; have := b.isLt
  simp only [encode, place, Option.some.injEq] at hw
  omega
theorem barWait (a : GReg) : Statement (.barWait a) := by
  intro word hw; have := a.isLt
  simp only [encode, place, Option.some.injEq] at hw
  omega
theorem drainRel (c : BitVec 2) : Statement (.drainRel c) := by
  intro word hw; have := c.isLt
  simp only [encode, place, Option.some.injEq] at hw
  omega
theorem drainAcq (c : BitVec 2) : Statement (.drainAcq c) := by
  intro word hw; have := c.isLt
  simp only [encode, place, Option.some.injEq] at hw
  omega
theorem drainFull (c : BitVec 2) : Statement (.drainFull c) := by
  intro word hw; have := c.isLt
  simp only [encode, place, Option.some.injEq] at hw
  omega
theorem clz (d : GReg) (a : GReg) : Statement (.clz d a) := by
  intro word hw; have := d.isLt; have := a.isLt
  simp only [encode, place, Option.some.injEq] at hw
  omega
theorem trap (a : GReg) : Statement (.trap a) := by
  intro word hw; have := a.isLt
  simp only [encode, place, Option.some.injEq] at hw
  omega
theorem tret : Statement .tret := by
  intro word hw
  simp only [encode, place, Option.some.injEq] at hw
  omega
theorem brkp : Statement .brkp := by
  intro word hw
  simp only [encode, place, Option.some.injEq] at hw
  omega
theorem tend : Statement .tend := by
  intro word hw
  simp only [encode, place, Option.some.injEq] at hw
  omega
theorem spawn (a : GReg) (b : GReg) : Statement (.spawn a b) := by
  intro word hw; have := a.isLt; have := b.isLt
  simp only [encode, place, Option.some.injEq] at hw
  omega
theorem trig : Statement .trig := by
  intro word hw
  simp only [encode, place, Option.some.injEq] at hw
  omega
theorem rdcyc (d : GReg) : Statement (.rdcyc d) := by
  intro word hw; have := d.isLt
  simp only [encode, place, Option.some.injEq] at hw
  omega
theorem bstep (d : GReg) (a : GReg) : Statement (.bstep d a) := by
  intro word hw; have := d.isLt; have := a.isLt
  simp only [encode, place, Option.some.injEq] at hw
  omega
theorem rqrd (d : GReg) (a : GReg) (w : BitVec 6) : Statement (.rqrd d a w) := by
  intro word hw; have := d.isLt; have := a.isLt; have := w.isLt
  simp only [encode, place, Option.some.injEq] at hw
  omega
theorem rqwr (d : GReg) (a : GReg) (w : BitVec 6) : Statement (.rqwr d a w) := by
  intro word hw; have := d.isLt; have := a.isLt; have := w.isLt
  simp only [encode, place, Option.some.injEq] at hw
  omega
theorem rqret (d : GReg) (a : GReg) (k : BitVec 6) : Statement (.rqret d a k) := by
  intro word hw; have := d.isLt; have := a.isLt; have := k.isLt
  simp only [encode, place, Option.some.injEq] at hw
  omega
theorem tld4 (a : AReg) (t : BitVec 6) (m : VMReg) : Statement (.tld4 a t m) := by
  intro word hw; have := a.isLt; have := t.isLt; have := m.isLt
  simp only [encode, place, Option.some.injEq] at hw
  omega
theorem tld64 (a : AReg) (t : BitVec 6) (m : VMReg) : Statement (.tld64 a t m) := by
  intro word hw; have := a.isLt; have := t.isLt; have := m.isLt
  simp only [encode, place, Option.some.injEq] at hw
  omega
theorem tld256 (a : AReg) (t : BitVec 6) (m : VMReg) : Statement (.tld256 a t m) := by
  intro word hw; have := a.isLt; have := t.isLt; have := m.isLt
  simp only [encode, place, Option.some.injEq] at hw
  omega
theorem tldG (a : AReg) (v : VReg) (m : VMReg) : Statement (.tldG a v m) := by
  intro word hw; have := a.isLt; have := v.isLt; have := m.isLt
  simp only [encode, place, Option.some.injEq] at hw
  omega
theorem tst4 (a : AReg) (t : BitVec 6) (v : VReg) : Statement (.tst4 a t v) := by
  intro word hw; have := a.isLt; have := t.isLt; have := v.isLt
  simp only [encode, place, Option.some.injEq] at hw
  omega
theorem tst64 (a : AReg) (t : BitVec 6) (v : VReg) : Statement (.tst64 a t v) := by
  intro word hw; have := a.isLt; have := t.isLt; have := v.isLt
  simp only [encode, place, Option.some.injEq] at hw
  omega
theorem tst256 (a : AReg) (t : BitVec 6) (v : VReg) : Statement (.tst256 a t v) := by
  intro word hw; have := a.isLt; have := t.isLt; have := v.isLt
  simp only [encode, place, Option.some.injEq] at hw
  omega
theorem tstS (a : AReg) (i : BitVec 5) (v : VReg) : Statement (.tstS a i v) := by
  intro word hw; have := a.isLt; have := i.isLt; have := v.isLt
  simp only [encode, place, Option.some.injEq] at hw
  omega
theorem touchR (a : AReg) (r : BitVec 6) (b : BitVec 6) : Statement (.touchR a r b) := by
  intro word hw; have := a.isLt; have := r.isLt; have := b.isLt
  simp only [encode, place, Option.some.injEq] at hw
  omega
theorem touchW (a : AReg) (r : BitVec 6) (b : BitVec 6) : Statement (.touchW a r b) := by
  intro word hw; have := a.isLt; have := r.isLt; have := b.isLt
  simp only [encode, place, Option.some.injEq] at hw
  omega
theorem touchRw (a : AReg) (r : BitVec 6) (b : BitVec 6) : Statement (.touchRw a r b) := by
  intro word hw; have := a.isLt; have := r.isLt; have := b.isLt
  simp only [encode, place, Option.some.injEq] at hw
  omega
theorem touchRel (a : AReg) : Statement (.touchRel a) := by
  intro word hw; have := a.isLt
  simp only [encode, place, Option.some.injEq] at hw
  omega
theorem aset (a : AReg) (r : GReg) (k : BitVec 3) : Statement (.aset a r k) := by
  intro word hw; have := a.isLt; have := r.isLt; have := k.isLt
  simp only [encode, place, Option.some.injEq] at hw
  omega
theorem ainc (a : AReg) (r : GReg) (j : BitVec 2) : Statement (.ainc a r j) := by
  intro word hw; have := a.isLt; have := r.isLt; have := j.isLt
  simp only [encode, place, Option.some.injEq] at hw
  omega
theorem amovTo (d : AReg) (a : AReg) : Statement (.amovTo d a) := by
  intro word hw; have := d.isLt; have := a.isLt
  simp only [encode, place, Option.some.injEq] at hw
  omega
theorem amovFrom (d : GReg) (a : AReg) (k : BitVec 3) : Statement (.amovFrom d a k) := by
  intro word hw; have := d.isLt; have := a.isLt; have := k.isLt
  simp only [encode, place, Option.some.injEq] at hw
  omega
theorem atomAdd (a : AReg) (t : BitVec 6) (v : VReg) : Statement (.atomAdd a t v) := by
  intro word hw; have := a.isLt; have := t.isLt; have := v.isLt
  simp only [encode, place, Option.some.injEq] at hw
  omega
theorem atomMin (a : AReg) (t : BitVec 6) (v : VReg) : Statement (.atomMin a t v) := by
  intro word hw; have := a.isLt; have := t.isLt; have := v.isLt
  simp only [encode, place, Option.some.injEq] at hw
  omega
theorem atomMax (a : AReg) (t : BitVec 6) (v : VReg) : Statement (.atomMax a t v) := by
  intro word hw; have := a.isLt; have := t.isLt; have := v.isLt
  simp only [encode, place, Option.some.injEq] at hw
  omega
theorem atomCas (a : AReg) (t : BitVec 6) (v : VReg) : Statement (.atomCas a t v) := by
  intro word hw; have := a.isLt; have := t.isLt; have := v.isLt
  simp only [encode, place, Option.some.injEq] at hw
  omega
theorem tldt (a : AReg) (k : TReg) (c : BitVec 6) : Statement (.tldt a k c) := by
  intro word hw; have := a.isLt; have := k.isLt; have := c.isLt
  simp only [encode, place, Option.some.injEq] at hw
  omega
theorem tstt (a : AReg) (k : TReg) (c : BitVec 6) : Statement (.tstt a k c) := by
  intro word hw; have := a.isLt; have := k.isLt; have := c.isLt
  simp only [encode, place, Option.some.injEq] at hw
  omega
theorem vadd (d : VReg) (a : VReg) (b : VReg) (m : VMReg) : Statement (.vadd d a b m) := by
  intro word hw; have := d.isLt; have := a.isLt; have := b.isLt; have := m.isLt
  simp only [encode, place, Option.some.injEq] at hw
  omega
theorem vsub (d : VReg) (a : VReg) (b : VReg) (m : VMReg) : Statement (.vsub d a b m) := by
  intro word hw; have := d.isLt; have := a.isLt; have := b.isLt; have := m.isLt
  simp only [encode, place, Option.some.injEq] at hw
  omega
theorem vmul (d : VReg) (a : VReg) (b : VReg) (m : VMReg) : Statement (.vmul d a b m) := by
  intro word hw; have := d.isLt; have := a.isLt; have := b.isLt; have := m.isLt
  simp only [encode, place, Option.some.injEq] at hw
  omega
theorem vfma (d : VReg) (a : VReg) (b : VReg) (m : VMReg) : Statement (.vfma d a b m) := by
  intro word hw; have := d.isLt; have := a.isLt; have := b.isLt; have := m.isLt
  simp only [encode, place, Option.some.injEq] at hw
  omega
theorem vmax (d : VReg) (a : VReg) (b : VReg) (m : VMReg) : Statement (.vmax d a b m) := by
  intro word hw; have := d.isLt; have := a.isLt; have := b.isLt; have := m.isLt
  simp only [encode, place, Option.some.injEq] at hw
  omega
theorem vmin (d : VReg) (a : VReg) (b : VReg) (m : VMReg) : Statement (.vmin d a b m) := by
  intro word hw; have := d.isLt; have := a.isLt; have := b.isLt; have := m.isLt
  simp only [encode, place, Option.some.injEq] at hw
  omega
theorem vsel (d : VReg) (a : VReg) (b : VReg) (m : VMReg) : Statement (.vsel d a b m) := by
  intro word hw; have := d.isLt; have := a.isLt; have := b.isLt; have := m.isLt
  simp only [encode, place, Option.some.injEq] at hw
  omega
theorem vmov (d : VReg) (a : VReg) (m : VMReg) : Statement (.vmov d a m) := by
  intro word hw; have := d.isLt; have := a.isLt; have := m.isLt
  simp only [encode, place, Option.some.injEq] at hw
  omega
theorem vcmpEq (d : VMReg) (a : VReg) (b : VReg) (m : VMReg) : Statement (.vcmpEq d a b m) := by
  intro word hw; have := d.isLt; have := a.isLt; have := b.isLt; have := m.isLt
  simp only [encode, place, Option.some.injEq] at hw
  omega
theorem vcmpNe (d : VMReg) (a : VReg) (b : VReg) (m : VMReg) : Statement (.vcmpNe d a b m) := by
  intro word hw; have := d.isLt; have := a.isLt; have := b.isLt; have := m.isLt
  simp only [encode, place, Option.some.injEq] at hw
  omega
theorem vcmpLt (d : VMReg) (a : VReg) (b : VReg) (m : VMReg) : Statement (.vcmpLt d a b m) := by
  intro word hw; have := d.isLt; have := a.isLt; have := b.isLt; have := m.isLt
  simp only [encode, place, Option.some.injEq] at hw
  omega
theorem vcmpLe (d : VMReg) (a : VReg) (b : VReg) (m : VMReg) : Statement (.vcmpLe d a b m) := by
  intro word hw; have := d.isLt; have := a.isLt; have := b.isLt; have := m.isLt
  simp only [encode, place, Option.some.injEq] at hw
  omega
theorem vsfn (d : VReg) (a : VReg) (f : BitVec 5) (m : VMReg) : Statement (.vsfn d a f m) := by
  intro word hw; have := d.isLt; have := a.isLt; have := f.isLt; have := m.isLt
  simp only [encode, place, Option.some.injEq] at hw
  omega
theorem vredAdd (d : VReg) (a : VReg) (m : VMReg) : Statement (.vredAdd d a m) := by
  intro word hw; have := d.isLt; have := a.isLt; have := m.isLt
  simp only [encode, place, Option.some.injEq] at hw
  omega
theorem vredMax (d : VReg) (a : VReg) (m : VMReg) : Statement (.vredMax d a m) := by
  intro word hw; have := d.isLt; have := a.isLt; have := m.isLt
  simp only [encode, place, Option.some.injEq] at hw
  omega
theorem vredMin (d : VReg) (a : VReg) (m : VMReg) : Statement (.vredMin d a m) := by
  intro word hw; have := d.isLt; have := a.isLt; have := m.isLt
  simp only [encode, place, Option.some.injEq] at hw
  omega
theorem vredArgmax (d : VReg) (a : VReg) (m : VMReg) : Statement (.vredArgmax d a m) := by
  intro word hw; have := d.isLt; have := a.isLt; have := m.isLt
  simp only [encode, place, Option.some.injEq] at hw
  omega
theorem vperm (d : VReg) (a : VReg) (b : VReg) (m : VMReg) : Statement (.vperm d a b m) := by
  intro word hw; have := d.isLt; have := a.isLt; have := b.isLt; have := m.isLt
  simp only [encode, place, Option.some.injEq] at hw
  omega
theorem vbcast (d : VReg) (a : VReg) (b : VReg) (m : VMReg) : Statement (.vbcast d a b m) := by
  intro word hw; have := d.isLt; have := a.isLt; have := b.isLt; have := m.isLt
  simp only [encode, place, Option.some.injEq] at hw
  omega
theorem vcvtRne (d : VReg) (a : VReg) (t : BitVec 4) (m : VMReg) : Statement (.vcvtRne d a t m) := by
  intro word hw; have := d.isLt; have := a.isLt; have := t.isLt; have := m.isLt
  simp only [encode, place, Option.some.injEq] at hw
  omega
theorem vcvtSr (d : VReg) (a : VReg) (t : BitVec 4) (m : VMReg) : Statement (.vcvtSr d a t m) := by
  intro word hw; have := d.isLt; have := a.isLt; have := t.isLt; have := m.isLt
  simp only [encode, place, Option.some.injEq] at hw
  omega
theorem vcvtRtz (d : VReg) (a : VReg) (t : BitVec 4) (m : VMReg) : Statement (.vcvtRtz d a t m) := by
  intro word hw; have := d.isLt; have := a.isLt; have := t.isLt; have := m.isLt
  simp only [encode, place, Option.some.injEq] at hw
  omega
theorem vcvtMode (d : VReg) (a : VReg) (t : BitVec 4) (m : VMReg) : Statement (.vcvtMode d a t m) := by
  intro word hw; have := d.isLt; have := a.isLt; have := t.isLt; have := m.isLt
  simp only [encode, place, Option.some.injEq] at hw
  omega
theorem vpop (d : VReg) (m : VMReg) : Statement (.vpop d m) := by
  intro word hw; have := d.isLt; have := m.isLt
  simp only [encode, place, Option.some.injEq] at hw
  omega
theorem vlogAnd (d : VReg) (a : VReg) (b : VReg) (m : VMReg) : Statement (.vlogAnd d a b m) := by
  intro word hw; have := d.isLt; have := a.isLt; have := b.isLt; have := m.isLt
  simp only [encode, place, Option.some.injEq] at hw
  omega
theorem vlogOr (d : VReg) (a : VReg) (b : VReg) (m : VMReg) : Statement (.vlogOr d a b m) := by
  intro word hw; have := d.isLt; have := a.isLt; have := b.isLt; have := m.isLt
  simp only [encode, place, Option.some.injEq] at hw
  omega
theorem vlogXor (d : VReg) (a : VReg) (b : VReg) (m : VMReg) : Statement (.vlogXor d a b m) := by
  intro word hw; have := d.isLt; have := a.isLt; have := b.isLt; have := m.isLt
  simp only [encode, place, Option.some.injEq] at hw
  omega
theorem vlogAndn (d : VReg) (a : VReg) (b : VReg) (m : VMReg) : Statement (.vlogAndn d a b m) := by
  intro word hw; have := d.isLt; have := a.isLt; have := b.isLt; have := m.isLt
  simp only [encode, place, Option.some.injEq] at hw
  omega
theorem vshfL (d : VReg) (a : VReg) (b : VReg) (m : VMReg) : Statement (.vshfL d a b m) := by
  intro word hw; have := d.isLt; have := a.isLt; have := b.isLt; have := m.isLt
  simp only [encode, place, Option.some.injEq] at hw
  omega
theorem vshfR (d : VReg) (a : VReg) (b : VReg) (m : VMReg) : Statement (.vshfR d a b m) := by
  intro word hw; have := d.isLt; have := a.isLt; have := b.isLt; have := m.isLt
  simp only [encode, place, Option.some.injEq] at hw
  omega
theorem vshfA (d : VReg) (a : VReg) (b : VReg) (m : VMReg) : Statement (.vshfA d a b m) := by
  intro word hw; have := d.isLt; have := a.isLt; have := b.isLt; have := m.isLt
  simp only [encode, place, Option.some.injEq] at hw
  omega
theorem vshfRol (d : VReg) (a : VReg) (b : VReg) (m : VMReg) : Statement (.vshfRol d a b m) := by
  intro word hw; have := d.isLt; have := a.isLt; have := b.isLt; have := m.isLt
  simp only [encode, place, Option.some.injEq] at hw
  omega
theorem vsplit (d : VReg) (a : VReg) (b : VReg) (m : VMReg) : Statement (.vsplit d a b m) := by
  intro word hw; have := d.isLt; have := a.isLt; have := b.isLt; have := m.isLt
  simp only [encode, place, Option.some.injEq] at hw
  omega
theorem vjoin (d : VReg) (a : VReg) (b : VReg) (m : VMReg) : Statement (.vjoin d a b m) := by
  intro word hw; have := d.isLt; have := a.isLt; have := b.isLt; have := m.isLt
  simp only [encode, place, Option.some.injEq] at hw
  omega
theorem vmlogAnd (d : VMReg) (a : VMReg) (b : VMReg) : Statement (.vmlogAnd d a b) := by
  intro word hw; have := d.isLt; have := a.isLt; have := b.isLt
  simp only [encode, place, Option.some.injEq] at hw
  omega
theorem vmlogOr (d : VMReg) (a : VMReg) (b : VMReg) : Statement (.vmlogOr d a b) := by
  intro word hw; have := d.isLt; have := a.isLt; have := b.isLt
  simp only [encode, place, Option.some.injEq] at hw
  omega
theorem vmlogXor (d : VMReg) (a : VMReg) (b : VMReg) : Statement (.vmlogXor d a b) := by
  intro word hw; have := d.isLt; have := a.isLt; have := b.isLt
  simp only [encode, place, Option.some.injEq] at hw
  omega
theorem vmlogNot (d : VMReg) (a : VMReg) : Statement (.vmlogNot d a) := by
  intro word hw; have := d.isLt; have := a.isLt
  simp only [encode, place, Option.some.injEq] at hw
  omega
theorem vretagSet (d : VReg) (a : VReg) (t : BitVec 4) (m : VMReg) : Statement (.vretagSet d a t m) := by
  intro word hw; have := d.isLt; have := a.isLt; have := t.isLt; have := m.isLt
  simp only [encode, place, Option.some.injEq] at hw
  omega
theorem vretagRead (d : VReg) (a : VReg) (m : VMReg) : Statement (.vretagRead d a m) := by
  intro word hw; have := d.isLt; have := a.isLt; have := m.isLt
  simp only [encode, place, Option.some.injEq] at hw
  omega
theorem vretagClr (d : VReg) (a : VReg) (m : VMReg) : Statement (.vretagClr d a m) := by
  intro word hw; have := d.isLt; have := a.isLt; have := m.isLt
  simp only [encode, place, Option.some.injEq] at hw
  omega
theorem vscl (d : VReg) (a : VReg) (b : VReg) (m : VMReg) : Statement (.vscl d a b m) := by
  intro word hw; have := d.isLt; have := a.isLt; have := b.isLt; have := m.isLt
  simp only [encode, place, Option.some.injEq] at hw
  omega
theorem mcall (r : BitVec 12) (b : BitVec 6) : Statement (.mcall r b) := by
  intro word hw; have := r.isLt; have := b.isLt
  simp only [encode, place, Option.some.injEq] at hw
  omega
theorem msetp (k : MReg) (a : GReg) : Statement (.msetp k a) := by
  intro word hw; have := k.isLt; have := a.isLt
  simp only [encode, place, Option.some.injEq] at hw
  omega
theorem mseth (k : MReg) (a : AReg) : Statement (.mseth k a) := by
  intro word hw; have := k.isLt; have := a.isLt
  simp only [encode, place, Option.some.injEq] at hw
  omega
theorem muwr (a : GReg) (b : GReg) : Statement (.muwr a b) := by
  intro word hw; have := a.isLt; have := b.isLt
  simp only [encode, place, Option.some.injEq] at hw
  omega
theorem mpref (k : MReg) : Statement (.mpref k) := by
  intro word hw; have := k.isLt
  simp only [encode, place, Option.some.injEq] at hw
  omega
theorem relax (z : TReg) (u : TReg) (w : MReg) (v : BitVec 1) (f : BitVec 3) : Statement (.relax z u w v f) := by
  intro word hw; have := z.isLt; have := u.isLt; have := w.isLt; have := v.isLt; have := f.isLt
  simp only [encode, place, Option.some.injEq] at hw
  omega
theorem relaxb (z : TReg) (t : TReg) (w : MReg) : Statement (.relaxb z t w) := by
  intro word hw; have := z.isLt; have := t.isLt; have := w.isLt
  simp only [encode, place, Option.some.injEq] at hw
  omega
theorem mma (d : TReg) (a : TReg) (b : MReg) (e : BitVec 5) : Statement (.mma d a b e) := by
  intro word hw; have := d.isLt; have := a.isLt; have := b.isLt; have := e.isLt
  simp only [encode, place, Option.some.injEq] at hw
  omega
theorem mmaZ (d : TReg) (a : TReg) (b : MReg) (e : BitVec 5) : Statement (.mmaZ d a b e) := by
  intro word hw; have := d.isLt; have := a.isLt; have := b.isLt; have := e.isLt
  simp only [encode, place, Option.some.injEq] at hw
  omega
theorem mmaT (d : TReg) (a : TReg) (b : MReg) (e : BitVec 5) : Statement (.mmaT d a b e) := by
  intro word hw; have := d.isLt; have := a.isLt; have := b.isLt; have := e.isLt
  simp only [encode, place, Option.some.injEq] at hw
  omega
theorem mmaZt (d : TReg) (a : TReg) (b : MReg) (e : BitVec 5) : Statement (.mmaZt d a b e) := by
  intro word hw; have := d.isLt; have := a.isLt; have := b.isLt; have := e.isLt
  simp only [encode, place, Option.some.injEq] at hw
  omega
theorem copy (d : AReg) (a : AReg) (l : GReg) (e : BitVec 4) (c : BitVec 2) : Statement (.copy d a l e c) := by
  intro word hw; have := d.isLt; have := a.isLt; have := l.isLt; have := e.isLt; have := c.isLt
  simp only [encode, place, Option.some.injEq] at hw
  omega
theorem copyadd (d : TReg) (a : AReg) (c : BitVec 6) (h : BitVec 2) : Statement (.copyadd d a c h) := by
  intro word hw; have := d.isLt; have := a.isLt; have := c.isLt; have := h.isLt
  simp only [encode, place, Option.some.injEq] at hw
  omega
theorem bcast (a : AReg) : Statement (.bcast a) := by
  intro word hw; have := a.isLt
  simp only [encode, place, Option.some.injEq] at hw
  omega
theorem blatch (a : AReg) : Statement (.blatch a) := by
  intro word hw; have := a.isLt
  simp only [encode, place, Option.some.injEq] at hw
  omega
theorem xtest (p : PReg) (a : GReg) (c : BitVec 2) : Statement (.xtest p a c) := by
  intro word hw; have := p.isLt; have := a.isLt; have := c.isLt
  simp only [encode, place, Option.some.injEq] at hw
  omega
theorem send (a : GReg) (b : GReg) : Statement (.send a b) := by
  intro word hw; have := a.isLt; have := b.isLt
  simp only [encode, place, Option.some.injEq] at hw
  omega
theorem recv (a : GReg) (b : GReg) : Statement (.recv a b) := by
  intro word hw; have := a.isLt; have := b.isLt
  simp only [encode, place, Option.some.injEq] at hw
  omega
theorem qpush (a : GReg) (b : BitVec 6) : Statement (.qpush a b) := by
  intro word hw; have := a.isLt; have := b.isLt
  simp only [encode, place, Option.some.injEq] at hw
  omega
theorem qpop (a : GReg) : Statement (.qpop a) := by
  intro word hw; have := a.isLt
  simp only [encode, place, Option.some.injEq] at hw
  omega
theorem bdred (a : GReg) (b : GReg) : Statement (.bdred a b) := by
  intro word hw; have := a.isLt; have := b.isLt
  simp only [encode, place, Option.some.injEq] at hw
  omega
theorem bdidx (a : GReg) (b : GReg) : Statement (.bdidx a b) := by
  intro word hw; have := a.isLt; have := b.isLt
  simp only [encode, place, Option.some.injEq] at hw
  omega
theorem bdtopk (a : GReg) (b : GReg) : Statement (.bdtopk a b) := by
  intro word hw; have := a.isLt; have := b.isLt
  simp only [encode, place, Option.some.injEq] at hw
  omega
theorem smerge (k : BitVec 4) (a : GReg) (v : VReg) : Statement (.smerge k a v) := by
  intro word hw; have := k.isLt; have := a.isLt; have := v.isLt
  simp only [encode, place, Option.some.injEq] at hw
  omega
theorem sreset (k : BitVec 4) (a : GReg) : Statement (.sreset k a) := by
  intro word hw; have := k.isLt; have := a.isLt
  simp only [encode, place, Option.some.injEq] at hw
  omega
theorem ssoft (k : BitVec 4) (v : VReg) : Statement (.ssoft k v) := by
  intro word hw; have := k.isLt; have := v.isLt
  simp only [encode, place, Option.some.injEq] at hw
  omega
theorem sdraw (d : GReg) (a : GReg) (k : BitVec 4) : Statement (.sdraw d a k) := by
  intro word hw; have := d.isLt; have := a.isLt; have := k.isLt
  simp only [encode, place, Option.some.injEq] at hw
  omega
theorem saccept (d : GReg) (a : GReg) (v : VReg) : Statement (.saccept d a v) := by
  intro word hw; have := d.isLt; have := a.isLt; have := v.isLt
  simp only [encode, place, Option.some.injEq] at hw
  omega
theorem smatch (d : GReg) (a : GReg) (b : GReg) : Statement (.smatch d a b) := by
  intro word hw; have := d.isLt; have := a.isLt; have := b.isLt
  simp only [encode, place, Option.some.injEq] at hw
  omega
theorem spen (d : VReg) (a : GReg) (b : GReg) : Statement (.spen d a b) := by
  intro word hw; have := d.isLt; have := a.isLt; have := b.isLt
  simp only [encode, place, Option.some.injEq] at hw
  omega
theorem nop : Statement .nop := by
  intro word hw
  simp only [encode, place, Option.some.injEq] at hw
  omega
theorem uend : Statement .uend := by intro word hw; simp [encode] at hw
theorem umma (d : TReg) (a : TReg) (b : TReg) (h : BitVec 2) (m : BitVec 2) (f : BitVec 4) (k : BitVec 5) : Statement (.umma d a b h m f k) := by intro word hw; simp [encode] at hw
theorem uew (d : TReg) (a : TReg) (b : TReg) (h : BitVec 2) (m : BitVec 2) (f : BitVec 4) (k : BitVec 5) : Statement (.uew d a b h m f k) := by intro word hw; simp [encode] at hw
theorem fmodeWrite (core : BitVec 8) (x : BitVec 64) : Statement (.fmodeWrite core x) := by intro word hw; simp [encode] at hw
theorem sigReady (core : BitVec 8) (bank : BitVec 1) : Statement (.sigReady core bank) := by intro word hw; simp [encode] at hw
theorem wsctlWrite (core : BitVec 8) (x : BitVec 64) : Statement (.wsctlWrite core x) := by intro word hw; simp [encode] at hw
theorem wenChange (die : BitVec 2) : Statement (.wenChange die) := by intro word hw; simp [encode] at hw
theorem rqbaseWrite (x : BitVec 64) : Statement (.rqbaseWrite x) := by intro word hw; simp [encode] at hw
theorem ptbaseWrite (x : BitVec 64) : Statement (.ptbaseWrite x) := by intro word hw; simp [encode] at hw
theorem scinvAll (core : BitVec 8) : Statement (.scinvAll core) := by intro word hw; simp [encode] at hw
theorem scinvTid (core : BitVec 8) (tid : BitVec 32) : Statement (.scinvTid core tid) := by intro word hw; simp [encode] at hw
theorem scinvComplete (core : BitVec 8) : Statement (.scinvComplete core) := by intro word hw; simp [encode] at hw
theorem tidemarkRead (core : BitVec 8) (chan : BitVec 2) : Statement (.tidemarkRead core chan) := by intro word hw; simp [encode] at hw
theorem wptrRead (core : BitVec 8) (chan : BitVec 2) : Statement (.wptrRead core chan) := by intro word hw; simp [encode] at hw
theorem slctlRead (core : BitVec 8) : Statement (.slctlRead core) := by intro word hw; simp [encode] at hw
theorem sstatRead (core : BitVec 8) : Statement (.sstatRead core) := by intro word hw; simp [encode] at hw
theorem clkdRead (core : BitVec 8) : Statement (.clkdRead core) := by intro word hw; simp [encode] at hw
theorem functionLevelReset (fn : BitVec 5) : Statement (.functionLevelReset fn) := by intro word hw; simp [encode] at hw
theorem pageRequestResponse (fn : BitVec 5) (pasid : BitVec 21) (iova : BitVec 52) (code : BitVec 2) (page : BitVec 52) : Statement (.pageRequestResponse fn pasid iova code page) := by intro word hw; simp [encode] at hw
theorem doorbellTail (fn : BitVec 5) (q : BitVec 12) (x : BitVec 32) : Statement (.doorbellTail fn q x) := by intro word hw; simp [encode] at hw
theorem doorbellChead (fn : BitVec 5) (q : BitVec 12) (x : BitVec 32) : Statement (.doorbellChead fn q x) := by intro word hw; simp [encode] at hw
theorem queueConfigWrite (q : BitVec 12) (off : BitVec 6) (x : BitVec 64) : Statement (.queueConfigWrite q off x) := by intro word hw; simp [encode] at hw
theorem queueEnable (q : BitVec 12) (x : BitVec 8) : Statement (.queueEnable q x) := by intro word hw; simp [encode] at hw
theorem queueDisable (q : BitVec 12) : Statement (.queueDisable q) := by intro word hw; simp [encode] at hw
theorem queueErrorClear (q : BitVec 12) (x : BitVec 32) : Statement (.queueErrorClear q x) := by intro word hw; simp [encode] at hw
theorem launchAccept (q : BitVec 12) : Statement (.launchAccept q) := by intro word hw; simp [encode] at hw
theorem spawnRelease (die : BitVec 2) : Statement (.spawnRelease die) := by intro word hw; simp [encode] at hw
theorem starvationBound (launch : BitVec 64) : Statement (.starvationBound launch) := by intro word hw; simp [encode] at hw
theorem checkpointSaveComplete (core : BitVec 8) : Statement (.checkpointSaveComplete core) := by intro word hw; simp [encode] at hw
theorem groupResume (core : BitVec 8) : Statement (.groupResume core) := by intro word hw; simp [encode] at hw
theorem registerMiss (core : BitVec 8) (part : BitVec 16) : Statement (.registerMiss core part) := by intro word hw; simp [encode] at hw
theorem backgroundFill (core : BitVec 8) : Statement (.backgroundFill core) := by intro word hw; simp [encode] at hw
theorem taskEnd (core : BitVec 8) (dead : Bool) : Statement (.taskEnd core dead) := by intro word hw; simp [encode] at hw
theorem watchdogExpiry (core : BitVec 8) : Statement (.watchdogExpiry core) := by intro word hw; simp [encode] at hw
theorem recvTimeout (core : BitVec 8) : Statement (.recvTimeout core) := by intro word hw; simp [encode] at hw
theorem qpopReplyTimeout (core : BitVec 8) (bank : BitVec 1) (seq : BitVec 48) : Statement (.qpopReplyTimeout core bank seq) := by intro word hw; simp [encode] at hw
theorem relaxAbsentCore (core : BitVec 8) : Statement (.relaxAbsentCore core) := by intro word hw; simp [encode] at hw
theorem touchWindowExpiry (core : BitVec 8) : Statement (.touchWindowExpiry core) := by intro word hw; simp [encode] at hw
theorem descriptorRead (core : BitVec 8) (tid : BitVec 32) : Statement (.descriptorRead core tid) := by intro word hw; simp [encode] at hw
theorem spanEntryFetch (core : BitVec 8) (bank : BitVec 1) (seq : BitVec 48) : Statement (.spanEntryFetch core bank seq) := by intro word hw; simp [encode] at hw
theorem loadReply (core : BitVec 8) (bank : BitVec 1) (seq : BitVec 48) (err : Bool) : Statement (.loadReply core bank seq err) := by intro word hw; simp [encode] at hw
theorem storePerform (core : BitVec 8) (bank : BitVec 1) (seq : BitVec 48) : Statement (.storePerform core bank seq) := by intro word hw; simp [encode] at hw
theorem copySectorWrite (core : BitVec 8) (chan : BitVec 2) (err : Bool) : Statement (.copySectorWrite core chan err) := by intro word hw; simp [encode] at hw
theorem operandFetch (core : BitVec 8) (id : BitVec 64) (err : Bool) : Statement (.operandFetch core id err) := by intro word hw; simp [encode] at hw
theorem mmaComplete (core : BitVec 8) (seq : BitVec 48) : Statement (.mmaComplete core seq) := by intro word hw; simp [encode] at hw
theorem relaxIteration (core : BitVec 8) : Statement (.relaxIteration core) := by intro word hw; simp [encode] at hw
theorem relaxComplete (core : BitVec 8) : Statement (.relaxComplete core) := by intro word hw; simp [encode] at hw
theorem copyaddRow (core : BitVec 8) (read : BitVec 48 × Bool) : Statement (.copyaddRow core read) := by intro word hw; simp [encode] at hw
theorem tldtRow (core : BitVec 8) (read : BitVec 48 × Bool) : Statement (.tldtRow core read) := by intro word hw; simp [encode] at hw
theorem tsttRow (core : BitVec 8) (seq : BitVec 48) : Statement (.tsttRow core seq) := by intro word hw; simp [encode] at hw
theorem recvComplete (core : BitVec 8) (id : BitVec 64) : Statement (.recvComplete core id) := by intro word hw; simp [encode] at hw
theorem queuePushPerform (core : BitVec 8) (bank : BitVec 1) (seq : BitVec 48) : Statement (.queuePushPerform core bank seq) := by intro word hw; simp [encode] at hw
theorem queuePopServe (core : BitVec 8) (bank : BitVec 1) (seq : BitVec 48) : Statement (.queuePopServe core bank seq) := by intro word hw; simp [encode] at hw
theorem barrierRelease (core : BitVec 8) (launch : BitVec 64) (bar : BitVec 4) (gen : BitVec 64) : Statement (.barrierRelease core launch bar gen) := by intro word hw; simp [encode] at hw
theorem waitRelease (core : BitVec 8) : Statement (.waitRelease core) := by intro word hw; simp [encode] at hw
theorem drainRelease (core : BitVec 8) : Statement (.drainRelease core) := by intro word hw; simp [encode] at hw
theorem clkdivApply (core : BitVec 8) (x : BitVec 16) : Statement (.clkdivApply core x) := by intro word hw; simp [encode] at hw
theorem engineCommandStart (stack : BitVec 4) : Statement (.engineCommandStart stack) := by intro word hw; simp [encode] at hw
theorem engineCommandComplete (stack : BitVec 4) (err : Bool) (bad : List (BitVec 40)) : Statement (.engineCommandComplete stack err bad) := by intro word hw; simp [encode] at hw
theorem boundaryPublish (grp : BitVec 4) : Statement (.boundaryPublish grp) := by intro word hw; simp [encode] at hw
theorem strandlineWalkComplete (core : BitVec 8) (bank : BitVec 1) : Statement (.strandlineWalkComplete core bank) := by intro word hw; simp [encode] at hw
theorem governorCycle (core : BitVec 8) : Statement (.governorCycle core) := by intro word hw; simp [encode] at hw
theorem refreshWindowStart (die : BitVec 2) : Statement (.refreshWindowStart die) := by intro word hw; simp [encode] at hw
theorem refreshWindowEnd (die : BitVec 2) : Statement (.refreshWindowEnd die) := by intro word hw; simp [encode] at hw
theorem patrolScrub (res : BitVec 3) (unit : BitVec 8) (addr : BitVec 64) (err : BitVec 2) : Statement (.patrolScrub res unit addr err) := by intro word hw; simp [encode] at hw
theorem bandRise (z0 : BitVec 16) (z1 : BitVec 16) (z2 : BitVec 16) (z3 : BitVec 16) : Statement (.bandRise z0 z1 z2 z3) := by intro word hw; simp [encode] at hw
theorem bandFall (z0 : BitVec 16) (z1 : BitVec 16) (z2 : BitVec 16) (z3 : BitVec 16) : Statement (.bandFall z0 z1 z2 z3) := by intro word hw; simp [encode] at hw
theorem stackTimingSwitch (unit : BitVec 4) : Statement (.stackTimingSwitch unit) := by intro word hw; simp [encode] at hw
theorem valveControlPeriod (z0 : BitVec 16) (z1 : BitVec 16) (z2 : BitVec 16) (z3 : BitVec 16) (v0 : BitVec 8) (v1 : BitVec 8) (v2 : BitVec 8) (v3 : BitVec 8) (l0 : BitVec 12) (l1 : BitVec 12) (l2 : BitVec 12) (l3 : BitVec 12) : Statement (.valveControlPeriod z0 z1 z2 z3 v0 v1 v2 v3 l0 l1 l2 l3) := by intro word hw; simp [encode] at hw
theorem elimRestore (die : BitVec 2) : Statement (.elimRestore die) := by intro word hw; simp [encode] at hw
theorem selfTestComplete (res : BitVec 3) (unit : BitVec 8) (addr : BitVec 64) (owner : BitVec 9) (ok : Bool) (spare : Bool) : Statement (.selfTestComplete res unit addr owner ok spare) := by intro word hw; simp [encode] at hw
theorem trainingComplete (ok : Bool) : Statement (.trainingComplete ok) := by intro word hw; simp [encode] at hw
theorem warmrunTrainingComplete (ok : Bool) : Statement (.warmrunTrainingComplete ok) := by intro word hw; simp [encode] at hw
theorem peerDataFrame (peer : BitVec 5) (port : BitVec 3) (ok : Bool) (seq : BitVec 32) (stime : BitVec 64) (path : BitVec 64) (n : BitVec 6) (data : BitVec 65536) : Statement (.peerDataFrame peer port ok seq stime path n data) := by intro word hw; simp [encode] at hw
theorem peerAcknowledge (peer : BitVec 5) (seq : BitVec 32) (credit : BitVec 32) : Statement (.peerAcknowledge peer seq credit) := by intro word hw; simp [encode] at hw
theorem peerNegativeAcknowledge (peer : BitVec 5) (seq : BitVec 32) : Statement (.peerNegativeAcknowledge peer seq) := by intro word hw; simp [encode] at hw
theorem resendTimeout (peer : BitVec 5) : Statement (.resendTimeout peer) := by intro word hw; simp [encode] at hw
theorem acknowledgeTimer (peer : BitVec 5) : Statement (.acknowledgeTimer peer) := by intro word hw; simp [encode] at hw
theorem skomonFlitReceive (src : BitVec 2) (dst : BitVec 2) (bad : Bool) : Statement (.skomonFlitReceive src dst bad) := by intro word hw; simp [encode] at hw
theorem resultLanding (core : BitVec 8) : Statement (.resultLanding core) := by intro word hw; simp [encode] at hw
theorem mcallComplete (core : BitVec 8) (seq : BitVec 48) : Statement (.mcallComplete core seq) := by intro word hw; simp [encode] at hw
theorem raceCheckAnswer (core : BitVec 8) (mode : BitVec 2) (die : BitVec 2) (block : BitVec 32) : Statement (.raceCheckAnswer core mode die block) := by intro word hw; simp [encode] at hw
theorem parameterBlockRead (core : BitVec 8) (tid : BitVec 32) (c : BitVec 24) : Statement (.parameterBlockRead core tid c) := by intro word hw; simp [encode] at hw
theorem draftTreeRead (core : BitVec 8) (addr : BitVec 64) : Statement (.draftTreeRead core addr) := by intro word hw; simp [encode] at hw
theorem rbqWordAdded (core : BitVec 8) : Statement (.rbqWordAdded core) := by intro word hw; simp [encode] at hw
theorem hbm4Refresh (stack : BitVec 4) (chan : BitVec 6) : Statement (.hbm4Refresh stack chan) := by intro word hw; simp [encode] at hw
theorem ptpMessage (port : BitVec 3) (ns : BitVec 64) (num : BitVec 32) (den : BitVec 32) : Statement (.ptpMessage port ns num den) := by intro word hw; simp [encode] at hw
theorem atsInvalidation (fn : BitVec 5) (pasid : BitVec 21) (iova : BitVec 52) : Statement (.atsInvalidation fn pasid iova) := by intro word hw; simp [encode] at hw
theorem moduleReset : Statement .moduleReset := by intro word hw; simp [encode] at hw
theorem groupPlacement : Statement .groupPlacement := by intro word hw; simp [encode] at hw
theorem timingSwitchComplete : Statement .timingSwitchComplete := by intro word hw; simp [encode] at hw
theorem purgeComplete : Statement .purgeComplete := by intro word hw; simp [encode] at hw
theorem descentComplete : Statement .descentComplete := by intro word hw; simp [encode] at hw
theorem soakComplete : Statement .soakComplete := by intro word hw; simp [encode] at hw
theorem ascentComplete : Statement .ascentComplete := by intro word hw; simp [encode] at hw
theorem sensorsDisagree : Statement .sensorsDisagree := by intro word hw; simp [encode] at hw
theorem valveNotFollowing : Statement .valveNotFollowing := by intro word hw; simp [encode] at hw
theorem lossOfVacuum : Statement .lossOfVacuum := by intro word hw; simp [encode] at hw
theorem rateOfChange : Statement .rateOfChange := by intro word hw; simp [encode] at hw
theorem warmstopTimeout : Statement .warmstopTimeout := by intro word hw; simp [encode] at hw
theorem cool : Statement .cool := by intro word hw; simp [encode] at hw
theorem warmup : Statement .warmup := by intro word hw; simp [encode] at hw
theorem resume : Statement .resume := by intro word hw; simp [encode] at hw
theorem freeze : Statement .freeze := by intro word hw; simp [encode] at hw
theorem thaw : Statement .thaw := by intro word hw; simp [encode] at hw
theorem warmrun : Statement .warmrun := by intro word hw; simp [encode] at hw
theorem warmstop : Statement .warmstop := by intro word hw; simp [encode] at hw
theorem status : Statement .status := by intro word hw; simp [encode] at hw
theorem log : Statement .log := by intro word hw; simp [encode] at hw
theorem attest : Statement .attest := by intro word hw; simp [encode] at hw
theorem pubkey : Statement .pubkey := by intro word hw; simp [encode] at hw
theorem chainReadOut : Statement .chainReadOut := by intro word hw; simp [encode] at hw
theorem ptpHoldover : Statement .ptpHoldover := by intro word hw; simp [encode] at hw
theorem unknownCommand : Statement .unknownCommand := by intro word hw; simp [encode] at hw

end Sys2Proof.Laws.Encoding
end

