-- ==== Sys2Proof/Laws/Units.lean ====
section
/-!
SUPPORT. The shared operations of the units, once each: reading and changing a unit's own record, and the checks by which
an instruction of a family may issue.
-/
namespace Sys2Proof.Machine

/-! ### Records of the units -/

/-- A work queue after one is changed. -/
theorem State.onQueue_queue (s : State) (q k : Nat) (f : WorkQueue → WorkQueue) :
    (s.onQueue q f).queue k = if k = q then f (s.queue q) else s.queue k := by simp [State.onQueue, State.queue, SMap.get_set]

/-- A batch group after one is changed. -/
theorem State.onGroup_group (s : State) (b k : Nat) (f : Group → Group) :
    (s.onGroup b f).group k = if k = b then f (s.group b) else s.group k := by simp [State.onGroup, State.group, SMap.get_set]

/-- A stack engine after one is changed. -/
theorem State.setEngine_engine (s : State) (j k : Nat) (e : Engine) :
    (s.setEngine j e).engine k = if k = j then e else s.engine k := by simp [State.setEngine, State.engine, SMap.get_set]

/-- A peer's link after one is changed. -/
theorem State.onPeer_peer (s : State) (p k : Nat) (f : Peer → Peer) :
    (s.onPeer p f).peer k = if k = p then f (s.peer p) else s.peer k := by simp [State.onPeer, State.peer, SMap.get_set]

/-- A row of the candidate register file after one is changed. -/
theorem State.setCrf_crf (s : State) (j k : Nat) (r : CrfRow) :
    (s.setCrf j r).crf k = if k = j then r else s.crf k := by simp [State.setCrf, State.crf, State.onBank, SMap.get_set]

@[simp] theorem State.onQueue_core (s : State) (q : Nat) (f : WorkQueue → WorkQueue) : (s.onQueue q f).core = s.core := rfl
@[simp] theorem State.onGroup_core (s : State) (b : Nat) (f : Group → Group) : (s.onGroup b f).core = s.core := rfl
@[simp] theorem State.setEngine_core (s : State) (k : Nat) (e : Engine) : (s.setEngine k e).core = s.core := rfl
@[simp] theorem State.onPeer_core (s : State) (p : Nat) (f : Peer → Peer) : (s.onPeer p f).core = s.core := rfl
@[simp] theorem State.onLaunch_core (s : State) (n : Nat) (f : Launch → Launch) : (s.onLaunch n f).core = s.core := rfl
@[simp] theorem State.onQueue_hbm (s : State) (q : Nat) (f : WorkQueue → WorkQueue) : (s.onQueue q f).hbm = s.hbm := rfl
@[simp] theorem State.onGroup_hbm (s : State) (b : Nat) (f : Group → Group) : (s.onGroup b f).hbm = s.hbm := rfl
@[simp] theorem State.setEngine_hbm (s : State) (k : Nat) (e : Engine) : (s.setEngine k e).hbm = s.hbm := rfl
@[simp] theorem State.onPeer_hbm (s : State) (p : Nat) (f : Peer → Peer) : (s.onPeer p f).hbm = s.hbm := rfl
@[simp] theorem State.onLaunch_hbm (s : State) (n : Nat) (f : Launch → Launch) : (s.onLaunch n f).hbm = s.hbm := rfl

/-- A launch found has the number it is found by, and has arrived. -/
theorem State.launch?_some {s : State} {n : Nat} {l : Launch} (h : s.launch? n = some l) : l.id = n ∧ l ∈ s.launches :=
  ⟨by simpa using List.find?_some h, List.mem_of_find?_eq_some h⟩

/-- The launches after one is changed. -/
theorem State.onLaunch_mem (s : State) (n : Nat) (f : Launch → Launch) (m : Launch) :
    m ∈ (s.onLaunch n f).launches ↔ ∃ l ∈ s.launches, m = if l.id = n then f l else l := by
  simp only [State.onLaunch, List.mem_map, eq_comm]

/-! ### Checks before an issue -/

/-- An engine is free, or SCHEDULE_FAULT says for how long it is not (06 R138). -/
theorem State.xFree_cases (s : State) :
    (s.core.xBusy ≤ s.core.cpy.cycles ∧ s.xFree = .ok ()) ∨
    (s.core.cpy.cycles < s.core.xBusy ∧ s.xFree = .error (.trap (scheduleFault 1 (s.core.xBusy - s.core.cpy.cycles)))) := by
  by_cases h : s.core.xBusy ≤ s.core.cpy.cycles
  · exact .inl ⟨h, by simp [State.xFree, h]⟩
  · exact .inr ⟨by omega, by simp [State.xFree, h]⟩

/-- The M slot is free, waits for a relaxation, or SCHEDULE_FAULT says for how long the array is not free. -/
theorem State.mFree_cases (s : State) :
    (s.core.relax = none ∧ s.core.mBusy ≤ s.core.mat.cycles ∧ s.mFree = .ok ()) ∨
    (s.core.relax.isSome = true ∧ s.mFree = .error (.hold 7 true none)) ∨
    (s.core.relax = none ∧ s.core.mat.cycles < s.core.mBusy ∧ s.mFree = .error (.trap (scheduleFault 0 (s.core.mBusy - s.core.mat.cycles)))) := by
  cases hr : s.core.relax with
  | some r => exact .inr (.inl ⟨rfl, by simp [State.mFree, hr]⟩)
  | none =>
    by_cases h : s.core.mBusy ≤ s.core.mat.cycles
    · exact .inl ⟨rfl, h, by simp [State.mFree, hr, h]⟩
    · exact .inr (.inr ⟨rfl, by omega, by simp [State.mFree, hr, h]⟩)

/-- A V slot is free, or waits for a relaxation that reads v registers (07 R164). -/
theorem State.vFree_cases (s : State) :
    ((∀ r, s.core.relax = some r → r.ahd = 0) ∧ s.vFree = .ok ()) ∨
    ((∃ r, s.core.relax = some r ∧ 0 < r.ahd) ∧ s.vFree = .error (.hold 8 true none)) := by
  cases hr : s.core.relax with
  | none => exact .inl ⟨fun r h => (by cases h), by simp [State.vFree, hr]⟩
  | some r =>
    by_cases h : 0 < r.ahd
    · exact .inr ⟨⟨r, rfl, h⟩, by simp [State.vFree, hr, h]⟩
    · refine .inl ⟨fun q hq => ?_, by simp [State.vFree, hr, h]⟩
      cases hq; omega

/-- The strandline's ring is free, or its walk holds the bundle (12 R240). -/
theorem State.slFree_cases (s : State) :
    (bitAt s.core.bank.sys.slctl.toNat 2 = false ∧ s.slFree = .ok ()) ∨
    (bitAt s.core.bank.sys.slctl.toNat 2 = true ∧ s.slFree = .error (.hold 23 false none)) := by
  cases h : bitAt s.core.bank.sys.slctl.toNat 2
  · exact .inl ⟨rfl, by simp [State.slFree, h]⟩
  · exact .inr ⟨rfl, by simp [State.slFree, h]⟩

theorem backpressure_cases (q : Nat) (full : Bool) :
    (full = false ∧ backpressure q full = .ok ()) ∨ (full = true ∧ backpressure q full = .error (.hold (3 + 256 * q) false none)) := by
  cases full
  · exact .inl ⟨rfl, rfl⟩
  · exact .inr ⟨rfl, rfl⟩

/-- The batch group of the task, or REQUEST_FAULT 1 (17 R282). -/
theorem State.needGroup_cases (s : State) :
    (∃ b, s.bgrp = some b ∧ s.rqEn = true ∧ s.needGroup = .ok b) ∨
    ((s.bgrp = none ∨ s.rqEn = false) ∧ s.needGroup = .error (.trap (requestFault 1))) := by
  cases hb : s.bgrp with
  | none => exact .inr ⟨.inl rfl, by simp [State.needGroup, hb]⟩
  | some b =>
    cases he : s.rqEn
    · exact .inr ⟨.inr rfl, by simp [State.needGroup, hb, he]⟩
    · exact .inl ⟨b, rfl, rfl, by simp [State.needGroup, hb, he]⟩

/-- What a tensor id gives: its descriptor, PROTECTION, LINK_TIMEOUT, or a hold while the descriptor is read (04 R74, R77,
R80, R98). -/
theorem State.desc_cases (s : State) (tid : Nat) :
    (∃ d, s.desc tid = .ok d) ∨ s.desc tid = .error (.trap (protection tid 1)) ∨ s.desc tid = .error (.trap (protection tid 2)) ∨
    (∃ k, s.desc tid = .error (.trap (linkDown k))) ∨
    s.desc tid = .error (.hold 13 false (some (.descriptorRead (BitVec.ofNat 8 s.core.id) (BitVec.ofNat 32 tid)))) := by
  unfold State.desc
  split
  · split
    · exact .inl ⟨_, rfl⟩
    · exact .inr (.inl rfl)
  · split
    · exact .inr (.inl rfl)
    · split
      · exact .inl ⟨_, rfl⟩
      · split
        · exact .inr (.inr (.inl rfl))
        · unfold State.reaches
          split
          · exact .inr (.inr (.inr (.inl ⟨_, rfl⟩)))
          · exact .inr (.inr (.inr (.inr rfl)))

/-- A descriptor the bank has read is the one an id gives. -/
theorem State.desc_cached {s : State} {tid : Nat} {d : Desc} (h1 : tid < 0xFFFE0000) (h2 : tid < s.core.bank.sys.tableLen)
    (h3 : s.core.bank.descOf tid = some d) : s.desc tid = .ok d := by
  unfold State.desc
  rw [if_neg (by omega), if_neg (by omega), h3]

end Sys2Proof.Machine
end

