-- ==== Sys2Proof/Tests/Slice0.lean ====
section
/-!
SUPPORT. Tests of the model: for every statement of Sys2Proof/Certificates/Slice0/Obligations.lean that has hypotheses,
theorems `test_hyp_<statement>` show concrete states and operands that meet them; decoding of words written out from the
encodings of 06 R127 and R128; a term that breaks each operand limit; single steps worked out by hand.
-/
set_option Elab.async false
namespace Sys2Proof.Tests
open Sys2Proof Sys2Proof.Machine

/-! ### Small machines -/

/-- Tensors of the test machines: 1 FP32 in the scratchpad, 2 FP32 in HBM, 3 FP64 in the scratchpad, 4 bytes in the
scratchpad, 5 bytes in HBM. -/
def tD1 : Desc := { tag := 1, loc := 2, ext0 := 64, at' := true }
def tD2 : Desc := { tag := 1, ext0 := 64, at' := true, nspan := 1, base := 0x9000 }
def tD3 : Desc := { tag := 10, loc := 2, ext0 := 8 }
def tD4 : Desc := { loc := 2, ext0 := 65536 }
def tD5 : Desc := { ext0 := 65536, nspan := 1, base := 0x9000 }
def tDescs : SMap Desc := [(1, tD1), (2, tD2), (3, tD3), (4, tD4), (5, tD5)]

/-- A task's bank: a0-a4 name tensors 1-5, whose descriptors and span entries it has read. -/
def tBank : Bank :=
  { use := .task, sys := { tvec := 0x1000, ttbase := BitVec.ofNat 64 (64 * 2 ^ 44) }, descs := tDescs
    spans := [{ tid := 2, idx := 0, start := 0, raw := 1 }, { tid := 5, idx := 0, start := 0, raw := 1 }]
    a := [(0, 1), (1, 2), (2, 3), (3, 4), (4, 5)], g := [(2, 100), (3, 7)] }

/-- A machine whose core 0 runs a task with an image of 64 KiB at HBM address 0. -/
def tRun (b : Bank) : State :=
  { core := { running := true, task := some { imlen := 65536 }, bank := b }
    cryo := { state := 5, released := true, band := 0, rband := 0, floor := 1 } }

/-- The same, its bank as supervisor code and the task's bank beside it. -/
def tSup (b o : Bank) : State := { tRun { b with use := .supervisor } with
  core := { (tRun b).core with bank := { b with use := .supervisor }, other := { o with id := 1 } } }

/-- A check that finds nothing. -/
def tOk {α : Type} : Chk α → Bool
  | .ok _ => true
  | _ => false

/-- What a check answers. -/
def tGot {α : Type} (d : α) : Chk α → α
  | .ok x => x
  | _ => d

theorem tEq {α : Type} {d : α} {x : Chk α} (h : tOk x = true) : x = .ok (tGot d x) := by
  cases x with
  | ok y => rfl
  | error e => cases h

/-- A check that meets no freeze. -/
def tFree {α : Type} : Chk α → Bool
  | .error (.hold _ _ _) => false
  | _ => true

theorem tNoHold {α : Type} {r : Chk α} (h : tFree r = true) : NoHold r := by
  rintro k a q rfl
  cases h

theorem tUnit {x : Chk Unit} (h : tOk x = true) : x = .ok () := tEq (d := ()) h

theorem tIs {α : Type} [DecidableEq α] {d : α} {x : Chk α} (h : (tOk x && decide (tGot d x = d)) = true) : x = .ok d := by
  cases x with
  | ok y => exact congrArg _ (of_decide_eq_true h)
  | error e => cases h

/-- A pushed access of tensor 2's first element at HBM address 16384. -/
def tAcc (k : AccKind) : Access :=
  { seq := 9, kind := k, areg := 2, tid := 2, desc := { tag := 1, ext0 := 64, at' := true, nspan := 1, base := 0x9000 }
    elems := [{ idx := 0, off := 0, loc := some ⟨.hbm, 16384⟩ }] }

/-- Rows of tile 5 that move between tensor 1 and the tile. -/
def tRow (k : RowKind) : RowOp :=
  { kind := k, bank := 0, bundle := 0, slot := 3, seq := 7, tile := 5, next := 0, row := 62, areg := 1
    src := { tid := 1, desc := tD1, off := some 0 } }

/-- A transfer of 512 bytes from tensor 5 to tensor 4. -/
def tCopy (written : Nat) : Transfer :=
  { id := 3, kind := .program, bank := 0, bundle := 0, issue := 0, src := { tid := 5, desc := tD5, off := some 0 }
    dst := { tid := 4, desc := tD4, off := some 0 }, len := 512, written := written }

/-- A machine whose copy channel 0 works on it. -/
def tChan (b : Bank) (written : Nat) : State :=
  { tRun b with core := { (tRun b).core with chans := [(0, { queue := [tCopy written] })] } }

/-! ### What the statements assume is met: address registers, control, traps -/

theorem test_hyp_AddressRegisters :
    let s := tRun { tBank with descs := [(1, { ext0 := 4, ext1 := 3, ndim := 1 }), (2, { ext0 := 4, ext1 := 2 ^ 24, ndim := 1 }), (3, { ext0 := 4 })]
                               a := [(0, 1), (1, 2), (2, 1 + 4 * 2 ^ 32)], g := [(1, 5), (2, 12), (3, 0xFFFFFFFFFFFFFFFF)] }
    (4 : BitVec 3).toNat ≤ 4 ∧ s.desc (aTid (s.a 0)) = .ok { ext0 := 4, ext1 := 3, ndim := 1 } ∧
    s.desc (aTid (s.a 1)) = .ok { ext0 := 4, ext1 := 2 ^ 24, ndim := 1 } ∧
    (∀ k < 4, ({ ext0 := 4, ext1 := 2 ^ 24, ndim := 1 } : Desc).ext k ≤ 2 ^ 24) ∧
    ({ ext0 := 4, ext1 := 3, ndim := 1 } : Desc).ndim < (2 : BitVec 2).toNat ∧
    ({ ext0 := 4, ext1 := 3, ndim := 1 } : Desc).ext 0 ≤ aCoord (s.a 2) 0 ∧
    aCoord (s.a 0) 0 < ({ ext0 := 4, ext1 := 3, ndim := 1 } : Desc).ext 0 ∧
    Int.ofNat (linearIndex { ext0 := 4, ext1 := 3, ndim := 1 } (aCoord (s.a 0)) 0 2) + (s.g 1).toInt <
      ({ ext0 := 4, ext1 := 3, ndim := 1 } : Desc).prod 0 2 ∧
    (({ ext0 := 4, ext1 := 3, ndim := 1 } : Desc).prod 0 2 : Int) ≤
      Int.ofNat (linearIndex { ext0 := 4, ext1 := 3, ndim := 1 } (aCoord (s.a 0)) 0 2) + (s.g 2).toInt ∧
    Int.ofNat (linearIndex { ext0 := 4, ext1 := 2 ^ 24, ndim := 1 } (aCoord (s.a 1)) 0 2) + (s.g 3).toInt < 0 :=
  ⟨by decide, rfl, rfl, by decide, by decide, by decide, by decide, by decide, by decide, by decide⟩

theorem test_hyp_BranchesAndCalls :
    let s := tRun { tBank with g := [(1, 0xFFFFFFFFFC), (2, 0x10000000000), (3, 2)] }
    (s.g 1).toNat % 4 = 0 ∧ (s.g 1).toNat < 2 ^ 40 ∧ 2 ^ 40 ≤ (s.g 2).toNat ∧ (s.g 3).toNat % 4 ≠ 0 := by decide

theorem test_hyp_HardwareLoops :
    let s := { tRun { tBank with g := [(1, 65536), (2, 65535)], pc := 64 } with
      core := { (tRun { tBank with g := [(1, 65536), (2, 65535)], pc := 64 }).core with cur := { follow := 80 } } }
    let lc : SMap Loop := [(1, { count := 3, start := 32, stop := 64 }), (3, { count := 1, start := 16, stop := 64 })]
    65535 < (s.g 1).toNat ∧ s.core.bank.pc + 4 * (3 : BitVec 8).toNat < s.core.cur.follow ∧ (s.g 2).toNat ≤ 65535 ∧ 0 < (s.g 2).toNat ∧
    s.core.cur.follow ≤ s.core.bank.pc + 4 * (4 : BitVec 8).toNat ∧ (s.g 0).toNat = 0 ∧
    (0 < (SMap.get {} lc 1).count ∧ (SMap.get {} lc 1).stop = 64 ∧ 1 < (SMap.get {} lc 1).count ∧
      ∀ j < 4, 1 < j → (0 < (SMap.get {} lc j).count ∧ (SMap.get {} lc j).stop = 64) → (SMap.get {} lc j).count = 1) ∧
    (∀ k < 4, (0 < (SMap.get {} lc k).count ∧ (SMap.get {} lc k).stop = 65) → (SMap.get {} lc k).count = 1) := by decide

theorem test_hyp_TrapEntry :
    let s := tRun tBank
    let n := tSup tBank { tBank with use := .task }
    Alone s ∧ s.core.id < 256 ∧ s.core.bank.use = .task ∧ s.core.bank.sys.tvec ≠ 0 ∧ s.core.other.id < 2 ∧
    s.core.other.use ≠ .supervisor ∧ Alone n ∧ n.core.bank.use = .supervisor ∧ n.core.bank.sys.tvec ≠ 0 := by
  refine ⟨rfl, by decide, by decide, by decide, by decide, by decide, rfl, by decide, by decide⟩

theorem test_hyp_TrapEntry_standing :
    let s := { tRun tBank with core := { (tRun tBank).core with other := { tBank with id := 1, use := .supervisor } } }
    Alone s ∧ s.core.bank.use = .task ∧ s.core.other.use = .supervisor ∧ s.core.other.id < 2 := ⟨rfl, rfl, rfl, by decide⟩

theorem test_hyp_GroupTraps :
    let t : Task := { launch := 1, size := 4, imlen := 65536 }
    let c (n : Nat) : Core := { id := n, running := true, task := some t, bank := tBank }
    let s : State := { core := c 0, others := [c 1, c 2, c 3] }
    let z := tRun { tBank with sys := { tBank.sys with tvec := 0 } }
    (s.cores.map Core.id).Nodup ∧ (∀ d ∈ s.members s.core, d.bank.sys.tvec ≠ 0) ∧ c 1 ∈ s.members s.core ∧
    (c 1).id ≠ s.core.id ∧ Alone z ∧ z.core.bank.sys.tvec = 0 := by
  refine ⟨by decide, by decide, by decide, by decide, rfl, by decide⟩

theorem test_hyp_SoftwareTraps : Alone (tRun tBank) ∧ (tRun tBank).core.returned = false ∧ (tRun tBank).core.bank.use = .task ∧
    (tRun tBank).core.bank.sys.tvec ≠ 0 := ⟨rfl, rfl, rfl, by decide⟩

theorem test_hyp_TrapReturn :
    let r (d : Bool) : RingEntry := { idx := 0, seq := 1, store := false, done := d }
    let a := tSup tBank { tBank with use := .empty }
    let b := tSup tBank { tBank with ring := [r false] }
    let c := tSup tBank { tBank with ring := [r true] }
    let e := tSup { tBank with sys := { tBank.sys with tpc := 0x8000000000000000 } } tBank
    (tRun tBank).core.bank.use ≠ .supervisor ∧ (a.core.bank.use = .supervisor ∧ a.core.other.use ≠ .task) ∧
    (b.core.bank.use = .supervisor ∧ b.core.other.use = .task ∧ ∃ e ∈ b.core.other.ring, e.done = false) ∧
    (c.core.other.use = .task ∧ (∀ e ∈ c.core.other.ring, e.done = true) ∧ c.core.bank.sys.tpc.getLsbD 63 = false ∧ Alone c ∧
      c.core.other.id < 2) ∧
    e.core.bank.sys.tpc.getLsbD 63 = true ∧ Alone e := by
  refine ⟨by decide, by decide, by decide, ⟨by decide, by decide, by decide, rfl, by decide⟩, by decide, rfl⟩

/-- A result of the control domain with a write of its own, due at once. -/
def tRes (w : RegWrite) (q : Nat) : Result := { write := w, dom := .ctl, due := 0, bundle := 16, rank := 0, seq := q }

/-- Results of every kind of register, one each, and no other result of that register. -/
def tAll : List Result :=
  [tRes (.g 63 1) 1, tRes (.p 15 true) 2, tRes (.vm 0 3) 3, tRes (.a 15 4) 4, tRes (.m 7 5) 5, tRes (.lc 3 {}) 6, tRes (.v 31 [] 5 1) 7]

theorem test_hyp_ResultsLand :
    let s := tRun { tBank with inflight := tAll }
    (∀ y ∈ tAll, LandsLast s.core y) ∧ LandsNot s.core (.g 5) ∧ LandsNot s.core (.p 5) ∧ LandsNot s.core (.vm 5) ∧
    LandsNot s.core (.a 5) ∧ LandsNot s.core (.m 5) ∧ LandsNot s.core (.lc 1) ∧ LandsNot s.core (.v 5) := by
  simp [LandsLast, LandsNot, DueNow, Excepts, tAll, tRes, tRun, writeName, Result.excepts, Core.clock]

theorem test_hyp_ResultsLand_excepts :
    let x : Result := { write := .v 7 [] 1 1, dom := .vec, due := 0, bundle := 32, rank := 3, seq := 9, flags := 1, enables := 1 }
    let z : Result := { x with rank := 4, snan := true, write := .v 8 [] 1 1 }
    let c := ((tRun { tBank with inflight := z :: x :: tAll }).focus 0).core
    let raising (y : Result) : Prop := y ∈ c.bank.inflight ∧ DueNow c y ∧ Excepts y
    raising x ∧ raising z ∧ (∀ y, raising y → y ≠ x → slotCode x.rank < slotCode y.rank) ∧ ∀ q ∈ c.bank.pending, q.fp ≠ some (tRun tBank).now := by
  simp [DueNow, Excepts, tAll, tRes, tRun, tBank, Result.excepts, Core.clock, State.focus, slotCode]

theorem test_hyp_SlotsWriteRegistersByResults :
    let s := tRun tBank
    let t := { s with core := { s.core with bank := { s.core.bank with inflight := [s.result (.g 1 107) .ctl 1] } } }
    (encode (.add 1 2 3)).isSome ∧ exec (.add 1 2 3) s = .next t ∧ t.raised = none ∧ t.holding = none := ⟨rfl, rfl, rfl, rfl⟩

/-! ### What the statements assume is met: accesses -/

theorem tOwn {s : State} {p : Placed} (h : p.known = true)
    (g : p.elts.all (fun e => e.loc.all fun l => l.isOwn s.core.id) = true) : OwnPlaces s p :=
  ⟨h, fun e he l hl => by simpa [hl] using List.all_eq_true.1 g e he⟩

theorem tFar {s : State} {p : Placed} (g : p.elts.any (fun e => e.loc.any fun l => !l.isOwn s.core.id) = true) : ¬ OwnPlaces s p := by
  rintro ⟨-, h⟩
  obtain ⟨e, he, hl⟩ := List.any_eq_true.1 g
  cases hk : e.loc with
  | none => simp [hk] at hl
  | some l => have := h e he l hk; simp [hk, this] at hl

theorem tStep {s : State} {d : Desc} {a : AReg} {st : BitVec 6} (h : tOk (stepCoord d (s.a a) 0 st.toInt) = true) : StepOk s d a st :=
  fun _ => ⟨_, tEq (d := 0) h⟩

theorem tNone {b : Bank} (h : b.laq = []) : RepliesOutstanding b := by simp [RepliesOutstanding, h]

/-- The checks of a store as one test. -/
def tStorable (s : State) (a : BitVec 128) (d : Desc) (cs : List (Nat × Int)) (p : Placed) : Bool :=
  let es := eltsOf d a cs fun _ => true
  let q := tGot {} (s.placeAll true (aTid a) d es)
  [decide (s.core.bank.stores < 31), decide (s.core.bank.storeEntries.length < 32), tOk (s.tilesFree true (accTiles d es)),
    tOk (s.permit (aTid a) d .write), tOk (s.placeAll false (aTid a) d es), decide (tGot {} (s.placeAll false (aTid a) d es) = p),
    tOk (s.placeAll true (aTid a) d es), tOk (s.partsThere (locParts s.core.id (eltBytes d.tag) (q.elts.flatMap Elt.places))),
    !s.core.crosses (q.elts.flatMap fun e => e.pieces d.tag), s.core.cur.stored.isEmpty,
    tOk (s.raceCheck (aTid a) d .write (q.elts.flatMap Elt.places))].all id

theorem tStores {s : State} {a : BitVec 128} {d : Desc} {cs : List (Nat × Int)} {p : Placed} (h : tStorable s a d cs p = true) :
    StorePasses s a d cs p := by
  simp only [tStorable, List.all_cons, List.all_nil, id, Bool.and_eq_true, decide_eq_true_eq, Bool.not_eq_true', List.isEmpty_iff] at h
  obtain ⟨room, entries, tiles, may, placed, same, walked, parts, whole, apart, race, -⟩ := h
  exact ⟨⟨room, entries⟩, tUnit tiles, fun _ => tUnit may, (tEq placed).trans (congrArg _ same), _, tEq walked, tUnit parts,
    ⟨whole, by simp [StoresApart, apart]⟩, tUnit race⟩

/-- Where the elements of an access lie. -/
def tPlaced (s : State) (a : AReg) (d : Desc) (cs : List (Nat × Int)) (m : Word) : Placed :=
  tGot {} (s.placeAll false (aTid (s.a a)) d (eltsOf d (s.a a) cs (selected m d.tag)))

theorem test_hyp_AccessesPush_own :
    let s := tRun tBank
    let cs := (List.range (2 * 4 / esize2 1)).map fun e => (e, Int.ofNat (aCoord (s.a 0) 0 + e))
    let p := tPlaced s 0 tD1 cs (s.vm 0)
    s.desc (aTid (s.a 0)) = .ok tD1 ∧ 2 * 4 % esize2 tD1.tag = 0 ∧ LoadPasses s (s.a 0) tD1 cs (s.vm 0) p ∧
    StepOk s tD1 0 63 ∧ RepliesOutstanding s.core.bank ∧ OwnPlaces s p ∧ StorePasses s (s.a 0) tD1 cs p ∧ s.tag 0 = 0 :=
  ⟨rfl, by decide, ⟨by decide, rfl, fun _ => rfl, tEq (by decide +kernel), tUnit (by decide +kernel), _, rfl, tUnit (by decide +kernel)⟩, tStep (by decide +kernel), tNone rfl,
    tOwn (by decide +kernel) (by decide +kernel), tStores (by decide +kernel), by decide⟩

theorem test_hyp_AccessesPush_far :
    let s := tRun tBank
    let cs := (List.range (2 * 64 / esize2 1)).map fun e => (e, Int.ofNat (aCoord (s.a 1) 0 + e))
    let p := tPlaced s 1 tD2 cs (s.vm 0)
    s.desc (aTid (s.a 1)) = .ok tD2 ∧ 2 * 64 % esize2 tD2.tag = 0 ∧ LoadPasses s (s.a 1) tD2 cs (s.vm 0) p ∧
    StepOk s tD2 1 1 ∧ ¬ OwnPlaces s p ∧ StorePasses s (s.a 1) tD2 cs p :=
  ⟨rfl, by decide, ⟨by decide, rfl, fun _ => rfl, tEq (by decide +kernel), tUnit (by decide +kernel), _, rfl, tUnit (by decide +kernel)⟩, tStep (by decide +kernel), tFar (by decide +kernel), tStores (by decide +kernel)⟩

theorem test_hyp_AccessesPush_lanes :
    let s := tRun { tBank with v := [(2, [(0, 1), (1, 1), (63, 0xFFFFFFFF)])], vtag := [(2, 8), (5, 2)] }
    let cs := (List.range 64).map fun e => (e, Int.ofNat (aCoord (s.a 0) 0) + ((s.v 2).at e).toInt)
    let p := tPlaced s 0 tD1 cs (s.vm 0)
    s.desc (aTid (s.a 0)) = .ok tD1 ∧ tD1.tag ≠ 10 ∧ s.tag 2 = 8 ∧ LoadPasses s (s.a 0) tD1 cs (s.vm 0) p ∧
    StorePasses s (s.a 0) tD1 cs p ∧ OwnPlaces s p ∧ s.tag 5 ≠ 0 ∧ s.tag 5 ≠ 8 :=
  ⟨rfl, by decide, by decide, ⟨by decide, rfl, fun _ => rfl, tEq (by decide +kernel), tUnit (by decide +kernel), _, rfl, tUnit (by decide +kernel)⟩,
    tStores (by decide +kernel), tOwn (by decide +kernel) (by decide +kernel), by decide, by decide⟩

theorem test_hyp_AccessesPush_scatter :
    let s := tRun { tBank with v := [(2, [(0, 1), (1, 1), (63, 0xFFFFFFFF)])], vtag := [(2, 8)] }
    let cs := (List.range 64).map fun e => (e, Int.ofNat (aCoord (s.a 1) 0) + ((s.v 2).at e).toInt)
    let p := tPlaced s 1 tD2 cs (s.vm 0)
    s.desc (aTid (s.a 1)) = .ok tD2 ∧ StorePasses s (s.a 1) tD2 cs p ∧ ¬ OwnPlaces s p :=
  ⟨rfl, tStores (by decide +kernel), tFar (by decide +kernel)⟩

theorem test_hyp_AccessesPush_widths : let s := tRun { tBank with v := [(5, [(0, 1)])], vtag := [(5, 1)] }
    let cs := (List.range (2 * 4 / esize2 tD3.tag)).map fun e => (e, Int.ofNat (aCoord (s.a 2) 0 + e))
    let gs := (List.range 64).map fun e => (e, Int.ofNat (aCoord (s.a 0) 0) + ((s.v 5).at e).toInt)
    (s.desc (aTid (s.a 2)) = .ok tD3 ∧ 2 * 4 % esize2 tD3.tag ≠ 0 ∧ s.core.bank.loads < 63 ∧ StoreRoom s ∧
      NoHold (s.loadElts .load (s.a 2) tD3 cs (s.vm 0)) ∧ NoHold (s.storeElts' .store (s.a 2) tD3 cs (s.v 5))) ∧
    s.tag 5 ≠ 0 ∧ s.tag 5 ≠ 8 ∧ NoHold (s.loadElts .gather (s.a 0) tD1 gs (s.vm 0)) :=
  ⟨⟨rfl, by decide, by decide, ⟨by decide, by decide⟩, tNoHold (by decide +kernel), tNoHold (by decide +kernel)⟩, by decide, by decide,
    tNoHold (by decide +kernel)⟩

/-- A queue of two entries in HBM under tensor 6, and a machine with it in which access 9 is this one. -/
def tD6 : Desc := { ext0 := 576, nspan := 1, base := 0x9000 }
def tQueue (k : AccKind) : State :=
  let x : Access := { seq := 9, kind := k, areg := 6, tid := 6, desc := tD6, issue := 0
                      elems := [{ idx := 0, off := 0, loc := some ⟨.hbm, 0⟩ }, { idx := 0, off := 575, loc := some ⟨.hbm, 575⟩ }] }
  { tRun { tBank with descs := tDescs ++ [(6, tD6)], spans := [{ tid := 6, idx := 0, start := 0, raw := 1 }], g := [(1, 6)]
                      stq := if k = .qpush then [x] else [], laq := if k = .qpop then [x] else [] } with
    hbm := [(0, 3), (8, 2), (0x9000, 1)] }

theorem test_hyp_AccessesPush_queues :
    let s := tQueue .load
    let p (pop : Bool) (off : Nat) : Prop := ∃ q u, QueuePasses s 1 tD6 pop off q u
    s.core.bank.stores < 31 ∧ s.core.bank.loads < 63 ∧ p false 16 ∧ p true 20 :=
  ⟨by decide, by decide,
    ⟨tGot {} ((tQueue .load).placeAll false 6 tD6 (queueElts tD6)), tQueue .load,
      rfl, by decide, rfl, by decide, tUnit (by decide +kernel), nofun, rfl, tEq (by decide +kernel)⟩,
    tGot {} ((tQueue .load).placeAll false 6 tD6 (queueElts tD6)), tQueue .load,
    rfl, by decide, rfl, by decide, tUnit (by decide +kernel), fun _ => tUnit (by decide +kernel), rfl, tEq (by decide +kernel)⟩

theorem test_hyp_AccessesPush_rows :
    let s := tRun { tBank with ttag := [(5, 1)] }
    s.desc (aTid (s.a 0)) = .ok tD1 ∧ s.tilesFree true [5] = .ok () ∧ s.tilesFree false [5] = .ok () ∧ s.core.bank.loads < 63 ∧
    s.core.bank.stores < 31 ∧ tD1.tag = 1 ∧ tD1.tag = s.core.bank.tagT 5 ∧
    s.core.collides (5 % 8) (s.core.mat.cycles + 63) = false ∧ s.rowRegion (s.a 0) tD1 64 .read = .ok [] ∧
    s.rowRegion (s.a 0) tD1 64 .write = .ok [] ∧
    StoresApart s (s.regionPieces [] (aTid (s.a 0)) tD1 (regionElts tD1 (s.a 0) 64 64)) :=
  ⟨rfl, tUnit (by decide +kernel), tUnit (by decide +kernel), by decide, by decide, by decide, by decide, by decide +kernel,
    tIs (by decide +kernel), tIs (by decide +kernel), by simp [StoresApart, tRun]⟩

theorem test_hyp_StoresPerform :
    let b := { tBank with stq := [tAcc .store], stores := 1 }
    let s := tRun b
    let h := tRun { b with stq := [{ tAcc .store with held := true }] }
    let w := tRun { b with stq := [{ tAcc .store with seq := 8, issue := 0 }, tAcc .store] }
    let c := (s.coreOf 0).bankOf 0
    (∃ x, c.stq.find? (fun x => x.seq = 9) = some x ∧ x.held = false ∧ x.known = true ∧ (s.coreOf 0).blocked 0 x = false ∧
      s.shutOut 0 x = false) ∧ (∀ x ∈ c.stq, x.seq ≠ 8) ∧
    (∃ x, ((h.coreOf 0).bankOf 0).stq.find? (fun x => x.seq = 9) = some x ∧ x.held = true) ∧
    ∃ x, ((w.coreOf 0).bankOf 0).stq.find? (fun x => x.seq = 9) = some x ∧ x.held = false ∧ x.known = true ∧ (w.coreOf 0).blocked 0 x = true :=
  ⟨⟨_, rfl, by decide, by decide, rfl, rfl⟩, by decide, ⟨_, rfl, rfl⟩, ⟨_, rfl, by decide, by decide, rfl⟩⟩

theorem test_hyp_StoresPerform_queue :
    let s := tQueue .qpush
    let u := s.focus 0
    ∃ x, (u.core.bankOf 0).stq.find? (fun x => x.seq = 9) = some x ∧ x.held = false ∧ x.known = true ∧ QueueAt u x 0 2 3 2 ∧
      u.core.storesBefore 2 x.issue = false ∧ (3 + 2 ^ 64 - 2) % 2 ^ 64 < 2 ∧
      ¬ PortBusy s { addr := 0, push := true, core := 0, bank := 0, seq := x.seq } :=
  ⟨_, rfl, by decide, by decide, ⟨by decide +kernel, ⟨1, by decide, rfl⟩, by decide +kernel⟩, by decide, by decide,
    by simp [PortBusy, tQueue, tRun]⟩

theorem test_hyp_StoresPerform_row :
    let s := tRun { tBank with ttag := [(5, 1)] }
    let u : State := { s with core := { s.core with rowOps := [{ tRow .store with row := 5 }] } }
    ∃ r, (u.focus 0).core.rowOf 7 = some r ∧ (u.focus 0).core.rowDue r = true ∧ (u.focus 0).core.rowFull r = false :=
  ⟨{ tRow .store with row := 5 }, by decide +kernel⟩

/-- A machine whose LDQ and LAQ are these. -/
def tQ (q : List LdqEntry) (a : List Access) : State := tRun { tBank with ldq := q, laq := a }

theorem test_hyp_LoadReplies :
    let s := tRun { tBank with laq := [tAcc .load, { tAcc .atomAdd with seq := 10, elems := [{ idx := 0, off := 0, loc := some ⟨.hbm, 16448⟩ }] }], loads := 2 }
    let find (n : Nat) := ((s.coreOf 0).bankOf 0).laq.find? fun x => x.seq = n
    (∃ x, find 9 = some x ∧ x.reply = none ∧ x.held = false ∧ x.known = true ∧ (s.coreOf 0).blocked 0 x = false ∧ s.shutOut 0 x = false ∧
      (∀ g, x.desc.kind ≠ .cache g) ∧ x.kind.isAtomic = false) ∧
    (∃ x e r, find 10 = some x ∧ x.kind.isAtomic = true ∧ x.elems = e :: r ∧ x.desc.tag = 1 ∧ x.reply = none ∧ x.held = false ∧
      x.known = true ∧ (s.coreOf 0).blocked 0 x = false ∧ s.shutOut 0 x = false ∧ ∀ l g, e.loc = some l → l.space ≠ .map g) :=
  ⟨⟨_, rfl, by decide, by decide, by decide, rfl, rfl, nofun, by decide⟩,
    ⟨_, _, _, rfl, by decide, rfl, by decide, by decide, by decide, by decide, rfl, rfl, by rintro _ _ ⟨⟩; nofun⟩⟩

theorem test_hyp_LoadReplies_ready :
    let s := tRun { tBank with laq := [{ tAcc .load with reply := some [(0, 5)], ready := false }], loads := 1 }
    ∃ x, ((s.coreOf 0).bankOf 0).laq.find? (fun x => x.seq = 9) = some x ∧ x.reply = some [(0, 5)] ∧ x.ready = false :=
  ⟨_, rfl, by decide, by decide⟩

theorem test_hyp_LoadReplies_contained :
    let s := tRun { tBank with sys := { tBank.sys with bgrp := 0 }, laq := [{ tAcc .load with tid := 0xFFFE0100, desc := { (tAcc .load).desc with kind := .cache 0 } }], loads := 1 }
    ∃ x g, ((s.coreOf 0).bankOf 0).laq.find? (fun x => x.seq = 9) = some x ∧ x.reply = none ∧ x.held = false ∧ x.known = true ∧
      (s.coreOf 0).blocked 0 x = false ∧ s.shutOut 0 x = false ∧ x.desc.kind = .cache g ∧ (s.focus 0).bgrp ≠ none :=
  ⟨_, 0, rfl, by decide, by decide, by decide, rfl, rfl, by decide, by decide⟩

theorem test_hyp_LoadReplies_queue :
    let s := tQueue .qpop
    let u := s.focus 0
    ∃ x, (u.core.bankOf 0).laq.find? (fun x => x.seq = 9) = some x ∧ x.held = false ∧ x.known = true ∧ x.reply = none ∧
      QueueAt u x 0 2 3 2 ∧ 3 ≠ 2 ∧ ¬ PortBusy s { addr := 0, push := false, core := 0, bank := 0, seq := x.seq } :=
  ⟨_, rfl, by decide, by decide, by decide, ⟨by decide +kernel, ⟨1, by decide, rfl⟩, by decide +kernel⟩, by decide,
    by simp [PortBusy, tQueue, tRun]⟩

theorem test_hyp_LoadReplies_row :
    let s := tRun tBank
    let u : State := { s with core := { s.core with rowOps := [{ tRow .load with row := 5 }] } }
    ∃ r, (u.focus 0).core.rowOf 7 = some r ∧ (u.focus 0).core.rowDue r = true ∧ (u.focus 0).rowLate r = false :=
  ⟨{ tRow .load with row := 5 }, by decide +kernel⟩

theorem test_hyp_LoadReplies_pop :
    let l (e : Bool) : LdqEntry := { seq := 1, data := [], tag := 1, err := e }
    let w : State := { tQ [] [tAcc .load] with core := { (tQ [] [tAcc .load]).core with seq := 1 } }
    (tQ [] []).vFree = .ok () ∧ (∃ x r, (tQ [l true] []).core.bank.ldq = x :: r ∧ x.err = true) ∧
    (∃ x r, (tQ [l false] []).core.bank.ldq = x :: r ∧ x.err = false ∧ x.producer = none) ∧
    ((tQ [] []).core.bank.ldq = [] ∧ ∀ x ∈ (tQ [] []).core.bank.laq, (tQ [] []).core.seq ≤ x.issue) ∧
    w.core.bank.ldq = [] ∧ (∃ x ∈ w.core.bank.laq, x.issue < w.core.seq) ∧ (w.core.bank.laq.head?.any Access.late) = false :=
  ⟨rfl, ⟨_, _, rfl, rfl⟩, ⟨_, _, rfl, rfl, rfl⟩, ⟨rfl, by decide⟩, by decide, by decide, by decide⟩

/-- What lets an atomic through (21 R335). -/
abbrev TAtomic (s : State) (a : AReg) (d : Desc) (p : Placed) : Prop :=
  s.desc (aTid (s.a a)) = .ok d ∧ d.tag = 1 ∧ s.tag 0 = 0 ∧ s.tag (0 + 1) = 0 ∧ s.core.bank.loads < 63 ∧ StoreRoom s ∧
  s.permit (aTid (s.a a)) d .atomic = .ok () ∧ s.det = false ∧
  s.placeAll false (aTid (s.a a)) d (eltsOf d (s.a a) [(0, Int.ofNat (aCoord (s.a a) 0))] fun _ => true) = .ok p ∧
  s.placeAll true (aTid (s.a a)) d (eltsOf d (s.a a) [(0, Int.ofNat (aCoord (s.a a) 0))] fun _ => true) = .ok p ∧
  s.partsThere (locParts s.core.id 4 (p.elts.flatMap Elt.places)) = .ok () ∧ StoresFree s (p.elts.flatMap fun e => e.pieces d.tag) ∧
  StepOk s d a 63 ∧
  RepliesOutstanding s.core.bank

theorem test_hyp_AtomicsIssue_own : ∃ p, TAtomic (tRun tBank) 0 tD1 p ∧ OwnPlaces (tRun tBank) p ∧ ∃ e, p.elts = [e] ∧ WholeElt e 1 :=
  ⟨{ elts := [{ idx := 0, off := 0, loc := some ⟨.spad 0, 0⟩ }] }, ⟨rfl, by decide, by decide, by decide, by decide, ⟨by decide, by decide⟩,
    tUnit (by decide +kernel), rfl, tIs (by decide +kernel), tIs (by decide +kernel), tUnit (by decide +kernel), ⟨rfl, by simp [StoresApart, tRun]⟩,
    tStep (by decide +kernel), tNone rfl⟩,
    tOwn rfl rfl, _, rfl, by simp [WholeElt]⟩

theorem test_hyp_AtomicsIssue_far : ∃ p, TAtomic (tRun tBank) 1 tD2 p ∧ ¬ OwnPlaces (tRun tBank) p :=
  ⟨{ elts := [{ idx := 0, off := 0, loc := some ⟨.hbm, 0⟩ }] }, ⟨rfl, by decide, by decide, by decide, by decide, ⟨by decide, by decide⟩,
    tUnit (by decide +kernel), rfl, tIs (by decide +kernel), tIs (by decide +kernel), tUnit (by decide +kernel), ⟨rfl, by simp [StoresApart, tRun]⟩,
    tStep (by decide +kernel), tNone rfl⟩,
    tFar rfl⟩

theorem test_hyp_AtomicsIssue_tag : let s := tRun tBank
    s.desc (aTid (s.a 2)) = .ok tD3 ∧ tD3.tag ≠ 1 ∧ tD3.tag ≠ 8 ∧ s.core.bank.loads < 63 ∧ StoreRoom s ∧
    NoHold (s.atomElts .atomAdd (s.a 2) tD3 0) :=
  ⟨rfl, by decide, by decide, by decide, ⟨by decide, by decide⟩, tNoHold (by decide +kernel)⟩

/-! ### What the statements assume is met: windows, rows of tiles, copies -/

theorem test_hyp_TouchWindows_pins :
    let s := tRun tBank
    let es := regionElts tD2 (s.a 1) 1 64
    s.desc (aTid (s.a 1)) = .ok tD2 ∧ es ≠ [] ∧ s.permit (aTid (s.a 1)) tD2 .read = .ok () ∧
    s.permit (aTid (s.a 1)) tD2 .write = .ok () ∧ tD2.kind = .table ∧ tD2.loc ≤ 1 ∧
    s.touchSpans (s.core.fetchedOf fetchSpans 0).isSome (aTid (s.a 1)) tD2 es [] = .entries [{ tid := 2, idx := 0, start := 0, raw := 1 }] :=
  ⟨rfl, by decide +kernel, tUnit (by decide +kernel), tUnit (by decide +kernel), rfl, by decide, by decide +kernel⟩

theorem test_hyp_TouchWindows_absent :
    let s := tRun { tBank with spans := [] }
    let u := { s with core := { s.core with fetched := [{ what := fetchSpans, addr := 0, data := 0 }] } }
    let es := regionElts tD2 (s.a 1) 1 64
    s.desc (aTid (s.a 1)) = .ok tD2 ∧ s.touchSpans (s.core.fetchedOf fetchSpans 0).isSome (aTid (s.a 1)) tD2 es [] = .missing ∧
    ∃ c r e, u.touchSpans (u.core.fetchedOf fetchSpans 0).isSome (aTid (u.a 1)) tD2 es [] = .absent c r e ∧ s.reaches tD2.base = .ok () :=
  ⟨rfl, by decide +kernel, 0, 0, { tid := 2, idx := 0, start := 0, raw := 0 }, by decide +kernel, tUnit (by decide +kernel)⟩

/-- Tensors of the fixed ids: a cache, a batch map, and the core's own memories. -/
theorem test_hyp_TouchWindows_fixed :
    let b := { tBank with a := [(0, 0xFFFE0100), (1, 0xFFFE0000), (2, 0xFFFF0000), (3, 0xFFFF0001), (4, 0xFFFF0002)]
                          sys := { tBank.sys with bgrp := 0 } }
    let s := { tRun b with groups := [(0, { seen := true, nslot := 4, dstep := 1, tpp := 16, pchunk := 16, pbud := 64, maxpg := 8 })], rqbase := 1 }
    let is (a : AReg) (k : TensorKind) : Prop := ∃ d, s.desc (aTid (s.a a)) = .ok d ∧ d.kind = k ∧ regionElts d (s.a a) 1 64 ≠ [] ∧
      (d.rd = true → s.permit (aTid (s.a a)) d .read = .ok ())
    is 0 (.cache 0) ∧ is 1 (.batchMap 0) ∧ is 2 .spad ∧ is 3 .acc ∧ is 4 .wstore :=
  ⟨⟨_, tEq (d := {}) (by decide +kernel), by decide +kernel, by decide +kernel, fun _ => tUnit (by decide +kernel)⟩,
    ⟨_, tEq (d := {}) (by decide +kernel), by decide +kernel, by decide +kernel, fun _ => tUnit (by decide +kernel)⟩,
    ⟨_, tEq (d := {}) (by decide +kernel), by decide +kernel, by decide +kernel, fun _ => tUnit (by decide +kernel)⟩,
    ⟨_, tEq (d := {}) (by decide +kernel), by decide +kernel, by decide +kernel, fun _ => tUnit (by decide +kernel)⟩,
    ⟨_, tEq (d := {}) (by decide +kernel), by decide +kernel, by decide +kernel, fun _ => tUnit (by decide +kernel)⟩⟩

theorem test_hyp_TouchWindows_nothing :
    let s := tRun { tBank with a := [(0, 1), (1, 2 + 64 * 2 ^ 32)] }
    s.desc (aTid (s.a 1)) = .ok tD2 ∧ regionElts tD2 (s.a 1) 1 64 = [] ∧ s.desc (aTid (s.a 0)) = .ok tD1 ∧
    regionElts tD1 (s.a 0) 1 64 ≠ [] ∧ tD1.kind = .table ∧ tD1.loc = 2 :=
  ⟨rfl, by decide +kernel, rfl, by decide +kernel, by decide, by decide⟩

theorem test_hyp_TileRows :
    let s := tRun { tBank with ttag := [(5, 1)] }
    let u := { s with core := { s.core with rowOps := [tRow .load] } }
    s.desc (aTid (s.a 0)) = .ok tD1 ∧ tD1.tag = 1 ∧ s.tilesFree true [5] = .ok () ∧ s.core.bank.loads < 63 ∧
    s.core.collides (5 % 8) (s.core.mat.cycles + 63) = false ∧ u.core.collides (5 % 8) (u.core.mat.cycles + 0) = true ∧
    u.core.collides (4 % 8) (u.core.mat.cycles + 0) = false ∧
    s.rowRegion (s.a 0) tD1 64 .read = .ok [] ∧ tD1.tag = s.core.bank.tagT 5 ∧ s.rowRegion (s.a 0) tD1 64 .write = .ok [] :=
  ⟨rfl, rfl, tUnit (by decide +kernel), by decide, by decide +kernel, by decide +kernel, by decide +kernel, tIs (by decide +kernel),
    by decide, tIs (by decide +kernel)⟩

theorem test_hyp_TileRows_tags :
    let s := tRun tBank
    s.desc (aTid (s.a 2)) = .ok tD3 ∧ tD3.tag ≠ 1 ∧ tD3.tag ≠ 8 ∧ tD3.tag ≠ s.core.bank.tagT 5 ∧ tD3.tag ≠ 0 ∧
    s.tilesFree true [5] = .ok () ∧ s.tilesFree false [5] = .ok () ∧ s.core.bank.stores < 31 ∧ s.core.bank.loads < 63 ∧
    NoHold (s.rowRegion (s.a 2) tD3 64 .read) ∧ NoHold (s.rowRegion (s.a 2) tD3 64 .write) :=
  ⟨rfl, by decide, by decide, by decide, by decide, tUnit (by decide +kernel), tUnit (by decide +kernel), by decide, by decide,
    tNoHold (by decide +kernel), tNoHold (by decide +kernel)⟩

theorem test_hyp_TileRows_stores :
    let s := tRun { tBank with ttag := [(5, 1)] }
    let u := { s with core := { s.core with cur := { s.core.cur with stored := [(⟨.spad 0, 0⟩, 4)] } } }
    let ps (s : State) := s.regionPieces [] (aTid (s.a 0)) tD1 (regionElts tD1 (s.a 0) 64 64)
    s.rowRegion (s.a 0) tD1 64 .write = .ok [] ∧ StoresApart s (ps s) ∧ u.rowRegion (u.a 0) tD1 64 .write = .ok [] ∧
    ∃ p ∈ ps u, ∃ k ∈ u.core.cur.stored, overlaps p.1 p.2 k.1 k.2 = true :=
  ⟨tIs (by decide +kernel), by simp [StoresApart, tRun], tIs (by decide +kernel), by decide +kernel⟩

theorem test_hyp_TileRows_row :
    let s := tRun tBank
    let run (r : RowOp) : State := { s with core := { s.core with rowOps := [r] } }.focus 0
    let own : RowOp := { tRow .store with row := 0 }
    let far : RowOp := { own with areg := 2, src := { tid := 2, desc := tD2, off := some 0 }, spans := tBank.spans }
    let load : RowOp := { tRow .load with row := 0 }
    (((run own).core.rowOf 7 = some own ∧ (run own).core.rowDue own = true ∧ (run own).core.rowFull own = false ∧
      ∀ e ∈ (((run own).view own.bank).rowElts own 64).1, e.loc.all (fun l => l.isOwn 0) = true) ∧
    ((run far).core.rowOf 7 = some far ∧ (run far).core.rowDue far = true ∧ (run far).core.rowFull far = false ∧
      ∃ e ∈ (((run far).view far.bank).rowElts far 64).1, ∃ l, e.loc = some l ∧ l.isOwn 0 = false) ∧
    (run { own with next := 5 }).core.rowDue { own with next := 5 } = false) ∧
    (run load).core.rowOf 7 = some load ∧ (run load).core.rowDue load = true ∧ (run load).rowLate load = false ∧
    load.stopped = 0 ∧ load.old = [] ∧ load.src.desc.tag ≠ 6 := by
  refine ⟨⟨⟨?_, ?_, ?_, ?_⟩, ⟨?_, ?_, ?_, { idx := 0, off := 0, loc := some ⟨.hbm, 0⟩ }, ?_, ⟨.hbm, 0⟩, ?_, ?_⟩, ?_⟩, ?_, ?_, ?_, ?_, ?_, ?_⟩ <;>
    decide +kernel

/-- The checks of a COPY's range that meet no freeze. -/
theorem tCopyRuns {s : State} {d a : AReg} {n x : Nat} {ds dd : Desc}
    (h : [decide ((s.core.chan n).queue.length < 16), decide (s.core.bank.copies < 63), tOk (s.desc (aTid (s.a a))),
      decide (tGot {} (s.desc (aTid (s.a a))) = ds), tOk (s.desc (aTid (s.a d))), decide (tGot {} (s.desc (aTid (s.a d))) = dd),
      tOk (s.tilesFree false (tilesOf (rangeOf (s.a a) ds) x)), tOk (s.tilesFree true (tilesOf (rangeOf (s.a d) dd) x)),
      tFree (s.checkRange (rangeOf (s.a a) ds) x .read), tFree (s.checkRange (rangeOf (s.a d) dd) x .copy)].all id = true) :
    CopyRuns s d a n x ds dd := by
  simp only [List.all_cons, List.all_nil, id, Bool.and_eq_true, decide_eq_true_eq] at h
  obtain ⟨room, copies, src, srcIs, dst, dstIs, reads, writes, from', to', -⟩ := h
  exact ⟨room, copies, (tEq src).trans (congrArg _ srcIs), (tEq dst).trans (congrArg _ dstIs), tUnit reads, tUnit writes, tNoHold from', tNoHold to'⟩

theorem test_hyp_CopyIssues :
    let s := tRun { tBank with g := [(2, 256), (3, 2 ^ 32)] }
    CopyRuns s 3 4 3 256 tD5 tD4 ∧ CopyRuns s 3 4 3 (2 ^ 32) tD5 tD4 ∧ (s.g 2).toNat = 256 ∧ (s.g 3).toNat = 2 ^ 32 ∧
    s.core.xBusy ≤ s.core.cpy.cycles ∧ tD5.kind ≠ .wbuf ∧ s.checkRange (rangeOf (s.a 4) tD5) 256 .read = .ok () ∧
    s.checkRange (rangeOf (s.a 3) tD4) 256 .copy = .ok () :=
  ⟨tCopyRuns (by decide +kernel), tCopyRuns (by decide +kernel), by decide, by decide, by decide, by decide, tUnit (by decide +kernel),
    tUnit (by decide +kernel)⟩

theorem test_hyp_CopyIssues_busy :
    let s := { tRun { tBank with g := [(2, 256)] } with core := { (tRun { tBank with g := [(2, 256)] }).core with xBusy := 1 } }
    CopyRuns s 3 4 3 256 tD5 tD4 ∧ s.core.cpy.cycles < s.core.xBusy := ⟨tCopyRuns (by decide +kernel), by decide⟩

/-- What lets a sector of a copy move (04 R94). -/
abbrev TSector (u : State) (x : Transfer) : Prop :=
  (u.core.chan 0).queue = [x] ∧ x.kind = .program ∧ x.stopped = 0 ∧ u.core.halted = false ∧ x.bank = u.core.bank.id ∧
  x.written < x.len ∧ u.fetchWaits x 256 = false ∧ tilesOf (x.dst.from' x.written) 256 = [] ∧ u.sectorShut x = false

theorem test_hyp_CopySectors :
    let u := (tChan tBank 256).focus 0
    let x := tCopy 256
    let v := u.view 0
    TSector u x ∧ v.sectorStop x.src 256 256 = none ∧ v.sectorStop x.dst 256 256 = none ∧ x.waited = 0 ∧ u.core.engineBanks = [] ∧
    TSector ((tChan tBank 0).focus 0) (tCopy 0) := by
  decide +kernel

theorem test_hyp_CopySectors_absent :
    let u := (tChan { tBank with spans := [] } 0).focus 0
    TSector u (tCopy 0) ∧ ∃ e off, (u.view 0).sectorStop (tCopy 0).src 0 256 = some (.absent e off) := by
  refine ⟨⟨?_, ?_, ?_, ?_, ?_, ?_, ?_, ?_, ?_⟩, { tid := 5, idx := 0, start := 0, raw := 0 }, 0, ?_⟩ <;> decide +kernel

theorem test_hyp_CopyAddAndXtest :
    let s := tRun { tBank with ttag := [(5, 1)], a := [(0, 1), (1, 2), (2, 3)] }
    let u := { s with core := { s.core with rowOps := [tRow .copyAdd] } }
    s.core.xBusy ≤ s.core.cpy.cycles ∧ s.desc (aTid (s.a 0)) = .ok tD1 ∧ tD1.tag = 1 ∧ s.core.bank.tagT 5 = 1 ∧ s.core.bank.tagT 6 ≠ 1 ∧
    s.desc (aTid (s.a 2)) = .ok tD3 ∧ tD3.tag ≠ 1 ∧
    s.tilesFree true [5] = .ok () ∧ s.tilesFree true [6] = .ok () ∧ (s.core.chan 3).queue.length < 16 ∧ s.core.bank.copies < 63 ∧
    s.core.collides (5 % 8) (s.core.mat.cycles + 63) = false ∧ s.checkRange (rangeOf (s.a 0) tD1) 16384 .read = .ok () ∧
    NoHold (s.checkRange (rangeOf (s.a 2) tD3) 16384 .read) ∧ u.core.collides (5 % 8) (u.core.mat.cycles + 0) = true ∧ u.tilesFree true [5] = .ok () :=
  ⟨by decide, rfl, rfl, by decide, by decide, rfl, by decide, tUnit (by decide +kernel), tUnit (by decide +kernel), by decide, by decide,
    by decide +kernel, tUnit (by decide +kernel), tNoHold (by decide +kernel), by decide +kernel, tUnit (by decide +kernel)⟩

theorem test_hyp_CopyAddAndXtest_row :
    let s := tRun tBank
    let r : RowOp := { tRow .copyAdd with chan := 2, id := 4 }
    let x : Transfer := { tCopy 0 with id := 4, kind := .copyAdd, src := r.src, len := 16384 }
    let u := { s with core := { s.core with rowOps := [r], chans := [(2, { queue := [x] })] } }.focus 0
    let v := u.view r.bank
    let md := modesOf r.fmode
    u.core.rowOf 7 = some r ∧ u.core.rowDue r = true ∧ u.rowLate r = false ∧ r.old = [] ∧ r.row < 63 ∧
    (∀ b < 256, v.rangeByte r.src (256 * r.row + b) = .outside) ∧
    let z := Fmt.fp32.addNum md (Fmt.fp32.valueDaz md.daz 0) (Fmt.fp32.valueDaz md.daz 0)
    (∀ k < 64, ((u.core.bankOf r.bank).readT r.tile).at (64 * r.row + k) = 0) ∧ z.snan = false ∧ z.flags &&& md.te &&& 31 = 0 :=
  by decide +kernel

theorem test_hyp_CopyAddAndXtest_absent :
    let s := tRun { tBank with spans := [] }
    let r : RowOp := { tRow .copyAdd with chan := 2, id := 4, row := 0, areg := 2, src := { tid := 2, desc := tD2, off := some 0 } }
    let x : Transfer := { tCopy 0 with id := 4, kind := .copyAdd, src := r.src, len := 16384 }
    let u := { s with core := { s.core with rowOps := [r], chans := [(2, { queue := [x] })] } }.focus 0
    u.core.rowOf 7 = some r ∧ u.core.rowDue r = true ∧ u.rowLate r = false ∧
    ∃ e off, (u.view r.bank).sectorStop r.src (256 * r.row) 256 = some (.absent e off) := by
  refine ⟨?_, ?_, ?_, { tid := 2, idx := 0, start := 0, raw := 0 }, 0, ?_⟩ <;> decide +kernel

theorem test_hyp_BroadcastBus :
    let line (c age : Nat) : BusLine := { cluster := 0, age := age, core := c, data := 1 }
    let b := { tBank with a := [(0, 0xFFFF0000)] }
    let m := tRun b
    let s := { m with core := { m.core with task := some { imlen := 65536, size := 4, bc := true } }, buses := [line 3 0] }
    let v := { s with buses := [line 0 4] }
    s.busCheck 0 = .ok 0 ∧ (∃ x ∈ s.buses, x.cluster = s.core.id / 16 ∧ x.age = 0 ∧ x.core ≠ s.core.id) ∧
    s.buses.find? (fun x => x.cluster = s.core.id / 16 && x.age = 4) = none ∧
    s.core.crosses [({ space := .spad s.core.id, addr := 0 }, 256)] = false ∧ v.busCheck 0 = .ok 0 ∧ (∀ x ∈ v.buses, x.cluster = v.core.id / 16 → x.age = 0 → x.core = v.core.id) ∧
    v.buses.find? (fun x => x.cluster = v.core.id / 16 && x.age = 4) = some (line 0 4) ∧
    m.core.xBusy ≤ m.core.cpy.cycles ∧ m.core.task.all (fun t => t.bc = false) = true :=
  ⟨tIs (by decide +kernel), by decide +kernel, by decide +kernel, by decide +kernel, tIs (by decide +kernel), by decide +kernel, by decide +kernel,
    by decide, by decide +kernel⟩

/-! ### What the statements assume is met: numbers and vectors -/

theorem test_hyp_RoundsCorrectly :
    Fmt.e4m3 ∈ [Fmt.fp64, Fmt.fp32, Fmt.bf16, Fmt.fp16, Fmt.e5m2, Fmt.e4m3] ∧
    (Fmt.fp32.round .rne false false false (2 ^ 24 - 1) (-150)).flags.testBit 4 = true ∧ 0 < 2 ^ 24 - 1 := by decide +kernel

theorem test_hyp_FloatingArithmetic :
    let one : Exact := .fin false 1 0
    let three : Exact := .fin true 3 (-1)
    let z : Exact := .fin true 0 0
    Fmt.fp16 ∈ [Fmt.fp64, Fmt.fp32, Fmt.bf16, Fmt.fp16] ∧ one.isFinite = true ∧ three.isFinite = true ∧ realOf one + realOf three ≠ 0 ∧
    realOf one + realOf (.fin true 2 (-1)) = 0 ∧ realOf one * realOf three ≠ 0 ∧ realOf z * realOf one = 0 ∧
    realOf one * realOf three + realOf one ≠ 0 ∧ one ≠ .nan true ∧ one ≠ .nan false ∧ one ≠ .inf false ∧ one.isNan = false ∧
    one.isZero = false ∧ z.isZero = true ∧ one.isSnan = false ∧ (Exact.nan true).isSnan = true ∧ (Exact.nan false).isNan = true := by
  decide +kernel

theorem test_hyp_FloatingArithmetic_maxima :
    let f := Fmt.fp32
    let v (x : Nat) : Exact := f.valueDaz false x
    NumLt (v 0xBF800000) (v 0x7F7FFFFF) ∧ (v 0x80000000).isZero = true ∧ v 0x7FC00000 = .nan false ∧ (v 1).isNan = false := by
  refine ⟨?_, ?_, ?_, ?_⟩ <;> first | (show realOf _ < realOf _; decide +kernel) | decide +kernel

/-- A machine whose registers v1 to v4 carry a tag. -/
def tVec (tag : Nat) : State := tRun { tBank with vtag := [(1, tag), (2, tag), (3, tag), (4, 8)] }

theorem tVecFree {s : State} (h : s.core.relax = none) : VectorFree s := by simp [VectorFree, h]

theorem test_hyp_VectorArithmetic : ∀ tag ∈ [1, 2, 3, 8, 10], VectorFree (tVec tag) ∧ Arithmetic (tVec tag) tag [1, 2, 3] ∧
    (tVec 1).tag 1 = 1 ∧ (tVec 1).tag 4 = 8 := by
  have h : ∀ tag ∈ [1, 2, 3, 8, 10], ∀ r ∈ ([1, 2, 3] : List VReg), (tVec tag).tag r = tag := by decide +kernel
  exact fun tag k => ⟨tVecFree rfl, ⟨k, h tag k⟩, by decide +kernel⟩

theorem test_hyp_VectorCompare : VectorFree (tVec 10) ∧ Arithmetic (tVec 10) 10 [1, 2] ∧ VectorFree (tVec 8) ∧ Arithmetic (tVec 8) 8 [1, 2] :=
  ⟨tVecFree rfl, ⟨by decide, by decide +kernel⟩, tVecFree rfl, ⟨by decide, by decide +kernel⟩⟩

theorem test_hyp_VectorLanesAndTags :
    let s := tVec 1
    let r : RelaxRun := { bank := 0, bundle := 0, seq := 0, back := false, tz := 0, tu := 1, mw := 0, f := 0, sv := false, par := 0, handle := 0
                          fmode := 0, itl := 1, atol := 0, rtol := 0, beta := 0, ahd := 1, ahl := 0, pol := false, nrm := false }
    let w := { s with core := { s.core with relax := some r } }
    VectorFree s ∧ Arithmetic s 1 [1, 2, 3] ∧ Arithmetic s 1 [1] ∧ (s.tag 1 = 1 ∧ s.tag 2 = 1) ∧ (s.tag 0 = 0 ∧ s.tag 1 = 1) ∧ (s.tag 4 = 0 ∨ s.tag 4 = 8) ∧
    s.tag 0 ∉ [1, 2, 3, 8, 10] ∧ s.tag 1 ∈ [1, 2, 3, 8, 10] ∧ s.tag 1 ≠ s.tag 4 ∧ s.tag 4 ≠ 0 ∧ (s.tag 1 ≠ 0 ∧ s.tag 1 ≠ 8) ∧
    s.tag 4 ≠ 1 ∧ s.tag 1 ≠ 10 ∧ w.core.relax = some r ∧ 0 < r.ahd :=
  ⟨tVecFree rfl, ⟨by decide, by decide +kernel⟩, ⟨by decide, by decide +kernel⟩, by decide +kernel⟩

theorem test_hyp_VectorReductions : VectorFree (tVec 10) ∧ Arithmetic (tVec 10) 10 [1] ∧ VectorFree (tVec 8) ∧ Arithmetic (tVec 8) 8 [1] ∧
    ∃ u, exec (.vredMax 0 1 0) (tVec 8) = .next u :=
  ⟨tVecFree rfl, ⟨by decide, by decide +kernel⟩, tVecFree rfl, ⟨by decide, by decide +kernel⟩, _, rfl⟩

theorem test_hyp_VectorFunctions :
    let v (x : Nat) : Exact := Fmt.fp32.valueDaz false x
    VectorFree (tVec 1) ∧ (tVec 1).tag 1 = 1 ∧ (7 : BitVec 5).toNat < 8 ∧ v 0x7FC00000 = .nan false ∧ v 0x7F800001 = .nan true ∧
    v 0x7F800000 = .inf false ∧ v 0xFF800000 = .inf true ∧ (v 0x80000000).isZero = true ∧ (v 1).isFinite = true ∧ (v 1).isZero = false :=
  ⟨tVecFree rfl, by decide +kernel, by decide, by decide +kernel⟩

theorem test_hyp_VectorFunctions_below : NumLt (Fmt.fp32.valueDaz false 0x80000001) (.fin false 0 0) := by
  show realOf _ < realOf _; decide +kernel

theorem test_hyp_VectorConversions :
    let s := tRun { tBank with vtag := [(1, 11), (2, 6), (3, 1)] }
    let u := tRun { tBank with vtag := [(1, 11)], sys := { tBank.sys with fmode := 0x190800 } }
    VectorFree s ∧ (1 ≤ s.tag 1 ∧ s.tag 1 ≤ 11) ∧ s.tag 2 = 6 ∧ (7 : BitVec 4).toNat = 7 ∧
    (10 ∈ [1, 2, 3, 4, 5, 10]) ∧ (Exact.fin true 1 (-1074)).isFinite = true ∧ realOf (.fin true 1 (-1074)) ≠ 0 ∧
    (Exact.fin true 0 0).isZero = true ∧ s.modes.snt = false ∧ s.modes.sre = false ∧ u.modes.sre = true :=
  ⟨tVecFree rfl, by decide +kernel, by decide +kernel, by decide, by decide, by decide, by decide +kernel, by decide, by decide +kernel⟩

theorem test_hyp_VectorConversions_integers :
    let y := realOf (.fin false 5 (-1))
    (gap y 2 = 1 / 2 ∧ (2 : Int) % 2 = 0) ∧ (gap 0 2 ≤ gap 0 y ∧ gap y 2 < 1) ∧ (y ≤ 3 ∧ 3 < y + 1) ∧ (2 ≤ y ∧ y < 3) ∧
    (let z := realOf (.fin true 257 (-1))
     gap z (-128) = 1 / 2) ∧ gap (realOf (.fin false 128 0)) 128 < 1 / 2 := by decide +kernel

theorem test_hyp_VectorBlocksAndSlices :
    let s := tVec 1
    let z := List.replicate 31 (Exact.fin false 0 0)
    VectorFree s ∧ (1 ≤ s.tag 1 ∧ s.tag 1 ≤ 11 ∧ s.tag 1 ≠ 6) ∧ (Exact.inf true :: z).length = 32 ∧
    (∃ x ∈ Exact.inf true :: z, x.isFinite = false) ∧ (∀ x ∈ Exact.fin true 0 0 :: z, x.isZero = true) ∧
    (let big : Exact := .fin true 7 0
     (∀ x ∈ big :: z, x.isFinite = true ∧ gap 0 (realOf x) ≤ gap 0 (realOf big)) ∧ realOf big ≠ 0 ∧ (2 : Rat) ^ ((0 : Int) + 2) ≤ gap 0 (realOf big) ∧
       gap 0 (realOf big) < 2 ^ ((0 : Int) + 3)) ∧
    (let huge : Exact := .fin false 1 130
     (2 : Rat) ^ ((128 : Int) + 2) ≤ gap 0 (realOf huge) ∧ gap 0 (realOf huge) < 2 ^ ((128 : Int) + 3)) ∧
    ((127 : Nat) : Rat) * 2 ^ (0 : Int) < 2 ^ ((6 : Int) + 1) :=
  ⟨tVecFree rfl, by decide +kernel⟩

theorem test_hyp_VectorBlocksAndSlices_split :
    let s := tRun { tBank with vtag := [(1, 10), (2, 10)] }
    VectorFree s ∧ s.tag 1 = 10 ∧ s.tag 2 = 10 ∧ s.modes.fps ≤ 9 ∧ 4 ≤ s.modes.fps :=
  ⟨tVecFree rfl, by decide +kernel⟩

theorem test_hyp_VectorBlocksAndSlices_join :
    let s := tRun { tBank with vtag := [(1, 11), (2, 8), (3, 11)] ++ (List.range 12).map fun k => (20 + k, 8) }
    let fps := s.modes.fps
    VectorFree s ∧ (∀ o < fps, (23 : VReg).val + o ≤ 31 → s.tag (23 + o) = 8) ∧ s.tag 1 = 11 ∧ s.tag (1 + 1) = 8 ∧
    (∀ q, 2 ≤ q → q ≤ 5 → s.tag (1 + q) = 0 ∨ s.tag (1 + q) = 11) ∧ 23 + fps - 1 ≤ 31 ∧
    (∀ o < fps, (24 : VReg).val + o ≤ 31 → s.tag (24 + o) = 8) ∧ 32 ≤ 24 + fps - 1 :=
  ⟨tVecFree rfl, by decide +kernel, by decide +kernel, by decide +kernel,
    fun q h k => (by decide +kernel : ∀ q < 6, 2 ≤ q → (tRun { tBank with vtag := [(1, 11), (2, 8), (3, 11)] ++ (List.range 12).map fun k => (20 + k, 8) }).tag (1 + q) = 0 ∨
      (tRun { tBank with vtag := [(1, 11), (2, 8), (3, 11)] ++ (List.range 12).map fun k => (20 + k, 8) }).tag (1 + q) = 11) q (by omega) h,
    by decide +kernel⟩

/-! ### What the statements assume is met: system registers, holds, barriers, queues, reads -/

/-- Supervisor code whose other bank holds the task. -/
def tHandler : State := tSup { tBank with g := [(2, 0x1FFFFFFFFFFFFF), (3, 2)] } tBank

theorem test_hyp_SystemRegisters :
    let s := tRun { tBank with sigBusy := true, g := [(2, 2 ^ 63)] }
    (∀ e ∈ registerTable, e.1 ≠ (0x703 : BitVec 12).toNat) ∧ s.sup = false ∧ tHandler.sup = true ∧ s.core.bank.sigBusy = true ∧
    (0x500, 0, 2, 0x380FF) ∈ registerTable ∧ (0x702, 1, 1, 0) ∈ registerTable ∧ (0x010, 2, 2, 0x1F0FFF) ∈ registerTable ∧
    (0x012, 1, 1, 0) ∈ registerTable ∧ (0x400, 1, 2, 0xFFF) ∈ registerTable ∧ srReserved 0x010 (s.g 2) = true ∧
    srReserved 0x010 0x190000 = false := by decide +kernel

theorem test_hyp_RegisterEffects :
    let s := tRun tBank
    let p : Path := { l := 9, at' := 0 }
    let c : Channel := { queue := [{ tCopy 256 with path := p }], past := [(2, 0, p)] }
    let u := { s with core := { s.core with chans := [(1, c)] } }
    let ws : Transfer := { tCopy 0 with src := { tid := 5, desc := { tD5 with loc := 3 }, off := some 0 } }
    let w := { s with core := { s.core with chans := [(0, { queue := [ws] })] }, wenNext := [{ die := 0, core := 0, wen := true, at' := 3 }, { die := 0, core := 200, wen := false, at' := 2 }, { die := 0, core := 9, wen := false, at' := 2 }] }
    (s.calendar.any (fun e => e.event = .sigReady 0 0) = false ∧ s.core.bank.id ≠ s.core.other.id) ∧
    ((u.focus 0).core.chan 1).past.head? = some (2, 0, p) ∧ p.at' ≤ 0 ∧ 0 ≤ u.now ∧
    ((u.focus 0).core.chan 1).queue.head? = some { tCopy 256 with path := p } ∧ 0 < (tCopy 256).written ∧
    ((tChan tBank 0).focus 0).core.chan 0 = { queue := [tCopy 0] } ∧
    ((∃ x ∈ w.cores, x.id / 64 = 0 ∧ ∃ ch ∈ x.chans, ∃ y ∈ ch.2.queue, y.src.desc.loc = 3 ∨ y.dst.desc.loc = 3) ∧
      ∃ y ∈ w.wenNext, y.die = 0) ∧
    ((∀ x ∈ u.cores, x.id / 64 = 0 → x.usesStore = false) ∧ (∀ y ∈ w.wenNext, y.core < 256) ∧
      ∃ v ∈ w.wenNext, v.die = 0 ∧ ∀ y ∈ w.wenNext, y.die = 0 → y ≠ v → y.at' < v.at' ∨ (y.at' = v.at' ∧ y.core < v.core)) := by
  refine ⟨?_, ?_, ?_, ?_, ?_, ?_, ?_, ?_, ?_, ?_, ?_⟩ <;> decide +kernel

theorem test_hyp_HoldsAndReleases :
    let s := tRun { tBank with g := [(2, 0x8888), (3, 0x10000), (4, 0x9000)], trig := true }
    let w := tRun { tBank with laq := [tAcc .load], ldq := List.replicate 64 { seq := 1, data := [], tag := 1 } }
    ((w.core.bank.laq.filter fun x => !x.reserved).length - w.core.bank.freeLdq = 1) ∧
    ((s.core.bank.laq.filter fun x => !x.reserved).length - s.core.bank.freeLdq = 0) ∧
    ((s.g 2).toNat < 2 ^ 16 ∧ ∀ k < 4, (s.g 2).toNat / 16 ^ k % 16 ≤ 8) ∧ 2 ^ 16 ≤ (s.g 3).toNat ∧
    ((s.g 4).toNat < 2 ^ 16 ∧ ∃ k < 4, 8 < (s.g 4).toNat / 16 ^ k % 16) ∧ s.sup = false ∧ s.core.bank.trig = true ∧
    (tRun tBank).core.bank.trig = false ∧ tHandler.sup = true := by decide +kernel

theorem test_hyp_HoldsAndReleases_ends :
    let s (a : After) (loads : Nat) : State := tRun { tBank with after := some (a, 5), loads := loads, laq := List.replicate loads (tAcc .load) }
    let w (v : Nat) : State := tRun { tBank with after := some (.drain v 2, 5), stq := [tAcc .store] }
    ((s (.wait 1 0 15 0) 1).focus 0).core.bank.after = some (.wait 1 0 15 0, 5) ∧ ((s (.wait 1 0 15 0) 1).focus 0).core.bank.loads ≤ 1 ∧
    ¬ ((s (.wait 1 0 15 0) 2).focus 0).core.bank.loads ≤ 1 ∧
    (∀ v ∈ [1, 2, 3], ((s (.drain v 1) 0).focus 0).core.bank.after = some (.drain v 1, 5) ∧
      ((s (.drain v 1) 0).focus 0).core.storesBefore 1 5 = false ∧ ((s (.drain v 1) 0).focus 0).core.loadsBefore 5 = false ∧
      ((s (.drain v 1) 1).focus 0).core.loadsBefore 5 = true ∧ ((w v).focus 0).core.bank.after = some (.drain v 2, 5) ∧
      ((w v).focus 0).core.storesBefore 2 5 = true) ∧
    ((s .acq 0).focus 0).core.bank.after = some (.acq, 5) ∧ ((s .acq 0).focus 0).core.loadsBefore 5 = false ∧
    ((s .acq 1).focus 0).core.bank.after = some (.acq, 5) ∧ ((s .acq 1).focus 0).core.loadsBefore 5 = true := by decide +kernel

theorem test_hyp_HoldsAndReleases_watch :
    Alone ((tRun tBank).focus 0) ∧ (∀ b, ((tRun tBank).focus 0).core.bank.after ≠ some b) ∧ ((tRun tBank).cores.map Core.id).Nodup :=
  by
  refine ⟨rfl, fun b h => ?_, by decide +kernel⟩
  cases (show (none : Option (After × Nat)) = some b from h)

/-- A task of four, with barrier and queue operands. -/
def tBar (b : Bank) : State :=
  { tRun { b with g := [(2, 15), (3, 4), (4, 16), (5, 1), (6, 0), (7, 5)] } with
    core := { (tRun { b with g := [(2, 15), (3, 4), (4, 16), (5, 1), (6, 0), (7, 5)] }).core with task := some { imlen := 65536, ntask := 4 } } }

theorem tNever {s : State} {k : Nat} (h : s.core.bank.arrival k = none) : ∀ y, s.core.bank.arrival k = some y → y.released = true :=
  fun _ g => by simp [h] at g

theorem tMay {s : State} {k n : Nat} (h : s.core.bank.arrival k = none) (a : s.core.storesBefore 2 s.core.seq = false)
    (b : (s.barrier s.launchId k).arrivals = [] ∨ (s.barrier s.launchId k).n = n) (c : 1 ≤ n) (d : n ≤ ((s.core.task.map Task.ntask).getD 1))
    (e : s.det = true → n = (s.core.task.map Task.ntask).getD 1) : MayArrive s k n :=
  ⟨a, fun _ g => by simp [h] at g, b, c, d, e⟩

theorem test_hyp_HoldsAndReleases_barriers :
    let s := tBar tBank
    let y : Arrived := { barrier := 15, gen := 0 }
    let a := tBar { tBank with arrived := [y] }
    (s.g 2).toNat < 16 ∧ MayArrive s 15 4 ∧ a.core.bank.arrival 15 ≠ none ∧ ((a.coreOf 0).task.map Task.launch).getD 0 = 0 ∧
    ∃ z ∈ (a.coreOf 0).bank.arrived, z.barrier = 15 ∧ z.gen = 0 ∧ z.released = false :=
  ⟨by decide +kernel, tMay (by decide +kernel) (by decide +kernel) (by decide +kernel) (by decide +kernel) (by decide +kernel) (by decide +kernel),
    by decide +kernel⟩

theorem test_hyp_BarriersAndQueues :
    let s := tBar tBank
    let st := { tBar { tBank with stq := [tAcc .store] } with core := { (tBar { tBank with stq := [tAcc .store] }).core with seq := 1 } }
    let y : Arrived := { barrier := 15, gen := 0 }
    let a := tBar { tBank with arrived := [y] }
    let o := { s with barriers := [{ launch := 0, num := 15, n := 3, arrivals := [{ core := 1, task := 1, at' := 0, path := {} }] }] }
    let d := { s with core := { s.core with task := some { imlen := 65536, ntask := 4, det := true } } }
    (s.g 2).toNat < 16 ∧ MayArrive s 15 4 ∧ st.core.storesBefore 2 st.core.seq = true ∧
    (a.core.bank.arrival 15 = some y ∧ y.released = false ∧ a.core.storesBefore 2 a.core.seq = false) ∧ 16 ≤ (s.g 4).toNat ∧
    ((o.barrier o.launchId 15).arrivals ≠ [] ∧ (o.barrier o.launchId 15).n ≠ (o.g 3).toNat ∧ (∀ y, o.core.bank.arrival 15 = some y → y.released = true) ∧
      o.core.storesBefore 2 o.core.seq = false) ∧
    ((s.barrier s.launchId 15).arrivals = [] ∧ (s.g 6).toNat = 0 ∧ (s.core.task.map Task.ntask).getD 1 < (s.g 7).toNat) ∧
    (d.det = true ∧ 1 ≤ (d.g 5).toNat ∧ (d.g 5).toNat ≤ (d.core.task.map Task.ntask).getD 1 ∧ (d.g 5).toNat ≠ (d.core.task.map Task.ntask).getD 1) ∧
    a.core.bank.arrival 15 ≠ none ∧ s.core.bank.arrival 15 = none ∧
    ((a.coreOf 0).task.map Task.launch).getD 0 = 0 ∧ (∃ z ∈ (a.coreOf 0).bank.arrived, z.barrier = 15 ∧ z.gen = 0 ∧ z.released = false) :=
  ⟨by decide +kernel, tMay (by decide +kernel) (by decide +kernel) (by decide +kernel) (by decide +kernel) (by decide +kernel) (by decide +kernel),
    by decide +kernel, by decide +kernel, by decide +kernel,
    ⟨by decide +kernel, by decide +kernel, tNever rfl, by decide +kernel⟩, by decide +kernel⟩

/-- Queue 6 of 2 entries in HBM at address 0, with `pushed` and `popped` in its header. -/
def tHeader (b : Bank) (pushed popped : Nat) : State :=
  { tRun { b with descs := [(6, { ext0 := 576, nspan := 1, base := 0x9000 })], spans := [{ tid := 6, idx := 0, start := 0, raw := 1 }]
                  g := [(2, 6), (3, 1)] } with hbm := (Memory.write [] 0 pushed 8).write 8 popped 8 }

/-- An access of that queue. -/
def tQAcc (k : AccKind) : Access :=
  { seq := 9, kind := k, issue := 1, areg := 6, tid := 6, desc := { ext0 := 576, nspan := 1, base := 0x9000 }, elems := [{ idx := 0, off := 0, loc := some ⟨.hbm, 0⟩ }] }

/-- A push or a pop as the queue's port names it, and another core's that waits there. -/
def tWait (push woken : Bool) (core : Nat) : QueueWait := { addr := 0, push := push, core := core, bank := 0, seq := 9, woken := woken }

/-- The tests of a port that is free for an arrival, and of one that is not. -/
theorem tPortFree {s : State} {push : Bool}
    (h : s.queueWaits = [] ∨ s.queueWaits = [tWait push true 0]) : ¬ PortBusy s (tWait push false 0) := by
  rcases h with h | h <;> simp [PortBusy, h, tWait]

theorem tPortBusy {s : State} {push : Bool} (h : s.queueWaits = [tWait push false 5]) : PortBusy s (tWait push false 0) :=
  ⟨tWait push false 5, by simp [h, tWait], by simp [tWait]⟩

theorem test_hyp_BarriersAndQueues_push :
    let s := tHeader tBank 5 4
    let f := tHeader { tBank with stq := [tQAcc .qpush] } 5 4
    let w := tHeader { tBank with stq := [tQAcc .qpush] } 6 4
    let o := tHeader { tBank with stq := [{ tAcc .store with seq := 3, issue := 0 }, tQAcc .qpush] } 5 4
    let d := (tQAcc .qpush).desc
    let p := tGot {} (s.placeAll false 6 d (queueElts d))
    QueuePasses s 2 d false 16 p s ∧ s.core.bank.stores < 31 ∧ s.det = false ∧
    ((f.focus 0).core.bankOf 0).stq.find? (fun y => y.seq = 9) = some (tQAcc .qpush) ∧ (tQAcc .qpush).held = false ∧
    (tQAcc .qpush).known = true ∧ QueueAt (f.focus 0) (tQAcc .qpush) 0 2 5 4 ∧ (f.focus 0).core.storesBefore 2 1 = false ∧
    (5 + 2 ^ 64 - 4) % 2 ^ 64 < 2 ∧ ¬ PortBusy f (tWait true false 0) ∧ ¬ PortBusy { f with queueWaits := [tWait true true 0] } (tWait true false 0) ∧
    PortBusy { f with queueWaits := [tWait true false 5] } (tWait true false 0) ∧
    QueueAt (w.focus 0) (tQAcc .qpush) 0 2 6 4 ∧ 2 ≤ (6 + 2 ^ 64 - 4) % 2 ^ 64 ∧ (o.focus 0).core.storesBefore 2 1 = true :=
  ⟨⟨tUnit (by decide +kernel), by decide +kernel, tIs (by decide +kernel), by decide +kernel, tUnit (by decide +kernel),
      (fun h => absurd h (by decide)), rfl, tEq (by decide +kernel)⟩, by decide, rfl, by decide +kernel, by decide, by decide,
    ⟨by decide +kernel, ⟨1, by decide +kernel, by decide⟩, by decide +kernel⟩, by decide +kernel, by decide,
    tPortFree (.inl rfl), tPortFree (.inr rfl), tPortBusy rfl,
    ⟨by decide +kernel, ⟨1, by decide +kernel, by decide⟩, by decide +kernel⟩, by decide,
    by decide +kernel⟩

theorem test_hyp_BarriersAndQueues_pop :
    let s := tHeader tBank 5 4
    let f := tHeader { tBank with laq := [tQAcc .qpop] } 5 4
    let e := tHeader { tBank with laq := [tQAcc .qpop] } 4 4
    let d := (tQAcc .qpop).desc
    let p := tGot {} (s.placeAll false 6 d (queueElts d))
    QueuePasses s 2 d true 20 p s ∧ s.core.bank.loads < 63 ∧ RepliesOutstanding s.core.bank ∧
    ((f.focus 0).core.bankOf 0).laq.find? (fun y => y.seq = 9) = some (tQAcc .qpop) ∧ (tQAcc .qpop).reply = none ∧
    QueueAt (f.focus 0) (tQAcc .qpop) 0 2 5 4 ∧ QueueAt (e.focus 0) (tQAcc .qpop) 0 2 4 4 ∧
    ¬ PortBusy f (tWait false false 0) ∧ PortBusy { e with queueWaits := [tWait false false 5] } (tWait false false 0) ∧
    (∀ f ∈ e.calendar, f.event ≠ .qpopReplyTimeout 0 0 9) :=
  ⟨⟨tUnit (by decide +kernel), by decide +kernel, tIs (by decide +kernel), by decide +kernel, tUnit (by decide +kernel),
      fun _ => tUnit (by decide +kernel), rfl, tEq (by decide +kernel)⟩, by decide, tNone rfl, by decide +kernel, by decide,
    ⟨by decide +kernel, ⟨1, by decide +kernel, by decide⟩, by decide +kernel⟩,
    ⟨by decide +kernel, ⟨1, by decide +kernel, by decide⟩, by decide +kernel⟩, tPortFree (.inl rfl), tPortBusy rfl,
    by decide +kernel⟩

theorem test_hyp_BarriersAndQueues_bound :
    let s := { tHeader tBank 5 4 with hbm := (Memory.write [] 16 9 4) }
    let t := { s with core := { s.core with task := some { imlen := 65536, det := true } } }
    t.det = true ∧ t.queueRead 6 (tQAcc .qpush).desc 16 4 ≠ 0 ∧
    t.queueRead 6 (tQAcc .qpush).desc 16 4 ≠ t.core.bank.sys.taskix.toNat + 1 := by decide +kernel

theorem test_hyp_HardwareReads :
    let s := { tRun tBank with hbm := Memory.write (Memory.write (Memory.write [] 64 (1 + 2 ^ 32 + 2 ^ 64 + 2 ^ 96) 64) 192
      (32 + 2 ^ 32 + 2 ^ 64 + 2 ^ 96 + 6 * 2 ^ 192 + 4 * 2 ^ 320) 64) 256 (2 + 2 ^ 32 + 2 ^ 64 + 2 ^ 96) 64 }
    let x (k : Nat) : Nat := s.hbm.read (64 * k) 64
    let st : Stamp := { die := 0, block := 7, launch := 0, phase := 0, mode := 1, task := 0 }
    let r := { s with stamps := [st, { st with block := 8, mode := 3, task := 4 }] }
    field (s.focus 0).core.bank.sys.ttbase.toNat 6 34 * 64 = 0 ∧ 64 * (63 : BitVec 32).toNat + 64 ≤ hbmSize ∧
    descOk (x 1) none = true ∧ descOk (x 2) none = false ∧ (parseDesc (x 3)).tag = 6 ∧ (parseDesc (x 3)).aux = 4 ∧
    4 < field (s.focus 0).core.bank.sys.ttbase.toNat 44 20 ∧ descOk (x 3) (some (parseDesc (x 4))) = true ∧ 64 * 4 + 64 ≤ hbmSize ∧
    descOk (x 3) none = false ∧ (2 : BitVec 2).toNat < 3 ∧
    nextMode 1 true 1 = some 3 ∧ nextMode 3 false 0 = none ∧
    (s.focus 0).core.bank.descOf 2 = some tD2 ∧ (s.focus 0).core.unperformed = [] ∧ (s.focus 0).core.storesTo 0 512 = false ∧
    ((tRun { tBank with stq := [{ tAcc .store with elems := [{ idx := 0, off := 0, loc := some ⟨.hbm, 511⟩ }] }] }).focus 0).core.storesTo 0 512 = true ∧
    r.stamps.length = 2 := by decide +kernel

theorem test_hyp_HardwareReads_stamps :
    let st : Stamp := { die := 0, block := 7, launch := 0, phase := 0, mode := 1, task := 0 }
    let r := { tRun tBank with stamps := [st, { st with block := 8, mode := 3, task := 4 }] }
    LiveStamp (r.focus 0) 0 7 st ∧ (∀ y, LiveStamp (r.focus 0) 0 7 y → y = st) ∧ (∀ y, ¬ LiveStamp (r.focus 0) 1 7 y) ∧
    (r.stamps.filter fun x => x.die = 1 ∧ x.block % 16384 = 7 % 16384 ∧ x.block ≠ 7 ∧ x.launch = (r.focus 0).launchId ∧
      x.phase = (r.focus 0).core.bank.phase).length < 16 := by
  refine ⟨by simp only [LiveStamp]; decide +kernel, ?_, ?_, by decide +kernel⟩
  · rintro y ⟨h, -, k, -⟩
    have : ∀ y ∈ [({ die := 0, block := 7, launch := 0, phase := 0, mode := 1, task := 0 } : Stamp),
      { die := 0, block := 8, launch := 0, phase := 0, mode := 3, task := 4 }], y.block = 7 → y = { die := 0, block := 7, launch := 0, phase := 0, mode := 1, task := 0 } := by
      decide +kernel
    exact this y h k
  · rintro y ⟨h, k, -⟩
    have : ∀ y ∈ [({ die := 0, block := 7, launch := 0, phase := 0, mode := 1, task := 0 } : Stamp),
      { die := 0, block := 8, launch := 0, phase := 0, mode := 3, task := 4 }], y.die ≠ 1 := by decide +kernel
    exact this y h k

theorem test_hyp_HardwareReads_set :
    let st (k : Nat) : Stamp := { die := 0, block := 16384 * (k + 1), launch := 0, phase := 0, mode := 1, task := 0 }
    let r := { tRun tBank with stamps := (List.range 16).map st }
    (∀ x, ¬ LiveStamp (r.focus 0) 0 0 x) ∧ 16 ≤ (r.stamps.filter fun x => x.die = 0 ∧ x.block % 16384 = 0 % 16384 ∧ x.block ≠ 0 ∧
      x.launch = (r.focus 0).launchId ∧ x.phase = (r.focus 0).core.bank.phase).length := by
  refine ⟨?_, by decide +kernel⟩
  rintro x ⟨h, -, k, -⟩
  have : ∀ y ∈ (List.range 16).map fun k => ({ die := 0, block := 16384 * (k + 1), launch := 0, phase := 0, mode := 1, task := 0 } : Stamp),
    y.block ≠ 0 := by decide +kernel
  exact this x h k

theorem test_hyp_RetriedAccesses :
    let x : Access := { tAcc .load with elems := [{ idx := 0, off := 0 }] }
    let s := tRun { tBank with laq := [x] }
    let n := tRun { tBank with laq := [x], spans := [] }
    let y : Access := { x with desc := { tD2 with loc := 1 } }
    let v := { tRun { tBank with laq := [y] } with refused := [{ fn := 0, pasid := none, iova := 0, page := 0 }] }
    let r : RingEntry := { idx := 0, seq := 8, store := false }
    let o := tRun { tBank with laq := [x], spans := [], ring := [r] }
    (s.focus 0).core.queued 0 9 = some x ∧ x.known = false ∧ (∀ e ∈ ((s.focus 0).core.bankOf 0).ring, e.seq ≠ x.seq) ∧
    (∀ y ∈ ((s.focus 0).core.bankOf 0).laq ++ ((s.focus 0).core.bankOf 0).stq, y.seq = 9 → y = x) ∧
    ((s.focus 0).translate x).2.2.2 = false ∧ ((s.focus 0).translate x).2.1 = none ∧
    ((n.focus 0).translate x).2.2.2 = false ∧ ((n.focus 0).translate x).2.1 = some { tid := 2, idx := 0, start := 0, raw := 0 } ∧
    (∀ e ∈ ((n.focus 0).core.bankOf 0).ring, e.done = true) ∧
    (o.focus 0).core.queued 0 9 = some x ∧ (∀ e ∈ ((o.focus 0).core.bankOf 0).ring, e.seq ≠ x.seq) ∧ ((o.focus 0).translate x).2.2.2 = false ∧
    ((o.focus 0).translate x).2.1 = some { tid := 2, idx := 0, start := 0, raw := 0 } ∧ (∃ e ∈ ((o.focus 0).core.bankOf 0).ring, e.done = false) ∧
    (v.focus 0).core.queued 0 9 = some y ∧ ((v.focus 0).translate y).2.2.2 = true := by decide +kernel

/-- A handler whose task has the access `q` on its retry ring, entry 127. -/
def tFill (q : Access) (spans : List SpanEntry) : State :=
  let b : Bank := { tBank with id := 1, laq := [q], ring := [{ idx := 127, seq := 9, store := false }], spans := spans }
  { tSup { tBank with g := [(2, 127), (3, 0x17F), (4, 0x200), (5, 0x80)], spans := spans } b with
    core := { (tSup { tBank with g := [(2, 127), (3, 0x17F), (4, 0x200), (5, 0x80)], spans := spans } b).core with fetched := [{ what := 5, addr := 0, data := 0 }] } }

theorem test_hyp_RetriedAccesses_fill :
    let q : Access := { tAcc .load with elems := [{ idx := 0, off := 0 }], held := true }
    let a := { q with kind := .atomAdd }
    let h : Access := { q with desc := { tD2 with loc := 1 } }
    let s := tFill q [{ tid := 2, idx := 0, start := 0, raw := 1 }]
    let v := tFill a [{ tid := 2, idx := 0, start := 0, raw := 1 }]
    let m := tFill q []
    let w := { tFill h [{ tid := 2, idx := 0, start := 0, raw := 1 }] with refused := [{ fn := 0, pasid := none, iova := 0, page := 0 }] }
    s.sup = true ∧ (tRun tBank).sup = false ∧ (s.g 2).toNat < 2 ^ 9 ∧ (s.g 2).toNat % 256 < 128 ∧ 256 ≤ (s.g 3).toNat ∧
    (s.g 3).toNat < 2 ^ 9 ∧ (s.g 0).toNat % 256 = 0 ∧ 2 ^ 9 ≤ (s.g 4).toNat ∧ 128 ≤ (s.g 5).toNat % 256 ∧ s.core.bank.id ≠ s.core.other.id ∧
    (∀ r ∈ s.core.other.ring, r.idx = 0 → r.done = true) ∧
    s.core.other.ring.find? (fun r => r.idx = 127 ∧ r.done = false) = some { idx := 127, seq := 9, store := false } ∧
    s.core.queued 1 9 = some q ∧ ringKind q.kind = 1 ∧ v.core.queued 1 9 = some a ∧ ringKind a.kind ≠ 1 ∧ ringKind a.kind ≠ 4 ∧
    s.core.fetchedOf 5 0 ≠ none ∧ (s.translate q).2.2.2 = false ∧ (s.translate q).2.1 = none ∧
    m.core.queued 1 9 = some q ∧ m.core.fetchedOf 5 0 ≠ none ∧ (m.translate q).2.2.2 = false ∧
    (m.translate q).2.1 = some { tid := 2, idx := 0, start := 0, raw := 0 } ∧
    w.core.queued 1 9 = some h ∧ w.core.fetchedOf 5 0 ≠ none ∧ (w.translate h).2.2.2 = true := by decide +kernel

theorem test_hyp_RetriedAccesses_parts :
    let s := tRun { tBank with absent := [.v 3, .crf] }
    Owed (s.coreOf 0).bank 3 ∧ (∀ p ∈ (s.coreOf 0).other.absent, p.code ≠ 3) ∧ (s.coreOf 0).bank.absent ≠ [] :=
  ⟨⟨.v 3, by decide +kernel⟩, by decide +kernel⟩

/-! ### What the statements assume is met: the matrix array, relaxations, other J77s -/

theorem test_hyp_MatrixProduct :
    let one : List Exact := List.replicate 64 (.fin false 1 0)
    shapeM (64 + 64 * 2 ^ 7 + 64 * 2 ^ 14) ≤ 64 ∧ shapeN (64 + 64 * 2 ^ 7 + 64 * 2 ^ 14) ≤ 64 ∧ shapeK (64 + 64 * 2 ^ 7 + 64 * 2 ^ 14) ≤ 64 ∧
    (List.replicate 64 true).length = 64 ∧ one.length = 64 ∧ (∀ x ∈ one, x.isFinite = true) ∧
    (2 : Rat) ^ (0 : Int) ≤ gap 0 (realOf (.fin false 1 0) * realOf (.fin false 1 0)) ∧
    gap 0 (realOf (.fin false 1 0) * realOf (.fin false 1 0)) < 2 ^ ((0 : Int) + 1) := by decide +kernel

/-- A BF16 tensor of one element in HBM. -/
def tD7 : Desc := { tag := 2, nspan := 1, base := 0x9000 }

/-- A bank with that tensor, its handle in m0 and m2, a whole tile's shape in m1, and FP32 tiles. -/
def tMatBank : Bank :=
  { tBank with descs := [(7, tD7), (8, { tag := 2, loc := 2 }), (9, { tag := 1, loc := 2 })], spans := [{ tid := 7, idx := 0, start := 0, raw := 1 }]
               m := [(0, 7), (1, BitVec.ofNat 64 (64 + 64 * 2 ^ 7 + 64 * 2 ^ 14)), (2, 7), (3, BitVec.ofNat 64 (64 * 2 ^ 10)),
                     (4, 8), (5, BitVec.ofNat 64 (64 + 64 * 2 ^ 7 + 64 * 2 ^ 14)), (6, 9), (7, BitVec.ofNat 64 (64 + 64 * 2 ^ 7 + 64 * 2 ^ 14))]
               ttag := (List.range 32).map fun k => (k, 1), g := [(2, 16384), (3, 2 ^ 62 + 256), (4, 2 ^ 63 + 4095), (5, 3 * 2 ^ 62), (6, 16385)]
               a := [(0, 7), (1, 0xFFFF0003), (2, 0xFFFF0000)] }

def tMat : State := tRun tMatBank

theorem tPair {α β : Type} {d : α × β} {x : Chk (α × β)} (h : tOk x = true) : x = .ok ((tGot d x).1, (tGot d x).2) := tEq h

/-- The checks of an operand as one test. -/
def tFetches (s : State) (h : Nat) (p : Operand → State → Bool) : Bool :=
  match s.fetchOperand h 0 0 0 true with
  | .ok (op, u) => !op.failed && tOk (u.copyRoom 3) && (u.core.matOps.all fun q => q.seq != s.core.seq) && p op u
  | _ => false

theorem tFetched' {s : State} {h : Nat} {p : Operand → State → Bool} (g : tFetches s h p = true) :
    ∃ op u, s.fetchOperand h 0 0 0 true = .ok (op, u) ∧ op.failed = false ∧ u.copyRoom 3 = .ok () ∧ (∀ q ∈ u.core.matOps, q.seq ≠ s.core.seq) ∧
      p op u = true := by
  unfold tFetches at g
  split at g
  · rename_i op u e
    simp only [Bool.and_eq_true, Bool.not_eq_true', List.all_eq_true, bne_iff_ne, ne_eq] at g
    exact ⟨op, u, e, g.1.1.1, tUnit g.1.1.2, g.1.2, g.2⟩
  · cases g

theorem test_hyp_MatrixInstructions :
    ∃ op u, MmaPasses tMat u 0 1 2 0 8 2 op ∧ MmaPasses tMat u 3 1 2 0 8 2 op ∧ op.tile = none := by
  obtain ⟨op, u, h, f, r, n, t⟩ := tFetched' (s := tMat) (h := (tMat.core.bank.readM 0).toNat) (p := fun op _ => op.tile.isNone) (by decide +kernel)
  refine ⟨op, u, ⟨tUnit ?_, tUnit ?_, tUnit ?_, ?_, rfl, ?_, ?_, ?_, ?_, ?_, ?_, ?_, ?_, ?_, ?_, h, f, fun _ _ => r, n⟩,
    ⟨tUnit ?_, tUnit ?_, tUnit ?_, ?_, rfl, ?_, ?_, ?_, ?_, ?_, ?_, ?_, ?_, ?_, ?_, h, f, fun _ _ => r, n⟩, Option.isNone_iff_eq_none.1 t⟩ <;>
    decide +kernel

theorem test_hyp_MatrixInstructions_local :
    ∃ op u x, MmaPasses tMat u 0 1 2 4 8 2 op ∧ op.tile = some x ∧ x.ok = true ∧ accTag x.tag = accTag 2 := by
  obtain ⟨op, u, h, f, r, n, t⟩ := tFetched' (s := tMat) (h := (tMat.core.bank.readM 4).toNat)
    (p := fun op _ => op.tile.any fun x => x.ok && accTag x.tag == accTag 2) (by decide +kernel)
  obtain ⟨x, hx, e⟩ := (Option.any_eq_true _ _).1 t
  simp only [Bool.and_eq_true, beq_iff_eq] at e
  refine ⟨op, u, x, ⟨tUnit ?_, tUnit ?_, tUnit ?_, ?_, rfl, ?_, ?_, ?_, ?_, ?_, ?_, ?_, ?_, ?_, ?_, h, f, fun _ _ => r, n⟩, hx, e⟩ <;>
    decide +kernel

/-- The same where the core has a batching group. -/
def tMatGroup : State := tRun { tMatBank with sys := { tBank.sys with bgrp := 0 } }

theorem test_hyp_MatrixInstructions_format : let s := tMatGroup
    (s.mFree = .ok () ∧ s.tilesFree false [2] = .ok () ∧ s.tilesFree true [1] = .ok () ∧ s.core.bank.tiles < 31 ∧
      s.handleFormat (s.core.bank.readM 6).toNat = .ok (.ok 1) ∧ operandTag 1 = false ∧ shapeOk (s.core.bank.readM 7).toNat = true ∧
      s.bgrp ≠ none ∧ s.core.rowClaims 1 (s.core.mat.cycles + beatsOf 8 + 5) = false) ∧ (∀ q ∈ s.core.matOps, q.seq ≠ s.core.seq) ∧
    ∃ op x, s.fetchOperand (s.core.bank.readM 6).toNat 0 0 0 true = .ok (op, s) ∧ op.desc = none ∧ op.failed = false ∧ op.tile = some x ∧ x.ok = false := by
  obtain ⟨op, u, h, f, r, n, t⟩ := tFetched' (s := tMatGroup) (h := (tMatGroup.core.bank.readM 6).toNat)
    (p := fun op u => decide (u = tMatGroup) && op.desc.isNone && op.tile.any fun x => !x.ok) (by decide +kernel)
  simp only [Bool.and_eq_true, decide_eq_true_eq, Option.isNone_iff_eq_none] at t
  obtain ⟨x, hx, e⟩ := (Option.any_eq_true _ _).1 t.2
  exact ⟨⟨tUnit (by decide +kernel), tUnit (by decide +kernel), tUnit (by decide +kernel), by decide +kernel, rfl, by decide +kernel⟩, by decide +kernel, op, x, t.1.1 ▸ h, t.1.2, f, hx, by simpa using e⟩

/-- Supervisor code with that bank. -/
def tMatSup : State := tSup tMatBank tMatBank

theorem test_hyp_MatrixInstructions_busy :
    let busy := { tMat with core := { tMat.core with mBusy := 1 } }
    (busy.core.relax = none ∧ busy.core.mat.cycles < busy.core.mBusy ∧ busy.tilesFree false [2] = .ok () ∧ busy.tilesFree true [1] = .ok () ∧
      busy.core.bank.tiles < 31 ∧ NoHold (busy.handleFormat 8) ∧ NoHold (busy.fetchOperand 8 0 0 0 true) ∧
      ∀ op u, busy.fetchOperand 8 0 0 0 true = .ok (op, u) → u.copyRoom 3 = .ok ()) ∧
    tMat.core.relax = none ∧ tMat.core.mBusy ≤ tMat.core.mat.cycles :=
  ⟨⟨rfl, by decide, tUnit (by decide +kernel), tUnit (by decide +kernel), by decide, tNoHold (by decide +kernel), tNoHold (by decide +kernel),
    fun op u h => by
      obtain ⟨op', u', h', -, r, -⟩ := tFetched' (s := { tMat with core := { tMat.core with mBusy := 1 } }) (h := 8) (p := fun _ _ => true) (by decide +kernel)
      cases h'.symm.trans h
      exact r⟩, rfl, by decide⟩

theorem test_hyp_MatrixInstructions_handles :
    (aTid (tMat.a 0) < 2 ^ 20 ∧ aCoord (tMat.a 0) 0 % 64 = 0 ∧ aCoord (tMat.a 0) 1 % 64 = 0 ∧ aCoord (tMat.a 0) 2 ≤ 63 ∧ aCoord (tMat.a 0) 3 = 0) ∧
    (aTid (tMat.a 1) = 0xFFFF0003 ∧ aCoord (tMat.a 1) 0 % 16 = 0 ∧ aCoord (tMat.a 1) 1 = 0 ∧ aCoord (tMat.a 1) 2 = 0 ∧ aCoord (tMat.a 1) 3 = 0) ∧
    (¬ aTid (tMat.a 2) < 2 ^ 20 ∧ aTid (tMat.a 2) ≠ 0xFFFF0003 ∧ aTid (tMat.a 2) ≠ 0xFFFF0002) ∧ hKind (tMat.core.bank.readM 0).toNat = 0 ∧
    hKind ((tRun { tMatBank with m := [(0, BitVec.ofNat 64 (2 ^ 20))] }).core.bank.readM 0).toNat ≠ 0 := by decide +kernel

theorem test_hyp_MatrixInstructions_store :
    tMatSup.sup = true ∧ tMat.sup = false ∧ (∀ o ∈ tMatSup.core.matOps, o.routine = false) ∧
    ((tMatSup.g 2).toNat = 16384 ∧ (tMatSup.g 3).toNat = 2 ^ 62 + 256 ∧ (tMatSup.g 4).toNat = 2 ^ 63 + 4095 ∧ (tMatSup.g 5).toNat = 3 * 2 ^ 62) ∧
    (tMatSup.core.scan 32768 ((tMatSup.g 2).toNat % 32768) []).toOption = some ([], 16384) := by decide +kernel

theorem test_hyp_MatrixInstructions_trap :
    ∃ f, (tRun { tMatBank with m := [(0, 9)], descs := [], sys := { tBank.sys with ttbase := 0 } }).desc 9 = .error (.trap f) := ⟨_, rfl⟩

/-- An MMA in flight that waits for its operand, X3 transfer 5. -/
def tOp : MatOp :=
  { bank := 0, bundle := 0, seq := 4, dests := [(1, 69)], due := 70, fetching := true, todo := [.mma 1 2 0 8], operands := [{ handle := 9, id := some 5 }] }

theorem test_hyp_MatrixInstructions_ends :
    let s := { tMat with core := { tMat.core with matOps := [tOp], staged := [{ handle := 7, bank := 0, id := 6, tag := 2 }] } }
    let u := s.focus 0
    u.core.matOps.find? (fun p => p.seq = 4) = some tOp ∧ u.core.bank.id ≠ u.core.other.id ∧ tOp.bank = u.core.bank.id ∧
    u.core.relax = none ∧ (∀ o ∈ u.core.matOps, ∀ p ∈ o.operands, p.id ≠ some 6 ∧ (p.desc = none ∨ p.id ≠ none)) ∧
    (∃ x ∈ u.core.staged, x.id = 6) ∧ (∀ o ∈ u.core.matOps, ∀ q ∈ u.core.matOps, o.seq = q.seq → o = q) ∧
    u.core.matOps.find? (fun o => o.operands.any fun p => p.id = some 5) = some tOp ∧ tOp.routine = false ∧
    tOp.todo = [.mma 1 2 0 8] ∧ tOp.error = none ∧
    ({ tOp with error := some (own 0x10 0) } : MatOp).error ≠ none := by decide +kernel

/-- A routine 256 of one UMMA of BF16 and one UEW at microword 16384. -/
def tMicroAt (m0 : Nat) : State :=
  { tMat with core := { tMat.core with micro := [(16384, wUmma 1 2 1 0 2 0)], routines := [(256, 16385)]
                                       bank := { tMatBank with m := [(0, BitVec.ofNat 64 m0), (2, 7), (3, BitVec.ofNat 64 (64 + 64 * 2 ^ 7 + 64 * 2 ^ 14))] } } }

def tMicro : State := tMicroAt 0

/-- It, its operand words, the tiles it writes, and its operands as fetched. -/
def tRoutine : Routine := (tMicro.core.routine 256).getD { ops := [], beats := 0, rmask := 0, wmask := 0, start := 0, last := 0 }
def tWords : List (Nat × Nat × Nat) := ummaWords tMicro.mRegs tRoutine.ops
def tWrites : List (Nat × Nat) := (tRoutine.ops.zip (runningTimes 0 (tRoutine.ops.map (microTime tMicro.mRegs 256)))).flatMap fun p =>
  (microTiles p.1).2.map fun t => ((0 + t) % 32, tMicro.core.mat.cycles + p.2 - 1)
def tFetched : List Operand × State := tGot ([], tMicro) (tMicro.fetchAll tWords [])

theorem test_hyp_Microprograms :
    tMicro.core.routine 256 = some tRoutine ∧ tMicro.mFree = .ok () ∧ tMicro.core.bank.tiles < 31 ∧
    tMicro.tilesFree false (((List.range 32).filter fun x => bitAt tRoutine.rmask x).map fun x => (0 + x) % 32) = .ok () ∧
    tMicro.tilesFree true (((List.range 32).filter fun x => bitAt tRoutine.wmask x).map fun x => (0 + x) % 32) = .ok () ∧
    (tMicro.core.bank.readM 0).toNat = 0 ∧ tMicro.core.routine 257 = none :=
  ⟨by decide +kernel, tUnit (by decide +kernel), by decide +kernel, tUnit (by decide +kernel), tUnit (by decide +kernel), by decide +kernel⟩

theorem test_hyp_Microprograms_words : (∀ w ∈ tWords, shapeOk w.2.1 = true) ∧ tWords.length = 1 ∧ tRoutine.beats ≤ 64 ∧
    (tRoutine.ops.map (microTime tMicro.mRegs 256)).sum ≤ 64 ∧ (∀ w ∈ tWrites, tMicro.core.rowClaims (w.1 % 8) w.2 = false) ∧
    (∀ w ∈ tWords, w.2.1.testBit 21 = false) ∧ (∀ w ∈ tWords, hKind w.1 ≠ 3) ∧ tMicro.fetchAll tWords [] = .ok (tFetched.1, tFetched.2) ∧
    tFetched.2.copyRoom 3 = .ok () ∧ 60 < tRoutine.beats :=
  ⟨by decide +kernel, by decide +kernel, by decide +kernel, by decide +kernel, by decide +kernel, by decide +kernel, by decide +kernel,
    tPair (by decide +kernel), tUnit (by decide +kernel), by decide +kernel⟩

theorem test_hyp_Microprograms_traps : let s := tMicroAt 256
    let r := s.fetchAll (ummaWords s.mRegs tRoutine.ops) []
    s.core.routine 256 = some tRoutine ∧ 256 ≤ (s.core.bank.readM 0).toNat ∧ NoHold r ∧ (∀ ops u, r = .ok (ops, u) → u.copyRoom 3 = .ok ()) := by
  refine ⟨by decide +kernel, by decide +kernel, tNoHold (by decide +kernel), fun ops u h => tUnit ?_⟩
  have g : (match (tMicroAt 256).fetchAll (ummaWords (tMicroAt 256).mRegs tRoutine.ops) [] with
    | .ok p => tOk (p.2.copyRoom 3)
    | _ => true) = true := by decide +kernel
  rw [h] at g
  exact g

/-- A BF16 operand tile. -/
def tTile : TileData := { tag := 2, elems := [0] }

/-- An MCALL in flight at its UMMA. -/
def tCall : MatOp :=
  { bank := 0, bundle := 0, seq := 4, dests := [(1, 63)], due := 70, routine := true, todo := [.umma 1 2 0 1 0 2 0, .uend], ms := [0, 0, 7, 64]
    operands := [{ handle := 7, tile := some tTile }] }

theorem test_hyp_Microprograms_ops :
    let s := { tMat with core := { tMat.core with matOps := [tCall] } }
    let u := s.focus 0
    let b := s.core.bankOf 0
    s.core.running' = some tCall ∧ (∀ q ∈ s.core.matOps, q.seq = tCall.seq → q = tCall) ∧
    (∃ p, tCall.operands.find? (fun p => p.handle = 7 ∧ p.ko = 0) = some p ∧ p.tile = some tTile ∧ p.failed = false) ∧ fnClass 2 = some [2, 3] ∧ tTile.ok = true ∧
    (tCall.tile b 2).2 = accTag 2 ∧ (tCall.tile b 1).2 = accTag 2 ∧ (tCall.tile b 2).2 = 1 ∧
    u.core.matOps.find? (fun p => p.seq = 4) = some tCall ∧ (∀ q ∈ u.core.matOps, q.seq = tCall.seq → q = tCall) ∧ tCall.library < 80 ∧
    u.core.bank.id ≠ u.core.other.id ∧ tCall.bank = u.core.bank.id :=
  ⟨by decide +kernel, by decide +kernel, ⟨_, rfl, rfl, rfl⟩, by decide +kernel⟩

/-! ### What the statements assume is met: relaxations and other J77s -/

/-- A machine that relaxes with tensor 7 and parameter word `par`, and the relaxation of its tiles `tz`, `tu` as read at its issue. -/
def tRelaxing (par : Word) : State := tRun { tMatBank with m := [(2, 7), (3, par)] }
def tRelaxAt (s : State) (tz tu : Nat) : RelaxRun := s.newRelax false tz tu 2 1 false
def tRelaxOf (par : Word) : RelaxRun := tRelaxAt (tRelaxing par) 0 1

/-- The same in a BC = 1 group of two cores. -/
def tSpanning (par : Word) : State :=
  { tRelaxing par with core := { (tRelaxing par).core with task := some { imlen := 65536, size := 2, bc := true } } }

/-- The checks of an issue as one test. -/
def tReachable (s : State) (r : RelaxRun) : Bool :=
  [tOk s.mFree, tOk (s.tilesFree true ((r.tiles ++ r.block r.tu).filter (· < 32))), decide (s.core.bank.tiles < 31),
    decide (hKind r.handle = 0), tOk (s.desc (hTid r.handle)), decide (tGot tD7 (s.desc (hTid r.handle)) = tD7),
    (r.block r.tz ++ r.block r.tu ++ (if r.back then r.block r.td else [])).all fun t => !decide (t < 32) || s.core.bank.tagT t == 1].all id

theorem tReaches {s : State} {r : RelaxRun} (h : tReachable s r = true) : RelaxReaches s r := by
  simp only [tReachable, List.all_cons, List.all_nil, id, Bool.and_eq_true, decide_eq_true_eq] at h
  obtain ⟨free, tiles, room, kind, desc, is, tags, -⟩ := h
  simp only [List.all_eq_true, Bool.or_eq_true, Bool.not_eq_true', decide_eq_false_iff_not, beq_iff_eq] at tags
  exact ⟨tUnit free, tUnit tiles, room, by rw [kind]; decide, fun _ => ⟨tD7, (tEq (d := tD7) desc).trans (congrArg _ is), by decide⟩,
    fun t ht l => (tags t ht).resolve_left fun n => n l⟩

theorem test_hyp_Relaxations :
    RelaxReaches (tRelaxing (BitVec.ofNat 64 (64 * 2 ^ 10))) (tRelaxOf (BitVec.ofNat 64 (64 * 2 ^ 10))) ∧
    RelaxReaches (tRelaxing 0) (tRelaxOf 0) ∧ RelaxReaches (tRelaxing 32) (tRelaxOf 32) ∧ RelaxReaches (tRelaxing 0) (tRelaxAt (tRelaxing 0) 31 31) ∧
    RelaxReaches (tSpanning (BitVec.ofNat 64 (16 + 64 * 2 ^ 10))) (tRelaxAt (tSpanning (BitVec.ofNat 64 (16 + 64 * 2 ^ 10))) 0 1) ∧
    (tRelaxing 0).copyRoom 3 = .ok () ∧ (tSpanning 0).copyRoom 3 = .ok () :=
  ⟨tReaches (by decide +kernel), tReaches (by decide +kernel), tReaches (by decide +kernel), tReaches (by decide +kernel), tReaches (by decide +kernel),
    tUnit (by decide +kernel), tUnit (by decide +kernel)⟩

theorem test_hyp_Relaxations_checks :
    let r := tRelaxOf (BitVec.ofNat 64 (64 * 2 ^ 10))
    let s := tRelaxing (BitVec.ofNat 64 (64 * 2 ^ 10))
    let g := tSpanning (BitVec.ofNat 64 (16 + 64 * 2 ^ 10))
    let q := tRelaxAt g 0 1
    r.blocksOk = true ∧ r.paramOk false = true ∧ r.rag = false ∧ r.nc * (r.nc * r.cores.length) = 1 ∧ r.cores = [s.core.id] ∧
    (tRelaxOf 0).blocksOk = true ∧ (tRelaxOf 0).paramOk false = false ∧
    (tRelaxOf 32).blocksOk = true ∧ (tRelaxOf 32).paramOk false = true ∧ (tRelaxOf 32).rag = true ∧ (tRelaxing 32).bgrp = none ∧
    (tRelaxAt (tRelaxing 0) 31 31).blocksOk = false ∧
    q.blocksOk = true ∧ q.paramOk true = true ∧ q.rag = false ∧ 1 ∈ q.cores ∧ 1 ≠ g.core.id ∧ (g.coreOf 1).relax = none ∧
    q.nc * (q.nc * q.cores.length) = 2 := by decide +kernel

/-- The operands of a relaxation, the refresh windows apart. -/
def tOps (s : State) (n : Nat) : Bool :=
  (List.range n).all fun k => tOk (({ s with windows := [] } : State).localOperand 7 (k / n) (k % n) k)

theorem test_hyp_Relaxations_tiles :
    (∀ k < 1, ∃ x, ({ tRelaxing (BitVec.ofNat 64 (64 * 2 ^ 10)) with windows := [] } : State).localOperand 7 (k / 1) (k % 1) k = .ok x) ∧
    ∀ k < 2, ∃ x, ({ tSpanning (BitVec.ofNat 64 (16 + 64 * 2 ^ 10)) with windows := [] } : State).localOperand 7 (k / 2) (k % 2) k = .ok x := by
  have f : ∀ {s : State} {n : Nat}, tOps s n = true → ∀ k < n, ∃ x, ({ s with windows := [] } : State).localOperand 7 (k / n) (k % n) k = .ok x :=
    fun h k hk => ⟨_, tEq (d := { handle := 0 }) (List.all_eq_true.1 h k (List.mem_range.2 hk))⟩
  exact ⟨f (by decide +kernel), f (by decide +kernel)⟩

theorem test_hyp_Relaxations_alone : ¬ IsBroadcast (tRelaxing 0) ∧ IsBroadcast (tSpanning 0) := by
  refine ⟨?_, ⟨_, rfl, rfl⟩⟩
  rintro ⟨t, h, k⟩
  cases (show some _ = some t from h)
  exact absurd k (by decide)

/-- A row of a relaxation, and a relaxation of it in phase `p`. -/
def tLive : RelaxRow := { row := 63, z := List.replicate 64 0 }
def tAt (p : Nat) : RelaxRun :=
  { tRelaxOf (BitVec.ofNat 64 (64 * 2 ^ 10)) with phase := p, cores := [0], rows := [tLive], itl := 64, passes := 1
                                                  operands := [{ handle := 7, tag := 2, tile := some tTile }] }

theorem test_hyp_Relaxations_steps :
    let s (p : Nat) := { tMat with core := { tMat.core with relax := some (tAt p) } }
    let o := { tMat with core := { tMat.core with relax := some { tAt 0 with itl := 0 } } }
    let n := { tMat with core := { tMat.core with relax := some { tAt 0 with rows := [] } } }
    ((s 0).focus 0).core.relax = some (tAt 0) ∧ (tAt 0).paused = false ∧ (tAt 0).parts.length ≤ 1 ∧ (tAt 0).phase = 0 ∧
    (tAt 0).cores = [((s 0).focus 0).core.id] ∧ (∃ x ∈ (tAt 0).rows, x.st = 1) ∧
    (((s 0).focus 0).core.bankOf (tAt 0).bank).sys.itc.toNat % 2 ^ 16 < (tAt 0).itl ∧ ((s 0).focus 0).core.preempt = none ∧
    (o.focus 0).core.relax = some { tAt 0 with itl := 0 } ∧ (tAt 0).pol = false ∧ (n.focus 0).core.relax = some { tAt 0 with rows := [] } ∧
    ((s 1).focus 0).core.relax = some (tAt 1) ∧ (tAt 1).phase = 1 ∧ (tAt 1).trap = none ∧ (∀ o ∈ (tAt 1).operands, o.tile ≠ none) ∧
    (tAt 1).tileTrap = none ∧ ((tAt 1).rows.map RelaxRow.row).Nodup ∧ (∀ x ∈ (tAt 1).rows, x.z.length = 64 * (tAt 1).nc) ∧
    (modesOf (tAt 1).fmode).te &&& 5 = 0 ∧ (modesOf (tAt 1).fmode).snt = false ∧ (∃ x ∈ (tAt 1).rows, x.st = 1) := by decide +kernel

theorem test_hyp_Relaxations_ends :
    let d := { tAt 2 with rows := [{ tLive with st := 2, y := List.replicate 64 7 }] }
    let f := { d with trap := some (own 0x09 0), write := false }
    let e := { d with trap := some { own 0x07 0 with fp := some 0 }, write := false }
    let w := { d with out := [0, 3], wrote := 17 }
    let s (r : RelaxRun) := { tMat with core := { tMat.core with relax := some r } }
    (∀ r ∈ [d, f, e, w], ((s r).focus 0).core.relax = some r ∧ r.cores = [((s r).focus 0).core.id] ∧ r.pausing = false ∧ r.blocksOk = true ∧
      r.rag = false ∧ (r.rows.map RelaxRow.row).Nodup ∧
      ∀ x ∈ r.rows, x.row < 64 * r.nr ∧ x.z.length = 64 * r.nc ∧ (x.y = [] ∨ x.y.length = 64 * r.nc)) ∧
    w.out[w.wrote / 16]? = some 3 ∧ 16 * d.out.length ≤ d.wrote ∧ d.trap = none ∧ d.write = true ∧
    (f.trap.map TrapReq.fp = some none) ∧ (e.trap.map TrapReq.fp = some (some 0)) ∧
    ∀ p ∈ (((s e).focus 0).core.bankOf e.bank).pending, p.fp ≠ some ((s e).focus 0).now := by decide +kernel

theorem test_hyp_Relaxations_absent :
    let s := { tMat with core := { tMat.core with relax := some (tAt 0) } }
    let u := { s with now := 2 ^ 20 }
    ((s.cores.filterMap Core.relax).filter fun q => q.leader = 0 && !q.started) = [tAt 0] ∧ s.now < (tAt 0).issued + 2 ^ 20 ∧
    ((u.cores.filterMap Core.relax).filter fun q => q.leader = 0 && !q.started) = [tAt 0] ∧ (tAt 0).issued + 2 ^ 20 ≤ u.now ∧
    ((tMat.cores.filterMap Core.relax).filter fun q => q.leader = 0 && !q.started) = [] := by decide +kernel

/-- A port-table entry: port 0, 32 lines, RTO 1000. -/
def tPort : Nat := 1 + 32 * 2 ^ 88 + 1000 * 2 ^ 96

/-- A machine with peer 31 in its port table, and operands of SEND and RECV: a line of tensor 4 with it. -/
def tPeer (p : Peer) (b : Bank) : State :=
  { tRun { b with g := [(2, 4), (3, 31 + 2 ^ 16), (4, 2 ^ 56), (5, 31 + 2 ^ 16 + 2 ^ 34), (6, 1)] } with
    ptbase := 1, ports := [(31, tPort)], peers := [(31, p)] }

theorem tWords' {recv : Bool} {x y : Nat} (h : x < 2 ^ 56 ∧ y / 2 ^ 5 % 2 ^ 11 = 0 ∧ y / 2 ^ 26 % 2 ^ 6 = 0 ∧ y < 2 ^ 35 ∧ y / 2 ^ 16 % 2 ^ 10 ≠ 0 ∧
    (y / 2 ^ 34 % 2 = 1 → recv = true ∧ y / 2 ^ 16 % 2 ^ 10 ≤ 64)) : PeerWords recv x y := h

theorem test_hyp_PeerExchange :
    let s := tPeer {} tBank
    let d := rangeOf (BitVec.ofNat 128 4) tD4
    s.xFree = .ok () ∧ PeerWords false (s.g 2).toNat (s.g 3).toNat ∧ PeerWords true (s.g 2).toNat (s.g 5).toNat ∧
    ((s.portEntry 31).1).isSome = true ∧ (s.portEntry 30).1 = none ∧ s.core.bank.sys.bgrp = 0xFF ∧
    s.desc 4 = .ok tD4 ∧ PeerTensor s 4 (s.g 3).toNat tD4 ∧ s.checkRange d 256 .read = .ok () ∧ s.checkRange d 256 .write = .ok () ∧
    s.core.bank.copies < 63 ∧ (s.peer 31).queue.length < 1 ∧ (s.peer 31).down = false :=
  ⟨tUnit (by decide +kernel), tWords' (by decide +kernel), tWords' (by decide +kernel), by decide +kernel, by decide +kernel, by decide +kernel,
    rfl, ⟨rfl, by decide +kernel⟩, tUnit (by decide +kernel), tUnit (by decide +kernel),
    by decide +kernel⟩

theorem test_hyp_PeerExchange_not :
    let s := tPeer { down := true, queue := [{ seq := 0, data := 9 }] } tBank
    ¬ PeerWords false (s.g 4).toNat (s.g 3).toNat ∧ ¬ PeerTensor s 1 (s.g 3).toNat tD1 ∧ s.desc 1 = .ok tD1 ∧ 1 ≤ (s.peer 31).queue.length ∧
    (s.peer 31).down = true :=
  ⟨fun h => absurd h.1 (by decide +kernel), fun h => absurd h.2.1 (by decide), rfl, by decide +kernel⟩

theorem test_hyp_PeerExchange_waits :
    let s := { tRun tBank with core := { (tRun tBank).core with recvFrom := some 0 }, now := 2 ^ 20 }
    let u := { s with now := 5 }
    let e := { tPeer {} tBank with core := { (tPeer {} tBank).core with fetched := [{ what := fetchRecv, addr := 0, data := 0 }] } }
    (s.focus 0).core.recvFrom = some 0 ∧ 0 + 2 ^ 20 ≤ s.now ∧ ((tRun tBank).focus 0).core.recvFrom = none ∧
    (u.focus 0).core.recvFrom = some 0 ∧ u.now < 0 + 2 ^ 20 ∧
    (e.core.fetchedOf fetchRecv 0).isSome = true ∧ (e.peer 31).queue.length < 1 ∧ (e.g 3).toNat / 2 ^ 34 % 2 = 0 ∧ (e.g 5).toNat / 2 ^ 34 % 2 = 1 ∧
    ({ e with core := { e.core with bank := { e.core.bank with sys := { e.core.bank.sys with bgrp := 0 } } } } : State).core.bank.sys.bgrp ≠ 0xFF := by
  decide +kernel

/-- A RECV that writes one line of tensor 4, its access numbered 9. -/
def tRecv (o : Nat) : State :=
  let x : Access := { seq := 9, kind := .recvLine, areg := 4, tid := if o = 0 then 4 else 5, desc := if o = 0 then tD4 else tD5, elems := [{ idx := 0, off := 0 }] }
  let b := if o = 0 then tBank else { tBank with spans := [] }
  { tRun { b with stq := [x] } with core := { (tRun { b with stq := [x] }).core with recvs := [{ id := 3, bank := 0, issue := 0, peer := 31, waits := [9] }] } }

theorem test_hyp_PeerExchange_lines :
    let q : RecvOp := { id := 3, bank := 0, issue := 0, peer := 31, waits := [9] }
    let mine (s : State) : List Access := ((s.focus 0).core.bankOf q.bank).stq.filter fun x => q.waits.contains x.seq
    ((tRecv 0).focus 0).core.recvs.find? (fun r => r.id = 3) = some q ∧ ((tRecv 0).focus 0).core.halted = false ∧
    (∃ x, mine (tRecv 0) = [x] ∧ x.held = false ∧ ((tRecv 0).focus 0).core.id = 0 ∧ (((tRecv 0).focus 0).view q.bank).lineSlots x = [] ∧
      (((tRecv 0).focus 0).translate x).2.1 = none) ∧
    (∃ x, mine (tRecv 1) = [x] ∧ x.held = false ∧ ((tRecv 1).focus 0).core.id = 0 ∧ (((tRecv 1).focus 0).view q.bank).lineSlots x = [] ∧
      (((tRecv 1).focus 0).translate x).2.1 ≠ none) ∧
    (let e := { tRecv 0 with core := { (tRecv 0).core with bank := { (tRecv 0).core.bank with stq := [] } } }
     (e.focus 0).core.recvs.find? (fun r => r.id = 3) = some q ∧ mine e = []) :=
  ⟨by decide +kernel, by decide +kernel, ⟨_, rfl, by decide +kernel⟩,
    ⟨_, rfl, by decide +kernel⟩, by decide +kernel⟩

/-- Two lines of a RECV. -/
theorem test_hyp_PeerExchange_two :
    let x : Access := { seq := 9, kind := .recvLine, areg := 4, tid := 4, desc := tD4, elems := [{ idx := 0, off := 0 }] }
    let y := { x with seq := 10, elems := [{ idx := 0, off := 256 }] }
    let q : RecvOp := { id := 3, bank := 0, issue := 0, peer := 31, waits := [9, 10] }
    let s := { tRun { tBank with stq := [x, y] } with core := { (tRun { tBank with stq := [x, y] }).core with recvs := [q] } }
    let u := s.focus 0
    u.core.recvs.find? (fun r => r.id = 3) = some q ∧ u.core.halted = false ∧ u.core.id = 0 ∧
    ((u.core.bankOf 0).stq.filter fun x => q.waits.contains x.seq) = [x, y] ∧ x.held = false ∧ y.held = false ∧ y.seq ≠ x.seq ∧
    (u.view 0).lineSlots x = [] ∧ (u.translate x).2.1 = none := by decide +kernel

theorem test_hyp_PeerExchange_frames :
    let l : PeerLine := { seq := 0, data := 9, core := 0, op := 2 }
    let y : SendOp := { id := 2, bank := 0, bundle := 0, issue := 0, peer := 31, src := rangeOf 4 tD4, areg := 4, lines := 1 }
    let p : Peer := { out := [l], sent := 1, resends := 15, next := 1 }
    let s := { tPeer p tBank with core := { (tPeer p tBank).core with sends := [y] } }
    let d := tPeer { p with down := true } tBank
    (d.peer 31).down = true ∧ (((s.portEntry 31).1).map Port.port = some 0) ∧ (32 : BitVec 6).toNat ≤ 32 ∧ (0 : BitVec 32).toNat = (s.peer 31).expect ∧
    (32 : BitVec 6).toNat ≤ s.freeLines 31 ∧ (s.peer 31).frames < 7 ∧ (s.peer 31).down = false ∧
    ((1 + 2 ^ 32 - ((s.peer 31).out.head?.map PeerLine.seq).getD (s.peer 31).next) % 2 ^ 32 = 1) ∧ 1 ≤ (s.peer 31).out.length ∧
    (s.peer 31).out.take 1 = [l] ∧ s.core.id = l.core ∧ s.core.sends.find? (fun z => z.id = l.op) = some y ∧ y.lines ≤ y.placed + 1 ∧
    (s.peer 31).out.head? = some l ∧ (s.peer 31).resends < 16 := by decide +kernel

theorem test_hyp_PeerExchange_timers :
    let l : PeerLine := { seq := 0, data := 9 }
    let s := { tPeer { out := [l], resends := 16, frames := 7 } tBank with now := 2500 }
    (((s.portEntry 31).1.map Port.rto).getD 1000) * 5 / 2 = 2500 ∧ (s.peer 31).moved + 2500 ≤ s.now ∧ (s.peer 31).out.head? = some l ∧
    16 ≤ (s.peer 31).resends ∧ (s.peer 31).frames ≠ 0 ∧ 7 ≤ (s.peer 31).frames ∧ (s.peer 30).out = [] ∧ (s.peer 30).frames = 0 ∧
    (tPeer { out := [l] } tBank).now < (s.peer 31).moved + 2500 := by decide +kernel

/-! ### Launches -/

/-- A record of one task of one core, tag 7. -/
def tRec : Nat := 65536 * 2 ^ 64 + 2 ^ 128 + 4 * 2 ^ 176 + (1 + 2 ^ 32 + 2 ^ 64 + 2 ^ 96 + 2 ^ 128 + 2 ^ 160) * 2 ^ 384 + 7 * 2 ^ 576

/-- Work queue 3 with one record, its ring at host address 0 of function 0. -/
def tWq : WorkQueue := { flags := 1, tail := 1, logn := 4, cbase := 2048, msix := 5 }

/-- A machine with that queue, its record in host memory where `there`. -/
def tHost (there : Bool) : State :=
  { tRun tBank with queues := [(3, tWq)], host := Memory.write [] 0 tRec 128
                    iommu := if there then [{ fn := 0, pasid := none, iova := 0, page := 0 }] else [] }

/-- The launch of the record from queue 3. -/
def tLaunch : Launch := parseLaunch 4 (tWq.source 3) tRec

/-- A machine with vacant cores where that launch waits. -/
def tPlace : State := { State.reset with cryo := (tRun tBank).cryo, launches := [{ tLaunch with deps := [] }] }

/-- A record in die 0's spawn queue. -/
def tSpawn : Machine.Spawn := { num := 9, words := tRec, src := { origin := .spawn none }, core := 0, bank := 0, issue := 4 }

theorem test_hyp_Launches_spawn :
    let s := tRun { tBank with g := [(3, 2 ^ 63), (4, 5), (5, 1)] }
    let good (x y : Nat) : Prop := x < 2 ^ 21 ∧ x % 128 = 0 ∧ (y < 2 ^ 56 ∨ y = 2 ^ 63)
    good (s.g 2).toNat (s.g 3).toNat ∧ good (s.g 2).toNat (s.g 4).toNat ∧ ¬ good (s.g 5).toNat (s.g 3).toNat ∧
    s.partsThere ((blocksOf 0 128).map Part.spad) = .ok () ∧ DestOk s (s.g 3).toNat none ∧
    DestOk s (s.g 4).toNat (some { tid := 5, desc := tD5, off := 0 }) ∧ (s.spawns.filter fun r => r.src.die = 0).length < 64 ∧
    s.core.task = some { imlen := 65536 } ∧
    64 ≤ (({ s with spawns := List.replicate 64 tSpawn } : State).spawns.filter fun r => r.src.die = 0).length :=
  ⟨by decide +kernel, by decide +kernel, by decide +kernel, tUnit (by decide +kernel), .inl ⟨by decide +kernel, rfl⟩,
    .inr ⟨by decide +kernel, tD5, rfl, rfl, rfl, rfl, by decide +kernel, by decide +kernel, tUnit (by decide +kernel), 0, 0, by decide +kernel⟩,
    by decide +kernel, rfl, by decide +kernel⟩

theorem test_hyp_Launches_queue :
    let may (s : State) : Prop := s.cryo.released = true ∧ (s.queue 3).en = true ∧ (s.queue 3).stopped = false ∧ (s.queue 3).unread ≠ 0 ∧ (s.queue 3).room = true
    may (tHost true) ∧ may (tHost false) ∧ ¬ may (tRun tBank) ∧ (tHost false).hostRead 0 none 0 128 = none ∧
    (tHost true).hostRead tWq.func tWq.under 0 128 = some tRec := by decide +kernel

theorem test_hyp_Launches_accepted :
    let s := tHost true
    let l := tLaunch
    (∀ m ∈ s.launches, m.id ≠ l.id ∧ l.tag ∉ m.deps) ∧ s.template l.src = .ok {} ∧ s.recordOk l tRec = true ∧
    s.recordOk { l with ntask := 0 } tRec = false ∧ ({ s with cryo := { s.cryo with band := 3 } }).cryo.band = 3 ∧
    (∀ d ∈ l.deps, s.dep l d ≠ .failed) ∧
    ({ s with ended := [{ fn := 0, tag := 6, status := 1, trig := false }] } : State).dep l 6 = .failed ∧
    ({ s with iommu := [] }).template { l.src with ctx := 64 } = .unread ∧
    s.hostAddr 0 none 2048 = some 2048 := by decide +kernel

theorem test_hyp_Launches_release :
    let s := { tRun tBank with spawns := [tSpawn] }
    let u := { tRun { tBank with stq := [{ tAcc .store with issue := 2 }] } with spawns := [tSpawn] }
    (s.coreOf 0).storesBefore 2 4 = false ∧ (u.coreOf 0).storesBefore 2 4 = true ∧ s.spawns = [tSpawn] ∧ u.spawns = [tSpawn] ∧ tSpawn.src.die = (0 : BitVec 2).toNat := by decide +kernel

theorem test_hyp_Launches_placement :
    let s := tPlace
    let l := { tLaunch with deps := [] }
    s.launches = [l] ∧ s.saved = [] ∧ l.deps = [] ∧ l.due ≤ s.now ∧ l.det = false ∧ s.mayPlace l.src.diag = true ∧ l.next = 0 ∧ l.waiting = [] ∧
    l.ntask = l.gsize ∧ s.search [] l = some 0 ∧ (∀ n ∈ posCores l.gsize 0, s.vacant n = true ∧ n ∉ s.retired) ∧
    s.busTaken l (posCores l.gsize 0) = false := by decide +kernel

/-- The launch in deterministic mode. -/
def tDet : Launch := { tLaunch with deps := [], ctrl := 32 }

theorem test_hyp_Launches_deterministic :
    let s := { tPlace with launches := [tDet], core := { tPlace.core with running := true } }
    let pos := tDet.position 0
    let u := { s with core := { s.core with id := pos } }
    u.launches = [tDet] ∧ u.saved = [] ∧ tDet.deps = [] ∧ tDet.due ≤ u.now ∧ tDet.next = 0 ∧ tDet.waiting = [] ∧
    tDet.det = true ∧ tDet.ntask = tDet.gsize ∧ s.mayPlace tDet.src.diag = true ∧ (∀ n ∈ posCores tDet.gsize pos, tPlace.vacant n = true) ∧
    (∃ n ∈ posCores tDet.gsize pos, u.vacant n = false) ∧ (∀ n ∈ posCores tDet.gsize pos, (u.coreOf n).preemptible tDet.level = false) := by
  decide +kernel

theorem test_hyp_Launches_starvation :
    let s := { tPlace with launches := [{ tLaunch with ntask := 2, next := 2 }] }
    let u := { tPlace with launches := [{ tLaunch with ntask := 2, next := 1 }] }
    s.launch? (4 : BitVec 64).toNat = some { tLaunch with ntask := 2, next := 2 } ∧ s.launch? (5 : BitVec 64).toNat = none ∧
    2 ≤ 2 * tLaunch.gsize ∧ u.launch? (4 : BitVec 64).toNat = some { tLaunch with ntask := 2, next := 1 } ∧ 1 * tLaunch.gsize < 2 := by
  decide +kernel

/-- A machine that runs the launch's one task, or the first of two. -/
def tEnds (n : Nat) : State :=
  { tRun tBank with launches := [{ tLaunch with ntask := n }]
                    core := { (tRun tBank).core with task := some { launch := 4, imlen := 65536 } } }

theorem test_hyp_Launches_end :
    let f (n : Nat) : Prop := let u := (tEnds n).focus 0
      let l : Launch := { tLaunch with ntask := n }
      u.core.task = some { launch := 4, imlen := 65536 } ∧ u.launch? 4 = some l ∧ (∀ m ∈ (tEnds n).launches, m.id = l.id → m = l) ∧
      u.groupCores u.core = [u.core] ∧ (∀ m ∈ (tEnds n).launches, l.tag ∉ m.deps) ∧ u.core.taskBank.use = .task
    f 1 ∧ f 2 ∧ tLaunch.ended + 1 + tLaunch.dead = 1 ∧ tLaunch.ended + 1 + tLaunch.dead ≠ 2 ∧ tLaunch.ended + (tLaunch.dead + 1) ≠ 2 ∧ (State.reset.focus 0).core.task = none := by
  decide +kernel

/-! ### Checkpoints -/

/-- A core a checkpoint of which has stopped, or not yet. -/
def tPre (stopped : Bool) (b : Bank) : State :=
  { tRun b with core := { (tRun b).core with preempt := some { kill := false, tag := 7, stopped := stopped } } }

theorem test_hyp_CheckpointAndReset :
    let f (p : Bool) (b : Bank) : Prop :=
      let c := (tPre p b).coreOf 0
      c.preempt = some { kill := false, tag := 7, stopped := p } ∧ c.task = some { imlen := 65536 } ∧ (tPre p b).domainCores c = [c] ∧
      c.bank.use = .task ∧ c.bank.area + 0x100000 + 0 * 0x400000 + 0x400000 ≤ hbmSize
    f false tBank ∧ f true tBank ∧ tBank.sys.tvec ≠ 0 ∧ f true { tBank with sys := { tBank.sys with tvec := 0 } } := by decide +kernel

/-- A machine with a group of core 0 saved. -/
def tSaved : State := { State.reset with saved := [{ launch := 4, prio := 0, cores := [(tRun tBank).core] }] }

theorem test_hyp_CheckpointAndReset_resume :
    (∀ x ∈ tSaved.saved, x.cores.head?.map Core.id ≠ some (5 : BitVec 8).toNat) ∧
    tSaved.saved.find? (fun x => x.cores.head?.map Core.id = some (0 : BitVec 8).toNat) =
      some { launch := 4, prio := 0, cores := [(tRun tBank).core] } ∧ (tRun tBank).core.bank.use = .task := by decide +kernel

/-! ### The strandline -/

theorem test_hyp_Strandline :
    let f (ctl x : Nat) : State := tRun { tBank with g := [(2, BitVec.ofNat 64 x)], sys := { tBank.sys with slctl := BitVec.ofNat 64 ctl } }
    let ctl (s : State) : Nat := s.core.bank.sys.slctl.toNat
    1 < ((f 0 2).g 2).toNat ∧ ((f 0 0).g 2).toNat = 0 ∧ ((f 5 1).g 2).toNat = 1 ∧ (ctl (f 5 1)).testBit 2 = true ∧
    ((f 1 1).g 2).toNat = 1 ∧ (ctl (f 1 1)).testBit 2 = false ∧ (ctl (f 1 1)).testBit 0 = true ∧ ((f 0 1).g 2).toNat = 1 ∧
    (ctl (f 0 1)).testBit 2 = false ∧ (ctl (f 0 1)).testBit 0 = false := by decide +kernel

/-- A path with one adopted edge. -/
def tPath : Path := { l := 40, chain := [{ num := 3, time := 20, event := 6, waiter := 0, pkind := 6, pid := 1, l := 10 }] }

theorem test_hyp_Strandline_chain :
    let s := { tRun { tBank with g := [(2, 1)], sys := { tBank.sys with slctl := 1 } } with core := { (tRun { tBank with g := [(2, 1)], sys := { tBank.sys with slctl := 1 } }).core with path := tPath } }
    (∀ e ∈ s.core.path.chain, SMap.get 0 s.edgeNum e.die ≤ e.num + 4096) ∧ s.core.path.chain.length < 65536 ∧
    s.core.path.chain[0]? = some { num := 3, time := 20, event := 6, waiter := 0, pkind := 6, pid := 1, l := 10 } := by decide +kernel

/-! ### The stack engines -/

theorem tEvery {α : Type} {f : α → Chk Unit} {l : List α} (h : (l.all fun x => tOk (f x)) = true) : ∀ x ∈ l, f x = .ok () :=
  fun x hx => tUnit (List.all_eq_true.mp h x hx)

theorem tPinned {c : EngineCmd} {r : EngineRef} {off n a : Nat}
    (h : ∀ k < n, (findSpan c.spans r.tid (off + k)).map (fun e => spanFrame e.raw + (off + k - e.start)) = some (a + k)) :
    Pinned c r off n fun k => a + k := by
  refine ⟨fun k hk => ?_, fun j _ k _ h => by simpa using h⟩
  obtain ⟨e, he, hf⟩ := Option.map_eq_some_iff.mp (h k hk)
  exact ⟨e, he, hf.symm⟩

theorem tApart {m n a b : Nat} (h : a + m ≤ b ∨ b + n ≤ a) : Apart m n (fun k => a + k) fun k => b + k :=
  fun j hj k hk e => by simp only at e; omega

/-- FP32 of 1,024 elements, INT32 and FP32 of 16 rows of 64, FP32 with an absent page, and the bytes of the flag lines. -/
def tE6 : Desc := { tag := 1, ext0 := 1024, nspan := 1, base := 0x9000 }
def tE7 : Desc := { tag := 8, ext0 := 64, ext1 := 16, nspan := 1, base := 0x9000 }
def tE8 : Desc := { tag := 1, ext0 := 64, ext1 := 16, nspan := 1, base := 0x9000 }
def tE9 : Desc := { tag := 1, ext0 := 64, ext1 := 16, nspan := 1, base := 0x9008 }

/-- Blocks: a BDRED of two sources, a BDIDX of one line and one command, with its table, a BDTOPK of one row. -/
def tRed : Nat := 2 + 64 * 2 ^ 32 + 6 * 2 ^ 64 + (5 + 0x8000 * 2 ^ 32) * 2 ^ 128 + 2 ^ 192 + (6 + 64 * 2 ^ 32) * 2 ^ 512 + (6 + 128 * 2 ^ 32) * 2 ^ 576
def tIdx (table : Nat) : Nat := 1 + 64 * 2 ^ 32 + table * 2 ^ 64 + 7 * 2 ^ 128 + (8 + 2 ^ 32) * 2 ^ 192 + (5 + 0x8000 * 2 ^ 32) * 2 ^ 256 + 2 ^ 320 +
  (2 ^ 63 + 2 ^ 52 + 2) * 2 ^ 512
def tTopk : Nat := 1 + 4 * 2 ^ 32 + 2 * 2 ^ 64 + 8 * 2 ^ 128 + (7 + 4 * 2 ^ 32) * 2 ^ 192 + (8 + 5 * 2 ^ 32) * 2 ^ 256 + (5 + 0x8000 * 2 ^ 32) * 2 ^ 320 + 2 ^ 384

/-- A machine that issues a command whose block has returned. -/
def tEngine (l : List Fetched) : State :=
  { tRun { tBank with descs := tDescs ++ [(6, tE6), (7, tE7), (8, tE8), (9, tE9)], g := [(2, 5), (3, 3), (4, 12), (5, 5 + 65000 * 2 ^ 32)] } with
    hbm := Memory.write [] 0x9000 1 8, core := { (tRun { tBank with descs := tDescs ++ [(6, tE6), (7, tE7), (8, tE8), (9, tE9)], g := [(2, 5), (3, 3), (4, 12), (5, 5 + 65000 * 2 ^ 32)] }).core with fetched := l } }

/-- The block's bytes as the core holds them. -/
def tBlock (data : Nat) : State := tEngine [{ what := fetchParams, addr := 5 * 2 ^ 24, data := data }]

/-- The parameter block, as an operand, and its bytes. -/
def tSelf : EngineRef := { off := 0, tid := 5, desc := tD5, coord := 0 }
def tBlockExtent (kind data : Nat) : Extent := { ref := tSelf, off := tSelf.at 0, len := blockLen kind (data % 2 ^ 32), mode := .read }

/-- A command with its block is sent. -/
def tSends (kind data : Nat) : Prop :=
  let s := tBlock data
  ∃ p sp, s.core.fetchedOf fetchParams (5 * 2 ^ 24 + 0) = some data ∧ s.blockThere tSelf (blockLen kind 0) = .ok () ∧
    s.blockThere tSelf (blockLen kind (data % 2 ^ 32)) = .ok () ∧ s.reaches (3 * 2 ^ 36) = .ok () ∧ fieldsOf s kind { tid := 5, data := data } = .ok p ∧
    (∀ r ∈ p.refs, s.permit r.1.tid r.1.desc r.2 = .ok ()) ∧
    p.extents.foldl (fun (r : Chk (List SpanEntry)) e => r.bind fun acc => s.pin acc e) (.ok []) = .ok sp ∧
    (∀ e ∈ tBlockExtent kind data :: p.extents, s.raceCheck e.ref.tid e.ref.desc (if e.mode = .read then .read else .write) (s.extentLocs e) = .ok ()) ∧
    (s.engine 3).lines + p.lines ≤ 64 ∧ (s.engine 3).busy = false

theorem tSend {kind data : Nat}
    (h0 : (tBlock data).core.fetchedOf fetchParams (5 * 2 ^ 24 + 0) = some data)
    (h : (tOk ((tBlock data).blockThere tSelf (blockLen kind 0)) && tOk ((tBlock data).blockThere tSelf (blockLen kind (data % 2 ^ 32))) &&
      tOk ((tBlock data).reaches (3 * 2 ^ 36))) = true)
    (h1 : tOk (fieldsOf (tBlock data) kind { tid := 5, data := data }) = true)
    (h2 : (let p := tGot { refs := [], extents := [] } (fieldsOf (tBlock data) kind { tid := 5, data := data })
      (p.refs.all fun r => tOk ((tBlock data).permit r.1.tid r.1.desc r.2)) &&
      tOk (p.extents.foldl (fun (r : Chk (List SpanEntry)) e => r.bind fun acc => (tBlock data).pin acc e) (.ok [])) &&
      ((tBlockExtent kind data :: p.extents).all fun e => tOk ((tBlock data).raceCheck e.ref.tid e.ref.desc (if e.mode = .read then .read else .write) ((tBlock data).extentLocs e))) &&
      decide (p.lines ≤ 64)) = true) : tSends kind data := by
  simp only [Bool.and_eq_true, decide_eq_true_eq] at h h2
  have h3 : ((tBlock data).engine 3).lines = 0 := rfl
  exact ⟨_, _, h0, tUnit h.1.1, tUnit h.1.2, tUnit h.2, tEq h1, tEvery h2.1.1.1, tEq (d := []) h2.1.1.2, tEvery h2.1.2, by rw [h3, Nat.zero_add]; exact h2.2, rfl⟩

theorem test_hyp_StackEngines_red : tSends 0 tRed := tSend (by decide +kernel) (by decide +kernel) (by decide +kernel) (by decide +kernel)
theorem test_hyp_StackEngines_idx : tSends 1 (tIdx 8) ∧ 0 + 64 + 64 * (tIdx 8 % 2 ^ 32) ≤ tD5.ext0 :=
  ⟨tSend (by decide +kernel) (by decide +kernel) (by decide +kernel) (by decide +kernel), by decide +kernel⟩
theorem test_hyp_StackEngines_topk : tSends 2 tTopk := tSend (by decide +kernel) (by decide +kernel) (by decide +kernel) (by decide +kernel)

theorem test_hyp_StackEngines_issue :
    let s := tEngine []
    s.xFree = .ok () ∧ (s.g 2).toNat < 2 ^ 56 ∧ (s.g 3).toNat < 12 ∧ 12 ≤ (s.g 4).toNat ∧ BlockTensor s 5 0 192 tD5 ∧
    s.desc 5 = .ok tD5 ∧ s.permit 5 tD5 .read = .ok () ∧
    s.blockThere tSelf (blockLen 0 0) = .ok () ∧
    s.core.fetchedOf fetchParams (5 * 2 ^ 24 + 0) = none ∧ s.desc 1 = .ok tD1 ∧ ¬ BlockTensor s 1 0 192 tD1 :=
  ⟨tUnit (by decide +kernel), by decide +kernel, by decide +kernel, by decide +kernel, ⟨rfl, rfl, rfl, rfl, rfl, rfl, by decide +kernel⟩, rfl, tUnit (by decide +kernel),
    tUnit (by decide +kernel), by decide +kernel, rfl, fun h => absurd h.2.2.1 (by decide +kernel)⟩

theorem test_hyp_StackEngines_block :
    (let d : Desc := { tD5 with ext0 := 192 }
     d.ext0 < 128 + 64 + 64 * (tIdx 8 % 2 ^ 32) ∧ BlockTensor { tBlock (tIdx 8) with core := { (tBlock (tIdx 8)).core with bank := { (tBlock (tIdx 8)).core.bank with descs := [(5, d)] } } } 5 128 64 d ∧ 1 ≤ tIdx 8 % 2 ^ 32 ∧ tIdx 8 % 2 ^ 32 ≤ 63) ∧ (1 : Nat) % 2 ^ 32 < 2 :=
  ⟨⟨by decide +kernel, ⟨rfl, rfl, rfl, rfl, rfl, rfl, by decide +kernel⟩, by decide +kernel⟩, by decide +kernel⟩

/-- A command at work, its spans pinned. -/
def tWork (kind data table : Nat) (t : Desc) : EngineCmd :=
  { kind := kind, block := data, core := 0, path := {}
    spans := [{ tid := 5, idx := 0, start := 0, raw := 1 }, { tid := 6, idx := 0, start := 0, raw := 1 }, { tid := 7, idx := 0, start := 0, raw := 1 }, { tid := 8, idx := 0, start := 0, raw := 1 }]
    refs := if kind = 0 then [{ off := 8, tid := 6, desc := tE6, coord := 0 }, { off := 0x10, tid := 5, desc := tD5, coord := 0x8000 },
        { off := 0x40, tid := 6, desc := tE6, coord := 64 }, { off := 0x48, tid := 6, desc := tE6, coord := 128 }]
      else if kind = 1 then [{ off := 8, tid := table, desc := t, coord := 0 }, { off := 0x10, tid := 7, desc := tE7, coord := 0 },
        { off := 0x18, tid := 8, desc := tE8, coord := 1 }, { off := 0x20, tid := 5, desc := tD5, coord := 0x8000 }]
      else [{ off := 0x10, tid := 8, desc := tE8, coord := 0 }, { off := 0x18, tid := 7, desc := tE7, coord := 4 },
        { off := 0x20, tid := 8, desc := tE8, coord := 5 }, { off := 0x28, tid := 5, desc := tD5, coord := 0x8000 }] }

/-- The engine of stack 3 with it. -/
def tBusy (busy : Bool) (c : EngineCmd) : State := { tEngine [] with engines := [(3, { queue := [c], busy := busy })] }

theorem test_hyp_StackEngines_work :
    ((tBusy false (tWork 0 tRed 0 tE6)).engine (3 : BitVec 4).toNat).busy = false ∧ ((tBusy false (tWork 0 tRed 0 tE6)).engine (3 : BitVec 4).toNat).queue ≠ [] ∧
    ((tBusy true (tWork 0 tRed 0 tE6)).engine (3 : BitVec 4).toNat).busy = true ∧ ((tRun tBank).engine (3 : BitVec 4).toNat).queue = [] := by decide +kernel

theorem test_hyp_StackEngines_BDRED :
    let c := tWork 0 tRed 0 tE6
    c.get 4 4 % 64 = 0 ∧ (c.ref 8).desc.tag = 1 ∧ (∀ k < c.get 0 4, (c.ref (0x40 + 8 * k)).desc.tag = 1) ∧ c.get 0 4 ≤ 16 ∧
    Pinned c (c.ref 8) ((c.ref 8).at 0) (4 * 64) (fun k => 0 + k) ∧ Pinned c (c.ref 0x10) ((c.ref 0x10).at 0) 64 (fun k => 0x8000 + k) ∧ c.get 4 4 = 64 ∧
    (∀ k < c.get 0 4, ∀ j < 4 * 64, (findSpan c.spans (c.ref (0x40 + 8 * k)).tid ((c.ref (0x40 + 8 * k)).at 0 + j)).map
      (fun x => spanFrame x.raw + ((c.ref (0x40 + 8 * k)).at 0 + j - x.start)) = some (256 * k + 256 + j)) ∧
    Apart (4 * 64) 64 (fun k => 0 + k) (fun k => 0x8000 + k) ∧ (∀ k < 2, Apart (4 * 64) (4 * 64) (fun j => 0 + j) fun j => (256 * k + 256) + j) ∧
    (∃ k < c.get 0 4, ∃ b < 256, 256 * k + 256 + (256 * 0 + b) ∈ [(300 : BitVec 40)].map BitVec.toNat) ∧ 0 < c.get 4 4 / 64 :=
  ⟨by decide +kernel, by decide +kernel, by decide +kernel, by decide +kernel, tPinned (by decide +kernel), tPinned (by decide +kernel), by decide +kernel,
    by decide +kernel, tApart (by decide +kernel), fun k _ => tApart (by omega), ⟨0, by decide +kernel, 44, by decide, by decide⟩,
    by decide +kernel⟩

/-- Bytes of an operand from `off` lie outside addresses `lo` to `hi - 1`, and so does the span entry that a walk for them reads. -/
def tKept (c : EngineCmd) (r : EngineRef) (m : Memory) (lo hi off n : Nat) : Bool :=
  (List.range n).all fun j =>
    ((findSpan c.spans r.tid (off + j)).isSome || (decide (r.desc.nspan = 1) && decide (r.desc.base + 8 ≤ lo ∨ hi ≤ r.desc.base))) &&
    (c.addr m r (off + j)).all fun a => decide (a < lo ∨ hi ≤ a)

theorem tAddr {c : EngineCmd} {r : EngineRef} {m k : Memory} {lo hi off : Nat} (e : ∀ a, a < lo ∨ hi ≤ a → k.byte a = m.byte a)
    (h : (findSpan c.spans r.tid off).isSome = true ∨ (r.desc.nspan = 1 ∧ (r.desc.base + 8 ≤ lo ∨ hi ≤ r.desc.base))) :
    c.addr k r off = c.addr m r off := by
  unfold EngineCmd.addr
  split
  · rfl
  · rename_i n
    obtain ⟨h1, h2⟩ := h.resolve_left (by simp [n])
    have g : Memory.read k r.desc.base 8 = Memory.read m r.desc.base 8 :=
      Memory.read_congr fun b h3 h4 => e b (by omega)
    simp only [h1, walkSpans, Nat.mul_zero, Nat.add_zero, g]

theorem tRead {c : EngineCmd} {r : EngineRef} {m k : Memory} {lo hi : Nat} (e : ∀ a, a < lo ∨ hi ≤ a → k.byte a = m.byte a) :
    ∀ {n off : Nat}, (∀ j < n, ((findSpan c.spans r.tid (off + j)).isSome = true ∨ (r.desc.nspan = 1 ∧ (r.desc.base + 8 ≤ lo ∨ hi ≤ r.desc.base))) ∧
      ∀ a, c.addr m r (off + j) = some a → a < lo ∨ hi ≤ a) → c.read k r off n = c.read m r off n
  | 0, _, _ => rfl
  | n + 1, off, h => by
    have h0 := h 0 (by omega)
    have g : c.read k r (off + 1) n = c.read m r (off + 1) n := tRead e fun j hj => by
      have := h (j + 1) (by omega)
      rwa [show off + (j + 1) = off + 1 + j by omega] at this
    simp only [Nat.add_zero] at h0
    simp only [EngineCmd.read, g, tAddr e h0.1]
    cases q : c.addr m r off with
    | none => rfl
    | some a => simp only [e a (h0.2 a q)]

theorem tKeeps {c : EngineCmd} {r : EngineRef} {m k : Memory} {lo n off w : Nat} (h : tKept c r m lo (lo + w) off n = true)
    (e : ∀ a, (∀ j < w, lo + j ≠ a) → k.byte a = m.byte a) : c.read k r off n = c.read m r off n := by
  refine tRead (lo := lo) (hi := lo + w) (fun a ha => e a fun j hj => by omega) fun j hj => ?_
  have g := List.all_eq_true.1 h j (List.mem_range.2 hj)
  simp only [Bool.and_eq_true, Bool.or_eq_true, decide_eq_true_eq, Option.all_eq_true] at g
  exact g

/-- The bytes that a BDIDX of one index reads lie outside its row of OUT. -/
theorem tOutApart {c : EngineCmd} {m : Memory} {lo w : Nat}
    (h : (tKept c (c.ref 0x10) m lo (lo + w) ((c.ref 0x10).at (0 + 0)) 4 && (List.range 64).all fun e =>
      tKept c (c.ref 8) m lo (lo + w) ((c.ref 8).cell (signed 32 (c.read m (c.ref 0x10) ((c.ref 0x10).at (0 + 0)) 4)).toNat e) 4) = true) :
    ∀ k : Memory, (∀ a, (∀ j < w, lo + j ≠ a) → k.byte a = m.byte a) → ∀ n < 1,
      c.read k (c.ref 0x10) ((c.ref 0x10).at (0 + n)) 4 = c.read m (c.ref 0x10) ((c.ref 0x10).at (0 + n)) 4 ∧
      ∀ e < 64, c.read k (c.ref 8) ((c.ref 8).cell (signed 32 (c.read m (c.ref 0x10) ((c.ref 0x10).at (0 + n)) 4)).toNat e) 4 =
        c.read m (c.ref 8) ((c.ref 8).cell (signed 32 (c.read m (c.ref 0x10) ((c.ref 0x10).at (0 + n)) 4)).toNat e) 4 := by
  intro k e n hn
  obtain rfl : n = 0 := by omega
  simp only [Bool.and_eq_true, List.all_eq_true, List.mem_range] at h
  exact ⟨tKeeps h.1 e, fun x hx => tKeeps (h.2 x hx) e⟩

theorem test_hyp_StackEngines_apart :
    let f (table : Nat) (t : Desc) : Prop :=
      let c := tWork 1 (tIdx table) table t
      let m := (tEngine []).hbm
      ∀ k : Memory, (∀ a, (∀ j < 4 * 64, 768 + j ≠ a) → k.byte a = m.byte a) → ∀ n < 1,
        c.read k (c.ref 0x10) ((c.ref 0x10).at (0 + n)) 4 = c.read m (c.ref 0x10) ((c.ref 0x10).at (0 + n)) 4 ∧
        ∀ e < 64, c.read k (c.ref 8) ((c.ref 8).cell (signed 32 (c.read m (c.ref 0x10) ((c.ref 0x10).at (0 + n)) 4)).toNat e) 4 =
          c.read m (c.ref 8) ((c.ref 8).cell (signed 32 (c.read m (c.ref 0x10) ((c.ref 0x10).at (0 + n)) 4)).toNat e) 4
    f 8 tE8 ∧ f 9 tE9 :=
  ⟨tOutApart (by decide +kernel), tOutApart (by decide +kernel)⟩

theorem test_hyp_StackEngines_BDIDX :
    let f (table : Nat) (t : Desc) : Prop :=
      let c := tWork 1 (tIdx table) table t
      idxCmds c.block (c.get 0 4) = [{ pos := 0, cnt := 1, p := 0, row := 2 }] ∧ (c.ref 0x18).desc.tag = 1 ∧ (c.ref 8).desc.tag = 1 ∧
      Pinned c (c.ref 0x18) ((c.ref 0x18).cell 2 0) (4 * 64) (fun k => 768 + k) ∧ Pinned c (c.ref 0x20) ((c.ref 0x20).at 0) 64 (fun k => 0x8000 + k) ∧
      c.get 4 4 = 64 ∧ Apart (4 * 64) 64 (fun k => 768 + k) (fun k => 0x8000 + k)
    f 8 tE8 ∧ f 9 tE9 ∧
    (let c := tWork 1 (tIdx 8) 8 tE8
     ∀ b < 256, (c.addr (tEngine []).hbm (c.ref 8) ((c.ref 8).cell 0 0 + b)).isSome = true) ∧
    (let c := tWork 1 (tIdx 9) 9 tE9
     signed 32 (c.read (tEngine []).hbm (c.ref 0x10) ((c.ref 0x10).at 0) 4) = 0 ∧ c.addr (tEngine []).hbm (c.ref 8) ((c.ref 8).cell 0 0) = none) :=
  ⟨⟨by decide +kernel, rfl, rfl, tPinned (by decide +kernel), tPinned (by decide +kernel), by decide +kernel, tApart (by decide +kernel)⟩,
    ⟨by decide +kernel, rfl, rfl, tPinned (by decide +kernel), tPinned (by decide +kernel), by decide +kernel, tApart (by decide +kernel)⟩,
    by decide +kernel⟩

theorem test_hyp_StackEngines_BDTOPK :
    let c := tWork 2 tTopk 0 tE8
    c.get 0 4 = 1 ∧ c.get 9 1 = 0 ∧ (c.ref 0x18).desc.tag = 8 ∧ (c.ref 0x20).desc.tag = 1 ∧ c.get 8 1 = 2 ∧ c.get 4 4 < 2 ^ 32 ∧
    Pinned c (c.ref 0x18) ((c.ref 0x18).cell 0 0) (4 * 2) (fun k => 1024 + k) ∧ Pinned c (c.ref 0x20) ((c.ref 0x20).cell 0 0) (4 * 2) (fun k => 1280 + k) ∧
    Pinned c (c.ref 0x28) ((c.ref 0x28).at 0) 64 (fun k => 0x8000 + k) ∧ Apart (4 * 2) (4 * 2) (fun k => 1024 + k) (fun k => 1280 + k) ∧
    Apart (4 * 2) 64 (fun k => 1024 + k) (fun k => 0x8000 + k) ∧ Apart (4 * 2) 64 (fun k => 1280 + k) (fun k => 0x8000 + k) :=
  ⟨by decide +kernel, by decide +kernel, rfl, rfl, by decide +kernel, by decide +kernel, tPinned (by decide +kernel), tPinned (by decide +kernel),
    tPinned (by decide +kernel), tApart (by decide +kernel), tApart (by decide +kernel), tApart (by decide +kernel)⟩

/-! ### Sampling and requests -/

/-- A machine with the request of RQID 9 in slot 1 of group 0, its row live for the core, and row 0 of the CRF bound to it. -/
def tReq (words : SMap Nat) (g : SMap Word) (e : List (Nat × Nat)) : State :=
  let b : Bank := { tBank with g := g, sys := { tBank.sys with bgrp := 0, svoc := 1000 }, vtag := [(1, 1), (2, 8)]
                               crf := [(0, { entries := e, bound := some (1, 9) })] }
  { tRun b with core := { (tRun b).core with map := some (0, Memory.write [] 538 1 2) }, rqbase := 1
                groups := [(0, { nslot := 4, slots := [(1, some { idx := 9, words := words })] })] }

/-- A request's record that decodes, of TOPK 40, the temperature given, with a stop string of one byte, DRAFT 1 if `tree`. -/
def tWords0 (fcode temp : Nat) (tree : Bool) : SMap Nat :=
  [(0, 9 + 2 * 2 ^ 32 + fcode * 2 ^ 56), (1, 100), (2, 50), (8, 2 ^ 4 + 2 ^ 8 + 40 * 2 ^ 56), (9, temp)] ++ (if tree then [(11, 2 ^ 32)] else [])

theorem tTrap {α : Type} {x : Chk α} {f : TrapReq} (h : (match x with
    | .error (.trap g) => decide (g = f)
    | _ => false) = true) : x = .error (.trap f) := by
  split at h
  · rw [of_decide_eq_true h]
  · cases h

theorem test_hyp_Sampling_file :
    let s := tReq (tWords0 0 0 false) [(2, 5), (3, 2 ^ 9), (4, 256), (5, 2 ^ 32)] [(0x3F800000, 4), (0, 5)]
    ((s.g 2).toNat / 2 ^ 9 % 2 ^ 23 = 0 ∧ (s.g 2).toNat.testBit 8 = false ∧ (s.g 3).toNat / 2 ^ 9 % 2 ^ 23 ≠ 0 ∧ (s.g 4).toNat.testBit 8 = true ∧
      s.bgrp ≠ none ∧ s.rqEn = true ∧ s.tag 1 = 1 ∧ s.tag 2 ≠ 1 ∧ (s.g 2).toNat < 2 ^ 32 ∧ 2 ^ 32 ≤ (s.g 5).toNat) ∧
    (s.crf 0).bound = some (1, 9) ∧ s.rowLive 1 = true ∧ s.rowLive 2 = false ∧
    (s.crf 0).entries.Pairwise (fun f e => before e f = false) ∧ (∀ e ∈ (s.crf 0).entries, (v32 e.1).isNan = false) ∧
    (tRun tBank).bgrp = none := by decide +kernel

theorem test_hyp_Sampling_max :
    max32 0x3F800000 ((pairwise max32 6 []).headD negInf32) ≠ negInf32 ∧ max32 negInf32 ((pairwise max32 6 []).headD negInf32) = negInf32 ∧
    max32 posInf32 ((pairwise max32 6 []).headD negInf32) = posInf32 ∧ max32 0x3F800000 ((pairwise max32 6 []).headD negInf32) ≠ posInf32 := by decide +kernel

theorem test_hyp_Sampling_SDRAW :
    let f (fcode temp : Nat) (e : List (Nat × Nat)) : State := tReq (tWords0 fcode temp false) [(3, 64)] e
    let s := f 0 0x3F800000 [(0x40000000, 4), (0x3F800000, 5)]
    (∀ r, (s.group 0).seat 1 = some r → r = { idx := 9, words := tWords0 0 0x3F800000 false }) ∧
    s.bgrp = some 0 ∧ s.rqEn = true ∧ (s.g 2).toNat < 64 ∧ 64 ≤ (s.g 3).toNat ∧ (s.crf 0).bound = some (1, 9) ∧ (s.crf 1).bound = none ∧
    s.rowLive 1 = true ∧ (f 0 0 []).rowLive 2 = false ∧
    (s.group 0).seat 1 = some { idx := 9, words := tWords0 0 0x3F800000 false } ∧
    (let r : Seat := { idx := 9, words := tWords0 0 0x3F800000 false }
     r.rqid = 9 ∧ isBreakwater r.fcode = false ∧ ((s.crf 0).entries.take (r.word 8 / 2 ^ 56 % 2 ^ 7)).head? = some (0x40000000, 4) ∧
      gt32 (r.word 9 % 2 ^ 32) 0 = true ∧ (v32 (r.word 9 % 2 ^ 32)).isFinite = true) ∧
    (let r : Seat := { idx := 9, words := tWords0 2 0 false }
     isBreakwater r.fcode = true ∧ ¬ (gt32 (r.word 9 % 2 ^ 32) 0 = true ∧ (v32 (r.word 9 % 2 ^ 32)).isFinite = true)) ∧
    ((f 0 0 []).crf 0).entries = [] :=
  ⟨fun _ h => (Option.some.inj h).symm, by decide +kernel⟩

theorem test_hyp_Sampling_selector :
    let s := tReq (tWords0 0 0 false) [(2, 1 + 9 * 2 ^ 32), (3, 7), (4, 1 + 2 ^ 8), (5, 1)] []
    let r : Seat := { idx := 9, words := tWords0 0 0 false }
    s.selector (s.g 2).toNat = .ok { grp := 0, slot := 1, rqid := 9, seat := some r } ∧
    s.selector (s.g 5).toNat = .ok { grp := 0, slot := 1, rqid := 0, seat := none } ∧
    s.selector (s.g 3).toNat = .error (.trap (requestFault 2)) ∧ s.bgrp = some 0 ∧ s.rqEn = true ∧
    (s.group 0).nslot ≤ 7 ∧ (s.group 0).seat 7 = none ∧ (s.g 4).toNat / 2 ^ 8 % 2 ^ 24 ≠ 0 ∧ (s.g 2).toNat % 2 ^ 8 < (s.group 0).nslot ∧
    s.tag 1 = 1 ∧ s.tag 2 = 8 :=
  ⟨tIs (by decide +kernel), tIs (by decide +kernel), tTrap (by decide +kernel), by decide +kernel⟩

theorem test_hyp_Sampling_SMATCH :
    let s := tReq (tWords0 0 0 false) [(2, 2 ^ 56), (3, 8 * 2 ^ 56), (4, 2 ^ 60)] []
    let r : Seat := { idx := 9, words := tWords0 0 0 false }
    (s.g 2).toNat / 2 ^ 56 % 2 ^ 4 = 1 ∧ (s.g 2).toNat < 2 ^ 60 ∧ 7 < (s.g 3).toNat / 2 ^ 56 % 2 ^ 4 ∧ 2 ^ 60 ≤ (s.g 4).toNat ∧
    isBreakwater r.fcode = false ∧ 0 < r.word 8 / 2 ^ 4 % 2 ^ 3 ∧ isBreakwater ({ idx := 9, words := tWords0 2 0 false } : Seat).fcode = true ∧ 0 ≤ 0 + 1 := by
  decide +kernel

theorem test_hyp_Sampling_SPEN :
    let s := tReq (tWords0 0 0 false) [(2, 2 ^ 38 + 3), (3, 2 ^ 39), (4, 5)] []
    let r : Seat := { idx := 9, words := tWords0 0 0 false }
    let n : Named := { grp := 0, slot := 1, rqid := 9, seat := some r }
    s.draftTree r = .ok 0 ∧ (s.g 2).toNat < 2 ^ 39 ∧ (s.g 2).toNat.testBit 38 = true ∧ 2 ^ 39 ≤ (s.g 3).toNat ∧ n.usable = some r ∧
    ({ n with seat := none } : Named).usable = none ∧ r.draft + 512 ≤ hbmSize :=
  ⟨rfl, by decide +kernel⟩

theorem test_hyp_Sampling_SACCEPT :
    let f (fcode left prefill : Nat) : Seat := { idx := 9, words := [(0, 9 + 2 * 2 ^ 32 + fcode * 2 ^ 56), (1, 100 + prefill * 2 ^ 32), (2, left)] }
    let r : Seat := { idx := 9, words := tWords0 0 0 true }
    let s := tReq (tWords0 0 0 true) [] []
    let u := { s with core := { s.core with fetched := [{ what := fetchTree, addr := 256, data := 0 }] } }
    u.draftTree r = .ok 0 ∧ (f 2 0 0).fcode ≠ 0 ∧ (f 0 0 0).word 2 % 2 ^ 24 = 0 ∧ (f 0 5 3).fcode = 0 ∧ (f 0 5 3).word 2 % 2 ^ 24 ≠ 0 ∧ 0 < (f 0 5 3).prefill ∧
    r.fcode = 0 ∧ r.word 2 % 2 ^ 24 ≠ 0 ∧ r.prefill = 0 ∧ r.draft ≠ 0 ∧ r.draft + 512 ≤ hbmSize ∧ (u.group 0).boundary = none ∧
    (u.group 0).seat 1 = some r ∧ r.rqid = 9 ∧ r.word 13 < 2 ^ 64 :=
  ⟨tIs (by decide +kernel), by decide +kernel⟩

theorem test_hyp_RequestsAndBoundaries :
    let s := tReq (tWords0 0 0 false) [(2, 2 ^ 9), (3, 2 ^ 8), (4, 1 + 9 * 2 ^ 32), (5, 7), (6, 1)] []
    s.bgrp = some 0 ∧ s.rqEn = true ∧ (tRun tBank).bgrp = none ∧ (tRun tBank).core.bank.sys.slctl.toNat.testBit 2 = false ∧
    2 ^ 9 ≤ (s.g 2).toNat ∧ (s.g 3).toNat < 2 ^ 9 ∧ (s.g 3).toNat.testBit 8 = true ∧ (s.g 5).toNat < 2 ^ 8 ∧ (s.g 6).toNat < 2 ^ 8 ∧
    1 < (s.group 0).nslot ∧ ¬ (7 < (s.group 0).nslot ∨ (s.group 0).seat 7 ≠ none) ∧ (s.g 3).toNat / 2 ^ 8 % 2 ^ 24 ≠ 0 ∧
    (s.g 4).toNat / 2 ^ 8 % 2 ^ 24 = 0 ∧ (s.g 4).toNat / 2 ^ 32 = 9 ∧ (8 : BitVec 6).toNat ∈ [8, 9, 10, 11, 15] ∧ (7 : BitVec 6).toNat ∉ [8, 9, 10, 11, 15] ∧
    (s.group 0).seat 1 = some { idx := 9, words := tWords0 0 0 false } ∧ ({ idx := 9, words := tWords0 0 0 false } : Seat).rqid = 9 ∧
    ({ idx := 9, words := tWords0 0 0 false } : Seat).rqid ≠ (s.g 6).toNat / 2 ^ 32 ∧ (s.group 0).boundary = none ∧
    (s.core.map.map Prod.fst) = some (s.group 0).step ∧ ({ idx := 9, words := tWords0 0 0 false } : Seat).word 9 < 2 ^ 64 := by decide +kernel

theorem test_hyp_RequestsAndBoundaries_acquire :
    let r : Result := { write := .g 1 0, dom := .ctl, due := 0, seq := 0, bundle := 0, rank := 0, acquire := some { grp := 0, step := 4, published := 0, map := [] } }
    let s (step : Nat) := { tRun { tBank with inflight := [r] } with core := { (tRun { tBank with inflight := [r] }).core with map := some (step, []) } }
    ∀ step ∈ [3, 4], let c := ((s step).focus 0).core
      c.bank.inflight = [r] ∧ DueNow c r ∧ ¬ Excepts r ∧ c.map.map Prod.fst = some step := by
  simp only [DueNow, Excepts]
  decide +kernel

theorem test_hyp_RequestsAndBoundaries_step :
    let s := tReq [] [(2, 0), (3, 5)] []
    let u := tReq [] [] []
    let w := { u with groups := [(0, { boundary := some { desc := 0 } })], core := { u.core with map := none } }
    (s.g 2).toNat = 0 ∧ (s.g 3).toNat ≠ 0 ∧ (s.group 0).boundary = none ∧ s.region + 0x2000000 + 64 * 0 + 64 ≤ hbmSize ∧
    s.core.bank.sys.slctl.toNat.testBit 2 = false ∧ (w.group 0).boundary ≠ none ∧ w.core.map = none := by decide +kernel

/-- A descriptor in range: four slots, one token a step, pages of 16 tokens, chunks of 512, 64 pages a request. -/
def tDescriptor : Nat := 4 + 2 ^ 16 + 16 * 2 ^ 32 + 512 * 2 ^ 64 + 100 * 2 ^ 96 + 64 * 2 ^ 128

/-- A boundary with that descriptor. -/
def tBound (d : Nat) (g : Group) : State :=
  { tReq [] [] [] with groups := [(0, { g with boundary := some { desc := d } })] }

theorem test_hyp_RequestsAndBoundaries_range :
    let f (d off n : Nat) : Nat := d / 256 ^ off % 256 ^ n
    let ok (d : Nat) : Prop := f d 0 2 ≤ 256 ∧ 1 ≤ f d 2 2 ∧ f d 2 2 ≤ 65 ∧ 1 ≤ f d 4 4 ∧ f d 4 4 ≤ 65536 ∧ 1 ≤ f d 8 4 ∧ f d 8 4 ≤ 65536 ∧ 1 ≤ f d 0x10 4 ∧ f d 0x10 4 ≤ 2 ^ 24
    ok tDescriptor ∧ ¬ ok 0 ∧ ((tBound 0 {}).group (0 : BitVec 4).toNat).boundary = some { desc := 0 } ∧ ((tBound 0 {}).group 0).held = [] ∧
    (tBound 0 {}).rqbase.toNat / 2 ^ 26 % 2 ^ 14 * 2 ^ 26 + 2 ^ 26 ≤ hbmSize ∧ (tBound 0 {}).lates.headD 0 = 0 ∧
    (((tBound tDescriptor {}).group 0).boundary = some { desc := tDescriptor }) ∧ f tDescriptor 0x18 8 = f tDescriptor 0x20 8 ∧ ((tBound 0 {}).group 0).waiting = [] ∧ ((tReq [] [] []).group 3).boundary = none := by
  decide +kernel

theorem test_hyp_RequestsAndBoundaries_rows :
    let g (fcode : Nat) : Group := { slots := [(1, some { idx := 9, words := [(0, 9 + 2 * 2 ^ 32 + fcode * 2 ^ 56), (1, 100), (3, 7 * 2 ^ 32)] })] }
    let r (fcode : Nat) : Seat := { idx := 9, words := [(0, 9 + 2 * 2 ^ 32 + fcode * 2 ^ 56), (1, 100), (3, 7 * 2 ^ 32)] }
    ((tBound tDescriptor (g 0x10)).group 0).slots = [(1, some (r 0x10))] ∧ (r 0x10).cancel = false ∧ 0x10 ≤ (r 0x10).fcode ∧ (r 0x10).idx < 65536 ∧
    ((tBound tDescriptor (g 0)).group 0).slots = [(1, some (r 0))] ∧ (r 0).cancel = false ∧ (r 0).retreq = false ∧ (r 0).fcode = 0 ∧ (r 0).state = 2 ∧
    (r 0).prefill = 0 ∧ ((r 0).pos + 1 + 16 - 1) / 16 ≤ (r 0).pageCnt ∧ ((r 0).pos + 1 + 16 - 1) / 16 ≤ 64 := by decide +kernel

/-- A request that waits: record 9, its prompt of five tokens, and a pool of 100 pages. -/
def tWaits : State :=
  { tBound tDescriptor { waiting := [(9, 0)] } with
    hbm := Memory.write (Memory.write (Memory.write (Memory.write (Memory.write [] (512 * 9) (9 + 2 ^ 32) 8) (512 * 9 + 8) (5 * 2 ^ 32) 8) (512 * 9 + 16) 50 8)
      (512 * 9 + 64) (40 * 2 ^ 56) 8) 0x2000408 100 4 }

theorem test_hyp_RequestsAndBoundaries_admission :
    let s := tWaits
    let r : Seat := { idx := 9, words := SMap.tabulate 0 (List.range 64) fun w => s.hbm.read (s.region + 512 * 9 + 8 * w) 8 &&& recordMask w }
    let ntok := if 0 < r.prefill then min r.prefill 512 else 1
    let need := (ntok + 16 - 1) / 16
    s.rqbase.toNat / 2 ^ 26 % 2 ^ 14 * 2 ^ 26 = s.region ∧ (s.group 0).slots = [] ∧ (s.group 0).waiting = [(9, 0)] ∧ admissible 0 r = true ∧ need ≤ s.hbm.read (s.region + 0x2000408) 4 ∧ need ≤ 100 ∧ need < 2 ^ 24 := by
  decide +kernel

/-! ### The host -/

theorem test_hyp_HostRequests :
    let s := tHost true
    let w := s.queue (3 : BitVec 12).toNat
    (5 : BitVec 5) ≠ 0 ∧ w.func ≠ (5 : BitVec 5).toNat ∧ w.func = (0 : BitVec 5).toNat ∧
    2 ^ w.logn < ((100 : BitVec 32).toNat + 2 ^ 32 - w.head) % 2 ^ 32 ∧ ((9 : BitVec 32).toNat + 2 ^ 32 - w.head) % 2 ^ 32 ≤ 2 ^ w.logn ∧
    w.flags.testBit 0 = true ∧ (0 : BitVec 64).toNat.testBit 0 = false ∧ (0x34 : BitVec 6) ≠ 0x1B := by decide +kernel

theorem test_hyp_HostRequests_configuration :
    let f (l : Nat) : WorkQueue := (({ tRun tBank with queues := [(3, { logn := l })] }).queue (3 : BitVec 12).toNat)
    let right (w : WorkQueue) : Prop := 4 ≤ w.logn ∧ w.logn ≤ 16 ∧ w.func ≤ 16 ∧ (6 : BitVec 8).toNat < 8 ∧ w.pasid < 2 ^ 20
    ¬ (f 5).flags.testBit 0 = true ∧ right (f 5) ∧ ¬ right (f 3) ∧ (0 : BitVec 2) ≠ 1 ∧ (2 : BitVec 2) ≠ 1 := by decide +kernel

theorem test_hyp_HostRequests_reset :
    let l : Launch := { tLaunch with src := { tLaunch.src with fn := 5, origin := .spawn none } }
    let s := { tPlace with launches := [l] }
    s.launches = [l] ∧ l.src.fn = (5 : BitVec 5).toNat ∧ s.spawns = [] ∧ (∀ e ∈ s.queues, e.2.func ≠ (5 : BitVec 5).toNat) ∧ l.src.origin = .spawn none := by
  decide +kernel

/-! ### Bands, states and upkeep -/

theorem test_hyp_Bands :
    let f (b : Nat) (neap : Bool) (w : Option (Nat × Bool)) : Cryo := { (tRun tBank).cryo with band := b, neap := neap, switch := w }
    InBand (warmestOf 5000 5000 5000 5000) 0 ∧ 0 ≤ (f 1 false none).band ∧ InBand (warmestOf 7000 5000 5000 5000) 2 ∧ (f 1 false none).band < 2 ∧
    (f 1 false none).neap ≠ decide (2 ≤ 2) ∧ (f 1 true none).neap = decide (2 ≤ 2) ∧ (f 1 false (some (3, true))).switch ≠ none ∧
    stateIn 5 4 = 8 ∧ InBand (warmestOf 13000 5000 5000 5000) 4 ∧ (f 1 false none).floor < bandFloor 2 ∧ (0 : Nat) < (f 1 false none).band ∧
    warmestOf 5000 5000 5000 5000 ≤ fallBound 1 ∧ fallBound 2 < warmestOf 7000 5000 5000 5000 ∧ ((tRun tBank).cores.map Core.id).Nodup ∧
    (f 2 true none).neap ≠ decide (2 ≤ (f 2 true none).band - 1) ∧ (f 3 true none).neap = decide (2 ≤ (f 3 true none).band - 1) ∧
    (∀ d ∈ (tRun tBank).cores, (tRun tBank).coreOf d.id = d) ∧
    ({ (tRun tBank).core with divs := (1, 1, 1, 1) }).minDiv < bandFloor 2 := by unfold InBand; decide +kernel

theorem test_hyp_Bands_switch :
    let f (u : Nat) (want : Bool) : Cryo := { (tRun tBank).cryo with band := 1, switch := some (u, want) }
    (f 3 true).switch = some ((3 : BitVec 4).toNat, true) ∧ (3 : Nat) ≠ (4 : BitVec 4).toNat ∧ (f 15 false).switch = some ((15 : BitVec 4).toNat, false) ∧
    false = decide (2 ≤ (f 15 false).band) ∧ true ≠ decide (2 ≤ (f 15 true).band) ∧ (3 : BitVec 4).toNat < 15 ∧ (tRun tBank).cryo.switch = none := by decide +kernel

theorem test_hyp_CryogenicStates :
    let f (st : Nat) (t : Nat) : Cryo := { state := st, temps := [t, t, t, t] }
    (f 1 0).state = 1 ∧ (f 2 5000).state = 2 ∧ (f 2 5000).warmest.1 ≤ 5120 ∧ 5120 < (f 2 6000).warmest.1 ∧ (f 3 0).state = 3 ∧ (f 4 0).state = 4 ∧
    (f 4 0).released = false ∧ (f 7 18240).state = 7 ∧ (∀ z ∈ (f 7 18240).temps, 18240 ≤ z) ∧ (∃ z ∈ (f 7 0).temps, z < 18240) ∧
    ((f 0 0).wm = false ∧ (f 0 0).warmReq = none ∧ (f 0 0).vacuum = true) ∧ ((f 8 0).hreas = 3 → (f 8 0).vacuum = true) ∧
    ({ f 8 0 with band := 0 }).band < 4 ∧ (∀ z ∈ (f 0 18816).temps, 12800 < z) ∧ ({ f 0 0 with warmReq := some 7 }).warmReq = some 7 ∧
    ({ f 0 0 with wm := true, closing := true }).closing = true ∧ State.reset.request.payload = [] ∧ State.reset.request.cmd ≠ 4 ∧
    State.reset.request.cmd ≠ 5 ∧
    (let s : State := { State.reset with request := { cmd := 4 }, cryo := { f 0 0 with released := true, frozen := true } }
     s.request.cmd = 4 ∧ s.request.payload = [] ∧ s.cryo.released = true ∧ s.cryo.frozen = true ∧ State.reset.cryo.released = false ∧
      State.reset.cryo.frozen = false) := by decide +kernel

theorem test_hyp_CryogenicStates_payload :
    let f (l : List Nat) : State := { State.reset with request := { payload := l }, log := [{ seqno := 5, time := 1, kind := 8, unit := 0, detail := 0 }] }
    (f [1]).request.payload ≠ [] ∧ (f [1]).request.payload.length ≠ 6 ∧ (f [5, 0, 0, 0, 2, 0]).request.payload.length = 6 ∧
    ofBytesLe (((f [5, 0, 0, 0, 2, 0]).request.payload.drop 4).take 2) = 2 ∧ ofBytesLe (((f [5, 0, 0, 0, 99, 0]).request.payload.drop 4).take 2) = 99 ∧
    ofBytesLe ((f [5, 0, 0, 0, 2, 0]).request.payload.take 4) = 5 ∧
    (f []).log.find? (fun e => e.seqno = 5 + 0) = some { seqno := 5, time := 1, kind := 8, unit := 0, detail := 0 } ∧
    (f (List.replicate 32 0)).request.payload.length = 32 := by decide +kernel

theorem test_hyp_Upkeep :
    let s := { tRun tBank with ptbase := 1, windows := [(1, 40)] }
    SMap.get 0 s.windows (2 : BitVec 2).toNat ≤ s.now ∧ s.now < SMap.get 0 s.windows (1 : BitVec 2).toNat ∧ s.cryo.rband = 0 ∧
    (InBand (warmestOf 5000 5000 5000 5000) 0 ∧ 0 ≤ s.cryo.band) ∧ (InBand (warmestOf 7000 5000 5000 5000) 2 ∧ s.cryo.band < 2) ∧
    ({ s.cryo with rband := 2 }).rband ≠ 0 ∧ (1 : BitVec 2).toNat = 1 ∧ (0 : BitVec 2).toNat ≠ 1 ∧
    s.ptbase.toNat % 2 = 1 ∧ (s.hbm.byte (s.ptbase.toNat / 2 ^ 12 % 2 ^ 28 * 4096)).toNat = (0 : BitVec 3).toNat ∧
    (s.hbm.byte (s.ptbase.toNat / 2 ^ 12 % 2 ^ 28 * 4096)).toNat ≠ (1 : BitVec 3).toNat := by
  unfold InBand
  decide +kernel

/-! ### Fetching and stepping -/

/-- Words at HBM address 0. -/
def tImage : Nat → List Nat → Memory
  | _, [] => []
  | a, w :: r => Memory.write (tImage (a + 4) r) a w 4

/-- A task whose image has `len` bytes. -/
def tBundle (b : Bank) (ws : List Nat) (len : Nat) : State :=
  { tRun b with hbm := tImage 0 ws, core := { (tRun b).core with task := some { imlen := len } } }

/-- What the rules of the fetch assume of a bundle's words. -/
def tWordsAt (ws : List Nat) (len : Nat) : Prop :=
  ws.length ≤ 8 ∧ (∀ k < ws.length, MayFetch (tBundle tBank ws len) (0 + 4 * k) ∧ (tBundle tBank ws len).hbm.read (0 + 4 * k) 4 = ws.getD k 0) ∧
  ∀ k, k + 1 < ws.length → (ws.getD k 0).testBit 31 = false

theorem tWordsOk {ws : List Nat} {len : Nat}
    (h : ws.length ≤ 8 ∧ 4 * ws.length ≤ len ∧ (∀ k < ws.length, (tBundle tBank ws len).hbm.read (0 + 4 * k) 4 = ws.getD k 0) ∧
      ∀ k < ws.length - 1, (ws.getD k 0).testBit 31 = false) : tWordsAt ws len := by
  refine ⟨h.1, fun k hk => ⟨⟨by omega, { imlen := len }, rfl, ?_, ?_⟩, h.2.2.1 k hk⟩, fun k hk => h.2.2.2 k (by omega)⟩
  · exact Nat.zero_le _
  · have := h.2.1; show 0 + 4 * k + 4 ≤ 0 + len; omega

theorem tLegal {w : Nat} (h : (match decodeSlot w with
    | some x => x.instr.wellFormed
    | none => false) = true) : LegalWord w := by
  split at h
  · exact ⟨_, by assumption, h⟩
  · cases h

theorem tIllegal {w : Nat} (h : decodeSlot w = none) : ¬ LegalWord w := by
  rintro ⟨x, hx, _⟩
  rw [h] at hx
  cases hx

theorem tBeyond {ws : List Nat} {len a : Nat} (h : len < a + 4) : ¬ MayFetch (tBundle tBank ws len) a := by
  rintro ⟨_, t, ht, _, h2⟩
  obtain rfl : t = { imlen := len } := (Option.some.inj ht).symm
  simp only at h2
  omega

/-- The words of NOP, NOP with S, AND g5 = g6, g7, and VADD v1 = v2, v3. -/
def tNop : Nat := 0x03C00000
def tLast : Nat := 0x83C00000
def tAnd : Nat := 0x0001461E
def tVadd : Nat := (encode (.vadd 1 2 3 0)).getD 0

theorem test_hyp_Fetch_words : ∀ p ∈ [([tNop, 0x03D00000], 65536), ([tNop], 4), ([], 0), (List.replicate 8 tNop, 65536), ([tLast], 65536),
    ([tAnd, tAnd, tNop, tLast], 65536), ([tVadd, tVadd, tNop, tLast], 65536), ([tAnd, tVadd, tNop, tLast], 65536)], tWordsAt p.1 p.2 := by
  intro p hp
  refine tWordsOk ?_
  revert p
  decide +kernel

theorem test_hyp_Fetch_legal : (∀ w ∈ [tNop, tLast, tAnd, tVadd], LegalWord w) ∧ ¬ LegalWord 0x03D00000 := by
  refine ⟨fun w hw => tLegal ?_, tIllegal (by decide +kernel)⟩
  revert w
  decide +kernel

theorem test_hyp_Fetch_ends :
    ¬ MayFetch (tBundle tBank [tNop] 4) (0 + 4 * 1) ∧ ¬ MayFetch (tBundle tBank [] 0) (0 + 4 * 0) ∧ tLast.testBit 31 = true ∧ tNop.testBit 31 = false :=
  ⟨tBeyond (by decide +kernel), tBeyond (by decide +kernel), by decide +kernel⟩

theorem test_hyp_Fetch_checks :
    let count (ws : List Nat) (k : Nat) : Nat := (ws.filter fun w => slotClass w = k).length
    let fits (ws : List Nat) : Prop := count ws 0 ≤ 1 ∧ count ws 1 ≤ 2 ∧ count ws 2 ≤ 2 ∧ count ws 3 ≤ 1 ∧ count ws 4 ≤ 1 ∧ count ws 5 ≤ 1
    let once (ws : List Nat) : Prop := ((ws.filterMap decodeSlot).flatMap fun x => destsOf x.instr).Nodup
    ¬ fits [tAnd, tAnd, tNop, tLast] ∧ fits [tVadd, tVadd, tNop, tLast] ∧ ¬ once [tVadd, tVadd, tNop, tLast] ∧ fits [tAnd, tVadd, tNop, tLast] ∧
    once [tAnd, tVadd, tNop, tLast] := by decide +kernel

theorem tHead {l : List Sched} {n : Nat} (h : l = []) : ∀ e, l.head? = some e → n < e.at' := by
  rintro e he
  rw [h] at he
  cases he

/-- A quiet core with a bundle of one slot beside NOPs. -/
def tQuiet (b : Bank) (w : Nat) : State := tBundle b [w, tNop, tNop, tLast] 65536

theorem tQuietOk {b : Bank} {w : Nat} (h : (tQuiet b w).acting = some [0] ∧ (tQuiet b w).expired [0] = none ∧
    (match (tQuiet b w).dueIn? [0] with
      | none => true
      | some _ => false) = true ∧
    (match (tQuiet b w).preempting [0] with
      | none => true
      | some _ => false) = true ∧ (tQuiet b w).standing 0 = [] ∧ b.pending = [] ∧ b.bubbles = 0 ∧ b.after = none) : Quiet (tQuiet b w) := by
  obtain ⟨h1, h2, h3, h4, h5, h6, h7, h8⟩ := h
  refine ⟨rfl, rfl, tHead rfl, h1, h2, ?_, ?_, h5, rfl, rfl, rfl, h6, rfl, h7, h8, rfl, rfl⟩
  · show (tQuiet b w).dueIn? [0] = none
    cases hd : (tQuiet b w).dueIn? [0] with
    | none => rfl
    | some _ => rw [hd] at h3; cases h3
  · show (tQuiet b w).preempting [0] = none
    cases hd : (tQuiet b w).preempting [0] with
    | none => rfl
    | some _ => rw [hd] at h4; cases h4

theorem test_hyp_StepRuns_quiet : Quiet (tQuiet tBank tAnd) := tQuietOk (by decide +kernel)

theorem tFetch {s : State} {w : List Nat} {x : List Slot} (h : (match s.fetch with
    | .ok y => decide (y = (w, x))
    | .error _ => false) = true) : s.fetch = .ok (w, x) := by
  split at h
  · rename_i y hy
    rw [hy, of_decide_eq_true h]
  · cases h

theorem tFetchTrap {s : State} {r : TrapReq} (h : (match s.fetch with
    | .ok _ => false
    | .error y => decide (y = r)) = true) : s.fetch = .error r := by
  split at h
  · cases h
  · rename_i y hy
    rw [hy, of_decide_eq_true h]

theorem tNext {o : Out} {P : State → Bool} (h : (match o with
    | .next t => P t
    | _ => false) = true) : ∃ t, o = .next t ∧ P t = true := by
  split at h
  · exact ⟨_, rfl, h⟩
  · cases h

/-- NOP as the fetch gives it. -/
def tSlot (last : Bool) (g : PReg) (i : Instr) : Slot := { last := last, guard := g, neg := false, instr := i }

theorem test_hyp_StepRuns_order :
    let i : Instr := .purgeComplete
    let s := { tRun tBank with agenda := [i] }
    s.agenda = [i] ∧ (tRun tBank).agenda = [] ∧ ({ (tRun tBank).cryo with frozen := true }).frozen = true ∧ (tRun tBank).cryo.frozen = false ∧
    ({ at' := 0, event := .purgeComplete } : Sched).at' ≤ (tRun tBank).now ∧ State.reset.acting = none ∧ State.reset.calendar = [] := by decide +kernel

/-- A bundle of NOPs under a guard that is false. -/
def tFalse (b : Bank) : State := tBundle b [0x0BC00000, 0x0BC00000, 0x0BC00000, 0x8BC00000] 65536

theorem test_hyp_StepRuns_fetch :
    (tQuiet tBank 0x03D00000).fetch = .error { cause := 0x01, tval := BitVec.ofNat 64 (0 + 0x03D00000 * 2 ^ 32), cls := 1 } ∧
    (tQuiet tBank tAnd).fetch = .ok ([tAnd, tNop, tNop, tLast], [tSlot false 0 (.and 5 6 7), tSlot false 0 .nop, tSlot false 0 .nop, tSlot true 0 .nop]) ∧
    (tFalse tBank).fetch = .ok ([0x0BC00000, 0x0BC00000, 0x0BC00000, 0x8BC00000], [tSlot false 1 .nop, tSlot false 1 .nop, tSlot false 1 .nop, tSlot true 1 .nop]) ∧
    (tFalse { tBank with pw := [(1, 5)] }).fetch = .ok ([0x0BC00000, 0x0BC00000, 0x0BC00000, 0x8BC00000], [tSlot false 1 .nop, tSlot false 1 .nop, tSlot false 1 .nop, tSlot true 1 .nop]) :=
  ⟨tFetchTrap (by decide +kernel), tFetch (by decide +kernel), tFetch (by decide +kernel), tFetch (by decide +kernel)⟩

theorem tQuietFalse {b : Bank} (h : (tFalse b).acting = some [0] ∧ (tFalse b).expired [0] = none ∧
    (match (tFalse b).dueIn? [0] with
      | none => true
      | some _ => false) = true ∧
    (match (tFalse b).preempting [0] with
      | none => true
      | some _ => false) = true ∧ (tFalse b).standing 0 = [] ∧ b.pending = [] ∧ b.bubbles = 0 ∧ b.after = none) : Quiet (tFalse b) := by
  obtain ⟨h1, h2, h3, h4, h5, h6, h7, h8⟩ := h
  refine ⟨rfl, rfl, tHead rfl, h1, h2, ?_, ?_, h5, rfl, rfl, rfl, h6, rfl, h7, h8, rfl, rfl⟩
  · show (tFalse b).dueIn? [0] = none
    cases hd : (tFalse b).dueIn? [0] with
    | none => rfl
    | some _ => rw [hd] at h3; cases h3
  · show (tFalse b).preempting [0] = none
    cases hd : (tFalse b).preempting [0] with
    | none => rfl
    | some _ => rw [hd] at h4; cases h4

theorem test_hyp_StepRuns_skips :
    let x := [tSlot false 1 .nop, tSlot false 1 .nop, tSlot false 1 .nop, tSlot true 1 .nop]
    let s := tFalse tBank
    let u := tFalse { tBank with pw := [(1, 5)] }
    Quiet s ∧ Quiet u ∧ s.skips x = true ∧ u.skips x = false ∧ u.core.scinv = false ∧ u.wenNext = [] ∧ ∀ y ∈ x, u.guardOf y = false :=
  ⟨tQuietFalse (by decide +kernel), tQuietFalse (by decide +kernel), by decide +kernel, by decide +kernel, rfl, rfl, by decide +kernel⟩

/-- What the statement of a bundle with one live slot assumes. -/
def tOne (b : Bank) (w : Nat) (i : Instr) (rank order : Nat) : Prop :=
  let s := tQuiet b w
  let ws := [w, tNop, tNop, tLast]
  let slots := [tSlot false 0 i, tSlot false 0 .nop, tSlot false 0 .nop, tSlot true 0 .nop]
  let x : Live := { pos := 0, rank := rank, order := order, instr := i }
  Quiet s ∧ s.core.scinv = false ∧ s.wenNext = [] ∧ s.fetch = .ok (ws, slots) ∧ s.skips slots = false ∧ s.liveSlots 0 [] ws slots = [x] ∧
  s.core.bank.absent = [] ∧ s.core.other.absent = [] ∧ s.deadAccess = none ∧ s.trimClash slots [x] = false

/-- The state in which its slot executes. -/
def tSlotState (b : Bank) (w : Nat) (i : Instr) (rank order : Nat) : State :=
  ((tQuiet b w).openBundle [w, tNop, tNop, tLast]).atSlot { pos := 0, rank := rank, order := order, instr := i }

/-- The state in which TRAP and TRET act. -/
def tAfter (b : Bank) (w : Nat) (i : Instr) : State :=
  committed (tQuiet b w) ((tQuiet b w).openBundle [w, tNop, tNop, tLast]) [w, tNop, tNop, tLast]
    [tSlot false 0 i, tSlot false 0 .nop, tSlot false 0 .nop, tSlot true 0 .nop] false

theorem test_hyp_StepRuns_runs :
    let s := tSlotState tBank tAnd (.and 5 6 7) 0 20
    tOne tBank tAnd (.and 5 6 7) 0 20 ∧ (∃ t, exec (.and 5 6 7) s = .next t ∧ (t.raised.isNone && t.holding.isNone &&
      decide (t.core.bank.sys.slctl = 0 ∧ t.core.sends = [])) = true) ∧ (tQuiet tBank tAnd).core.bank.sys.slctl = 0 ∧ (tQuiet tBank tAnd).core.held = 0 :=
  ⟨⟨tQuietOk (by decide +kernel), rfl, rfl, tFetch (by decide +kernel), by decide +kernel, by decide +kernel, rfl, rfl, by decide +kernel⟩,
    tNext (P := fun t => t.raised.isNone && t.holding.isNone && decide (t.core.bank.sys.slctl = 0 ∧ t.core.sends = [])) (by decide +kernel), rfl, rfl⟩

/-- A task that marks the strandline: with a word that traps, or while a walk holds it. -/
def tMark (busy : Bool) : Bank := { tBank with g := [(2, 2)], sys := { tBank.sys with slctl := if busy then 4 else 0 } }
def tMarkHold : Bank := { tMark true with g := [(2, 1)] }

theorem test_hyp_StepRuns_holds :
    tOne tMarkHold 3146242 (.slmark 2) 0 20 ∧ ∃ t, exec (.slmark 2) (tSlotState tMarkHold 3146242 (.slmark 2) 0 20) = .next t ∧ (t.raised.isNone && t.holding.isSome) = true :=
  ⟨⟨tQuietOk (by decide +kernel), rfl, rfl, tFetch (by decide +kernel), by decide +kernel, by decide +kernel, rfl, rfl, by decide +kernel⟩,
    tNext (P := fun t => t.raised.isNone && t.holding.isSome) (by decide +kernel)⟩

theorem test_hyp_StepRuns_traps :
    tOne (tMark false) 3146242 (.slmark 2) 0 20 ∧ ∃ t, exec (.slmark 2) (tSlotState (tMark false) 3146242 (.slmark 2) 0 20) = .next t ∧
      (t.raised.any fun r => decide (r.cls ≠ 7)) = true :=
  ⟨⟨tQuietOk (by decide +kernel), rfl, rfl, tFetch (by decide +kernel), by decide +kernel, by decide +kernel, rfl, rfl, by decide +kernel⟩,
    tNext (P := fun t => t.raised.any fun r => decide (r.cls ≠ 7)) (by decide +kernel)⟩

theorem test_hyp_StepRuns_trap :
    tOne tBank 17827073 (.trap 5) 0 20 ∧ ∃ t, exec (.trap 5) (tSlotState tBank 17827073 (.trap 5) 0 20) = .next t ∧
      (t.raised.any fun r => decide (r.cls = 7)) = true :=
  ⟨⟨tQuietOk (by decide +kernel), rfl, rfl, tFetch (by decide +kernel), by decide +kernel, by decide +kernel, rfl, rfl, by decide +kernel⟩,
    tNext (P := fun t => t.raised.any fun r => decide (r.cls = 7)) (by decide +kernel)⟩

/-- A supervisor about to return. -/
def tBack : State := let s := tQuiet tBank 17825794
  { s with core := { s.core with bank := { tBank with use := .supervisor }, other := { tBank with id := 1 } } }

theorem tQuietBack (h : tBack.acting = some [0] ∧ tBack.expired [0] = none ∧
    (match tBack.dueIn? [0] with
      | none => true
      | some _ => false) = true ∧
    (match tBack.preempting [0] with
      | none => true
      | some _ => false) = true ∧ tBack.standing 0 = []) : Quiet tBack := by
  obtain ⟨h1, h2, h3, h4, h5⟩ := h
  refine ⟨rfl, rfl, tHead rfl, h1, h2, ?_, ?_, h5, rfl, rfl, rfl, rfl, rfl, rfl, rfl, rfl, rfl⟩
  · show tBack.dueIn? [0] = none
    cases hd : tBack.dueIn? [0] with
    | none => rfl
    | some _ => rw [hd] at h3; cases h3
  · show tBack.preempting [0] = none
    cases hd : tBack.preempting [0] with
    | none => rfl
    | some _ => rw [hd] at h4; cases h4

theorem test_hyp_StepRuns_return :
    let s := tBack
    let ws := [17825794, tNop, tNop, tLast]
    let slots := [tSlot false 0 .tret, tSlot false 0 .nop, tSlot false 0 .nop, tSlot true 0 .nop]
    let x : Live := { pos := 0, rank := 0, order := 20, instr := .tret }
    Quiet s ∧ s.core.scinv = false ∧ s.wenNext = [] ∧ s.fetch = .ok (ws, slots) ∧ s.skips slots = false ∧ s.liveSlots 0 [] ws slots = [x] ∧
    s.core.bank.absent = [] ∧ s.core.other.absent = [] ∧ s.trimClash slots [x] = false ∧
    (∃ t, exec .tret ((s.openBundle ws).atSlot x) = .next t ∧ (t.raised.isNone && t.holding.isNone) = true) ∧
    ∃ v, exec .tret (committed s (s.openBundle ws) ws slots false) = .next v ∧ true = true :=
  ⟨tQuietBack (by decide +kernel), rfl, rfl, tFetch (by decide +kernel), by decide +kernel, by decide +kernel, rfl, rfl, by decide +kernel,
    tNext (P := fun t => t.raised.isNone && t.holding.isNone) (by decide +kernel), tNext (P := fun _ => true) (by decide +kernel)⟩

/-! ### The whole machine -/

theorem test_hyp_StepKeepsMemoryCanonical : Canonical State.reset ∧ ∃ t, step State.reset = .next t ∧ decide (t.now = 1) = true := by
  refine ⟨⟨by decide +kernel, by decide +kernel, by decide +kernel, ?_, fun x hx => (by cases hx), fun e he => (by cases he)⟩, tNext (P := fun t => decide (t.now = 1)) (by decide +kernel)⟩
  intro c hc
  obtain rfl : c = {} := by simpa [State.reset] using hc
  refine ⟨by decide +kernel, by decide +kernel, (fun x hx => by cases hx), fun b hb r hr => ?_⟩
  have : ∀ b ∈ [({} : Core).bank, ({} : Core).other], b.inflight ++ b.replay = [] := by decide +kernel
  rw [this b hb] at hr
  cases hr

theorem test_hyp_DecodeOfEncode :
    (Instr.and 5 6 7).WellFormed ∧ encode (.and 5 6 7) = some tAnd ∧ tAnd < 2 ^ 26 ∧ decodeBits tAnd = some (.and 5 6 7) ∧
    encodeSlot (tSlot true 0 .nop) = some tLast ∧ (tSlot true 0 .nop).instr.WellFormed ∧ encodeMicroword .uend = some 0 :=
  by decide +kernel

theorem test_decode_scalar :
    [0x0000420C, 0x0000420D, 0x0001461E, 0x0000420F, 0x0010420C, 0x0010420D, 0x0010420E, 0x0010420F,
      0x0020420C, 0x0020420D, 0x0021051A, 0x0020420F, 0x0030420C, 0x0050C264, 0x00618660, 0x006492E1,
      0x006105F2, 0x00608323, 0x00807FFD, 0x00907FF8, 0x01108300, 0x01214003, 0x03C00000].map decodeBits =
    [some (.add 1 2 3), some (.sub 1 2 3), some (.and 5 6 7), some (.or 1 2 3),
      some (.xor 1 2 3), some (.shl 1 2 3), some (.shr 1 2 3), some (.sar 1 2 3),
      some (.mul 1 2 3), some (.mulhS 1 2 3), some (.mulhU 4 5 6), some (.divu 1 2 3),
      some (.remu 1 2 3), some (.addi 3 2 100), some (.shiL 6 6 24), some (.shiR 18 18 56),
      some (.shiA 4 5 60), some (.shiRol 2 3 8), some (.lis 1 (-3)), some (.shin 1 0x3FF8),
      some (.clz 2 3), some (.rdcyc 5), some (.nop)] := by decide

theorem test_decode_predicates :
    [0x00408414, 0x00408415, 0x00408416, 0x00408417, 0x0070C500, 0x00704109, 0x0070410A, 0x007041FF,
      0x00E08310, 0x00E08311, 0x00E08312, 0x00E0C10B].map decodeBits =
    [some (.cmpEq 2 4 5), some (.cmpNe 2 4 5), some (.cmpLt 2 4 5), some (.cmpLtu 2 4 5),
      some (.cmpiEq 3 5 0), some (.cmpiNe 1 1 2), some (.cmpiLt 1 1 2), some (.cmpiLtu 1 1 (-1)),
      some (.plogAnd 2 3 4), some (.plogOr 2 3 4), some (.plogXor 2 3 4), some (.plogAndn 3 1 2)] := by decide

theorem test_decode_control :
    [0x00A00064, 0x00BF0060, 0x00AFFFF8, 0x00B03C01, 0x00B00502, 0x00C00904, 0x00D08040, 0x00D14409,
      0x00D09406, 0x01100301, 0x01100002, 0x01100003, 0x01200000, 0x01200415, 0x01200002].map decodeBits =
    [some (.br 100), some (.call 60 24), some (.br (-8)), some (.ret 60),
      some (.jmpr 5), some (.loops 0 9 4), some (.mfs 2 0x010), some (.mts 5 0x102),
      some (.swaps 2 0x501), some (.trap 3), some (.tret), some (.brkp),
      some (.tend), some (.spawn 4 5), some (.trig)] := by decide

theorem test_decode_sync :
    [0x00F0FFF0, 0x00FFFF00, 0x01000108, 0x0100C109, 0x01000102, 0x01000013, 0x0100001B, 0x01000027,
      0x0100003F, 0x00300401, 0x00300102, 0x0030020F].map decodeBits =
    [some (.wait 0 15 15 15), some (.wait 15 15 15 0), some (.bar 1 2), some (.barArr 3 1 2),
      some (.barWait 1), some (.drainRel 0), some (.drainRel 2), some (.drainAcq 1),
      some (.drainFull 3), some (.clkdiv 4), some (.slmark 1), some (.fillq 2 3)] := by decide

theorem test_decode_requests :
    [0x01314400, 0x0130C201, 0x01324626, 0x0132060B].map decodeBits =
    [some (.bstep 5 4), some (.rqrd 3 2 0), some (.rqwr 9 6 9), some (.rqret 8 6 2)] := by decide

theorem test_decode_access :
    [0x01400000, 0x01440001, 0x01420102, 0x01400A03, 0x01560208, 0x01500009, 0x0150000A, 0x01530453,
      0x0161000C, 0x0161000D, 0x0161000E, 0x01600003, 0x01760104, 0x01730501, 0x01720502, 0x0171C307,
      0x01820020, 0x01820021, 0x01820022, 0x01810033, 0x01910420, 0x01A30800].map decodeBits =
    [some (.tld4 0 0 0), some (.tld64 4 0 0), some (.tld256 2 1 0), some (.tldG 0 10 0),
      some (.tst4 6 2 1), some (.tst64 0 0 1), some (.tst256 0 0 1), some (.tstS 3 4 10),
      some (.touchR 1 0 3), some (.touchW 1 0 3), some (.touchRw 1 0 3), some (.touchRel 0),
      some (.aset 6 1 1), some (.ainc 3 5 0), some (.amovTo 2 5), some (.amovFrom 7 3 1),
      some (.atomAdd 2 0 4), some (.atomMin 2 0 4), some (.atomMax 2 0 4), some (.atomCas 1 0 6),
      some (.tldt 1 1 8), some (.tstt 3 2 0)] := by decide

theorem test_decode_vector :
    [0x01C20444, 0x01C18421, 0x01C298E2, 0x01C40863, 0x01D08860, 0x01D08861, 0x01D214CA, 0x01D3A403,
      0x01E18440, 0x01E18441, 0x01E18442, 0x01E18443, 0x01F10C00, 0x01F10C80, 0x02030400, 0x02030401,
      0x02030402, 0x02030403, 0x021190A0, 0x022190A0, 0x0230D020, 0x023104C0, 0x0230D021, 0x0230D022,
      0x0230D023, 0x02450000].map decodeBits =
    [some (.vadd 4 1 2 1), some (.vsub 3 1 1 0), some (.vmul 5 6 7 0), some (.vfma 8 2 3 0),
      some (.vmax 1 2 3 0), some (.vmin 1 2 3 0), some (.vsel 4 5 6 2), some (.vmov 7 9 0),
      some (.vcmpEq 3 1 2 0), some (.vcmpNe 3 1 2 0), some (.vcmpLt 3 1 2 0), some (.vcmpLe 3 1 2 0),
      some (.vsfn 2 3 0 0), some (.vsfn 2 3 4 0), some (.vredAdd 6 1 0), some (.vredMax 6 1 0),
      some (.vredMin 6 1 0), some (.vredArgmax 6 1 0), some (.vperm 3 4 5 0), some (.vbcast 3 4 5 0),
      some (.vcvtRne 1 20 1 0), some (.vcvtRne 2 1 6 0), some (.vcvtSr 1 20 1 0), some (.vcvtRtz 1 20 1 0),
      some (.vcvtMode 1 20 1 0), some (.vpop 10 0)] := by decide

theorem test_decode_lanes :
    [0x02508860, 0x02508861, 0x02508862, 0x02508863, 0x02608860, 0x02608861, 0x02608862, 0x02608863,
      0x02740440, 0x028F4140, 0x02908860, 0x02908861, 0x02908862, 0x02921403, 0x02A18D00, 0x02A20C01,
      0x02A28C02, 0x02B08860].map decodeBits =
    [some (.vlogAnd 1 2 3 0), some (.vlogOr 1 2 3 0), some (.vlogXor 1 2 3 0), some (.vlogAndn 1 2 3 0),
      some (.vshfL 1 2 3 0), some (.vshfR 1 2 3 0), some (.vshfA 1 2 3 0), some (.vshfRol 1 2 3 0),
      some (.vsplit 8 1 2 0), some (.vjoin 30 16 10 0), some (.vmlogAnd 1 2 3), some (.vmlogOr 1 2 3),
      some (.vmlogXor 1 2 3), some (.vmlogNot 4 5), some (.vretagSet 3 3 8 0), some (.vretagRead 4 3 0),
      some (.vretagClr 5 3 0), some (.vscl 1 2 3 0)] := by decide

theorem test_decode_matrix :
    [0x02C12C00, 0x02C00040, 0x02D0C700, 0x02D08501, 0x02D00416, 0x02D10003, 0x02E01100, 0x02E43028,
      0x02E01101, 0x02F20520, 0x02F20521, 0x02F40A22, 0x02F40A23].map decodeBits =
    [some (.mcall 300 0), some (.mcall 0 16), some (.msetp 3 7), some (.mseth 2 5),
      some (.muwr 4 5), some (.mpref 4), some (.relax 0 4 2 0 0), some (.relax 8 12 0 1 2),
      some (.relaxb 0 4 2), some (.mma 4 1 2 8), some (.mmaZ 4 1 2 8), some (.mmaT 8 2 4 8),
      some (.mmaZt 8 2 4 8)] := by decide

theorem test_decode_copies :
    [0x0302524D, 0x03129852, 0x03230000, 0x03270001, 0x0320440A, 0x03300414, 0x0330061D, 0x0330040A,
      0x03300403, 0x03400414, 0x03400415, 0x0340061E].map decodeBits =
    [some (.copy 2 5 9 3 1), some (.copyadd 5 3 20 2), some (.bcast 3), some (.blatch 7),
      some (.xtest 1 4 2), some (.send 4 5), some (.recv 6 7), some (.qpush 4 2),
      some (.qpop 4), some (.bdred 4 5), some (.bdidx 4 5), some (.bdtopk 6 7)] := by decide

theorem test_decode_sampler :
    [0x03808314, 0x03808401, 0x03808016, 0x0381870B, 0x03920928, 0x0392C931, 0x03914936].map decodeBits =
    [some (.smerge 2 3 5), some (.sreset 2 4), some (.ssoft 2 5), some (.sdraw 6 7 2),
      some (.saccept 8 9 10), some (.smatch 11 9 12), some (.spen 5 9 13)] := by decide

/-! ### Operand limits: a term that breaks each one -/

theorem test_wellFormed_refuses :
    ∀ i ∈ [Instr.aset 1 2 5, .amovFrom 1 2 6, .atomCas 1 2 3, .rqret 1 2 3, .vcvtRne 1 2 0 0, .vcvtRtz 1 2 12 0, .vcvtMode 1 2 15 0, .vcvtSr 1 2 1 0,
      .vcvtSr 1 2 6 0, .vjoin 1 2 27 0, .vretagSet 1 2 0 0, .vsfn 1 2 8 0, .vsplit 30 2 0 0, .relax 0 1 3 0 0, .relax 0 1 2 0 7, .relaxb 0 1 3,
      .mma 0 1 3 0, .mmaZ 0 1 3 0, .mmaT 0 1 3 0, .mmaZt 0 1 3 0, .mpref 3, .qpush 1 32], ¬ i.WellFormed := by decide

theorem test_wellFormed_admits :
    ∀ i ∈ [Instr.aset 1 2 4, .amovFrom 1 2 0, .atomCas 1 2 2, .rqret 1 2 2, .vcvtRne 1 2 11 0, .vcvtSr 1 2 2 0, .vcvtSr 1 2 5 0, .vjoin 1 2 26 0,
      .vsfn 1 2 7 0, .vsplit 29 2 0 0, .relax 0 1 2 0 6, .mma 0 1 2 0, .mpref 2, .qpush 1 31, .add 1 2 3], i.WellFormed := by decide

/-! ### Effects, worked out by hand from the rules -/

/-- What an instruction's next state writes when its results land. -/
def tLanding (o : Out) : List RegWrite := match o with
  | .next t => t.core.bank.inflight.map Result.write
  | _ => []

/-- A task with two general registers. -/
def tTwo (x y : Word) : State := tRun { tBank with g := [(2, x), (3, y)] }

theorem test_add_wraps : tLanding (exec (.add 1 2 3) (tTwo 0xFFFFFFFFFFFFFFFF 2)) = [.g 1 1] := by decide +kernel
theorem test_sub_borrows : tLanding (exec (.sub 1 2 3) (tTwo 0 1)) = [.g 1 0xFFFFFFFFFFFFFFFF] := by decide +kernel
theorem test_sar_keeps_sign : tLanding (exec (.sar 1 2 3) (tTwo 0xFFFFFFFFFFFFFFF8 1)) = [.g 1 0xFFFFFFFFFFFFFFFC] := by decide +kernel
theorem test_mulhS_negative : tLanding (exec (.mulhS 1 2 3) (tTwo 0xFFFFFFFFFFFFFFFF 2)) = [.g 1 0xFFFFFFFFFFFFFFFF] := by decide +kernel
theorem test_mulhU_large : tLanding (exec (.mulhU 1 2 3) (tTwo 0xFFFFFFFFFFFFFFFF 0xFFFFFFFFFFFFFFFF)) = [.g 1 0xFFFFFFFFFFFFFFFE] := by decide +kernel
theorem test_cmpLt_signed : tLanding (exec (.cmpLt 4 2 3) (tTwo 0xFFFFFFFFFFFFFFFF 1)) = [.p 4 true] := by decide +kernel
theorem test_cmpLtu_unsigned : tLanding (exec (.cmpLtu 4 2 3) (tTwo 0xFFFFFFFFFFFFFFFF 1)) = [.p 4 false] := by decide +kernel
theorem test_clz_zero : tLanding (exec (.clz 1 2) (tTwo 0 0)) = [.g 1 64] := by decide +kernel

/-- The first word a machine fetches after reset runs: ADDI g5 = g12 + 7. -/
theorem test_first_word : tLanding (step (State.reset.withFetchWord 32 0x00514C07)) = [.g 5 7] := by decide +kernel
theorem test_first_word_decodes : decodeTableWord 32 0x00514C07 = some (.addi 5 12 7) := by decide

theorem test_vadd_lane :
    (tLanding (exec (.vadd 1 2 3 0) (tRun { tBank with v := [(2, [(0, 0x3F800000)]), (3, [(0, 0x40000000)])], vtag := [(2, 1), (3, 1)] }))).map
      (fun w => match w with
        | .v 1 x _ _ => x.at 0 == 0x40400000
        | _ => false) = [true] := by decide +kernel

/-! ### Scalar operations -/

theorem test_hyp_AddSubAndOr : let s := tTwo 0xFFFFFFFFFFFFFFFF 2; s.g 2 = 0xFFFFFFFFFFFFFFFF ∧ s.g 3 = 2 := by decide +kernel

theorem test_hyp_XorAndShifts :
    let f (x : Word) : State := tTwo 0xFFFFFFFFFFFFFF00 x
    (f 4).g 2 = 0xFFFFFFFFFFFFFF00 ∧ (f 4).g 3 = 4 ∧ (f 200).g 3 = 200 ∧ ((f 63).g 3).toNat < 64 ∧ 64 ≤ ((f 64).g 3).toNat := by decide +kernel

theorem test_hyp_MultiplyDivide :
    (tTwo 0x8000000000000000 4).g 2 = 0x8000000000000000 ∧ (tTwo 0x8000000000000000 4).g 3 = 4 ∧ (tTwo 0xFFFFFFFFFFFFFFFF 0xFFFFFFFFFFFFFFFF).g 3 = 0xFFFFFFFFFFFFFFFF ∧
    (tTwo 100 7).g 2 = 100 ∧ (tTwo 100 7).g 3 = 7 ∧ (tTwo 100 7).g 3 ≠ 0 ∧ (tTwo 100 0).g 3 = 0 := by decide +kernel

theorem test_hyp_MultiplyDivide_both :
    ∃ t u, exec (.divu 1 2 3) (tTwo 100 7) = .next t ∧ exec (.remu 4 2 3) (tTwo 100 7) = .next u ∧ PutsInFlight (tTwo 100 7) t (.g 1 14) .ctl 18 ∧
      PutsInFlight (tTwo 100 7) u (.g 4 2) .ctl 18 := ⟨_, _, rfl, rfl, by unfold PutsInFlight; decide +kernel, by unfold PutsInFlight; decide +kernel⟩

theorem test_hyp_Constants :
    let s := tTwo 0x10 0
    s.g 3 = 0 ∧ (s.g 2).getLsbD 4 = true ∧ ∀ j, 4 < j → (s.g 2).getLsbD j = false := by
  refine ⟨by decide +kernel, by decide +kernel, fun j hj => ?_⟩
  by_cases h : j < 64
  · have : ∀ j < 64, 4 < j → ((tTwo 0x10 0).g 2).getLsbD j = false := by decide +kernel
    exact this j h hj
  · exact BitVec.getLsbD_of_ge _ _ (by omega)

theorem test_decode_microwords :
    [0x00000000, 0x10888A03, 0x20888000, 0x30000000].map decodeMicroword =
    [some .uend, some (.umma 1 2 4 1 1 0 3), some (.uew 1 2 4 0 0 0 0), none] := by decide

end Sys2Proof.Tests
end

section
/-!
SUPPORT. The slot word and its fields: bits 31:26 are S, G and N (06 R127), bits 25:0 alone say which instruction the slot
holds, and the class C register layout of 21 R330 reads back as the fields it was made of.
-/
namespace Sys2Proof

/-! ### The fields of a slot word -/

/-- A field below bit 26 is read from bits 25:0 alone. -/
theorem fld_add_mul_of_le {lo n : Nat} (h : lo + n ≤ 26) (w k : Nat) : fld (w + 2 ^ 26 * k) lo n = fld w lo n := by
  obtain ⟨j, hj⟩ := Nat.exists_eq_add_of_le h
  have hk : w + 2 ^ 26 * k = w + 2 ^ lo * (2 ^ n * (2 ^ j * k)) := by
    rw [hj, Nat.pow_add, Nat.pow_add, Nat.mul_assoc, Nat.mul_assoc]
  rw [fld, fld, hk, Nat.add_mul_div_left _ _ (Nat.two_pow_pos lo), Nat.add_mul_mod_self_left]

/-- Which instruction a slot word holds does not depend on its S, G and N bits (06 R127). -/
theorem decodeBits_add_mul (w k : Nat) : decodeBits (w + 2 ^ 26 * k) = decodeBits w := by
  unfold decodeBits decodeOp00 decodeOp01 decodeOp02 decodeOp03 decodeOp04 decodeOp05 decodeOp06 decodeOp07 decodeOp08
    decodeOp09 decodeOp0A decodeOp0B decodeOp0C decodeOp0D decodeOp0E decodeOp0F decodeOp10 decodeOp11 decodeOp12
    decodeOp13 decodeOp14 decodeOp15 decodeOp16 decodeOp17 decodeOp18 decodeOp19 decodeOp1A decodeOp1C decodeOp1D
    decodeOp1E decodeOp1F decodeOp20 decodeOp21 decodeOp22 decodeOp23 decodeOp24 decodeOp25 decodeOp26 decodeOp27
    decodeOp28 decodeOp29 decodeOp2A decodeOp2B decodeOp2C decodeOp2D decodeOp2E decodeOp2F decodeOp30 decodeOp31
    decodeOp32 decodeOp33 decodeOp34 decodeOp38 decodeOp39 decodeOp3C
  simp (disch := decide) only [fld_add_mul_of_le]

/-- A one-bit field that holds a flag reads back as the flag. -/
theorem toNat_beq_one (b : Bool) : (b.toNat == 1) = b := by cases b <;> rfl

/-- S, G and N make one number above bit 25: N its bit 0, G its bits 4:1, S its bit 5 (06 R127). -/
theorem slotBits_eq (last : Bool) (guard : PReg) (neg : Bool) :
    slotBits last guard neg = 2 ^ 26 * (32 * last.toNat + 2 * guard.val + neg.toNat) := by
  have hlast : (if last then 2 ^ 31 else 0) = 2 ^ 31 * last.toNat := by cases last <;> rfl
  have hneg : (if neg then 2 ^ 26 else 0) = 2 ^ 26 * neg.toNat := by cases neg <;> rfl
  rw [slotBits, hlast, hneg]
  omega

/-- A slot word with any S, G and N decodes to a slot with those and the instruction of its bits 25:0 (06 R127). -/
theorem decodeSlot_slotBits_add (last neg : Bool) (guard : PReg) {w : Nat} {i : Instr} (hw : w < 2 ^ 26)
    (h : decodeBits w = some i) : decodeSlot (slotBits last guard neg + w) = some ⟨last, guard, neg, i⟩ := by
  have hneg := neg.toNat_lt
  have hlast := last.toNat_lt
  have hguard := guard.isLt
  rw [slotBits_eq, Nat.add_comm]
  generalize hk : 32 * last.toNat + 2 * guard.val + neg.toNat = k
  have hS : fld (w + 2 ^ 26 * k) 31 1 = last.toNat := by unfold fld; omega
  have hG : fld (w + 2 ^ 26 * k) 27 4 = guard.val := by unfold fld; omega
  have hN : fld (w + 2 ^ 26 * k) 26 1 = neg.toNat := by unfold fld; omega
  rw [decodeSlot, decodeBits_add_mul, h, hS, hG, hN, Option.map_some, Fin.ofNat_val_eq_self, toNat_beq_one, toNat_beq_one]

/-! ### The class C register layout (21 R330) -/

section
variable {op d a b f : Nat}

@[simp] theorem fld_classC_op (hop : op < 64) (hd : d < 64) (ha : a < 64) (hb : b < 64) (hf : f < 4) :
    fld (classC op d a b f) 20 6 = op := by unfold fld classC; omega

@[simp] theorem fld_classC_d (hd : d < 64) (ha : a < 64) (hb : b < 64) (hf : f < 4) : fld (classC op d a b f) 14 6 = d := by
  unfold fld classC; omega

@[simp] theorem fld_classC_a (ha : a < 64) (hb : b < 64) (hf : f < 4) : fld (classC op d a b f) 8 6 = a := by
  unfold fld classC; omega

@[simp] theorem fld_classC_b (hb : b < 64) (hf : f < 4) : fld (classC op d a b f) 2 6 = b := by unfold fld classC; omega

@[simp] theorem fld_classC_f (hf : f < 4) : fld (classC op d a b f) 0 2 = f := by unfold fld classC; omega

/-- A class C word with any S, G and N decodes to the instruction of its fields. -/
theorem decodeSlot_classC (last neg : Bool) (guard : PReg) {i : Instr} (h : decodeBits (classC op d a b f) = some i)
    (hop : op < 64 := by omega) (hd : d < 64 := by omega) (ha : a < 64 := by omega) (hb : b < 64 := by omega)
    (hf : f < 4 := by omega) : decodeSlot (slotBits last guard neg + classC op d a b f) = some ⟨last, guard, neg, i⟩ :=
  decodeSlot_slotBits_add last neg guard (by unfold classC; omega) h

end

/-! ### Opcodes 0x00, 0x05, 0x06 and 0x11 (21 R330, R331, 24 R384, 21 R344) -/

theorem decodeBits_add (d a b : GReg) : decodeBits (classC 0 d a b 0) = some (.add d a b) := by
  simp (disch := omega) [decodeBits, decodeOp00]

theorem decodeBits_sub (d a b : GReg) : decodeBits (classC 0 d a b 1) = some (.sub d a b) := by
  simp (disch := omega) [decodeBits, decodeOp00]

theorem decodeBits_and (d a b : GReg) : decodeBits (classC 0 d a b 2) = some (.and d a b) := by
  simp (disch := omega) [decodeBits, decodeOp00]

theorem decodeBits_or (d a b : GReg) : decodeBits (classC 0 d a b 3) = some (.or d a b) := by
  simp (disch := omega) [decodeBits, decodeOp00]

/-- ADDI's 8-bit constant takes the place of fields B and F. -/
theorem decodeBits_addi (d a : GReg) (i : BitVec 8) :
    decodeBits (5 * 2 ^ 20 + d.val * 2 ^ 14 + a.val * 2 ^ 8 + i.toNat) = some (.addi d a i) := by
  generalize hw : 5 * 2 ^ 20 + d.val * 2 ^ 14 + a.val * 2 ^ 8 + i.toNat = w
  have hop : fld w 20 6 = 5 := by unfold fld; omega
  have hd : fld w 14 6 = d := by unfold fld; omega
  have ha : fld w 8 6 = a := by unfold fld; omega
  have hi : fld w 0 8 = i.toNat := by unfold fld; omega
  simp [decodeBits, decodeOp05, hop, hd, ha, hi]

theorem decodeBits_shiL (d a : GReg) (k : BitVec 6) : decodeBits (classC 6 d a k.toNat 0) = some (.shiL d a k) := by
  simp (disch := omega) [decodeBits, decodeOp06]

theorem decodeBits_shiR (d a : GReg) (k : BitVec 6) : decodeBits (classC 6 d a k.toNat 1) = some (.shiR d a k) := by
  simp (disch := omega) [decodeBits, decodeOp06]

theorem decodeBits_shiA (d a : GReg) (k : BitVec 6) : decodeBits (classC 6 d a k.toNat 2) = some (.shiA d a k) := by
  simp (disch := omega) [decodeBits, decodeOp06]

theorem decodeBits_shiRol (d a : GReg) (k : BitVec 6) : decodeBits (classC 6 d a k.toNat 3) = some (.shiRol d a k) := by
  simp (disch := omega) [decodeBits, decodeOp06]

/-- CLZ's field B is reserved and must be zero. -/
theorem decodeBits_clz (d a : GReg) : decodeBits (classC 0x11 d a 0 0) = some (.clz d a) := by
  simp (disch := omega) [decodeBits, decodeOp11]

end Sys2Proof
end

section
/-!
SUPPORT. The scalar instructions of Machine/Scalar.lean: what each puts in flight, and what its value is as a number or bit by
bit.
-/
namespace Sys2Proof.Machine

/-! ### What each instruction puts in flight -/

/-- A g result: one result more in flight, and nothing else (06 R139, R140). -/
theorem State.writeG_putsInFlight (s : State) (r : Nat) (x : Word) (lat : Nat) :
    PutsInFlight s (s.writeG r x lat) (.g r x) .ctl lat := rfl

/-- An instruction that ends in one g result puts it in flight, and what holds of the value holds of what is in flight. -/
theorem exec_puts_g {i : Instr} {s : State} {r : Nat} {x : Word} {lat : Nat} {P : Word → Prop}
    (h : exec i s = .next (s.writeG r x lat)) (hx : P x) :
    ∃ t y, exec i s = .next t ∧ PutsInFlight s t (.g r y) .ctl lat ∧ P y :=
  ⟨_, x, h, s.writeG_putsInFlight r x lat, hx⟩

section
variable (s : State) (d a b : GReg)

theorem exec_add : exec (.add d a b) s = .next (s.writeG d (s.g a + s.g b) 1) := rfl
theorem exec_sub : exec (.sub d a b) s = .next (s.writeG d (s.g a - s.g b) 1) := rfl
theorem exec_and : exec (.and d a b) s = .next (s.writeG d (s.g a &&& s.g b) 1) := rfl
theorem exec_or : exec (.or d a b) s = .next (s.writeG d (s.g a ||| s.g b) 1) := rfl

theorem exec_addi (i : BitVec 8) : exec (.addi d a i) s = .next (s.writeG d (s.g a + i.signExtend 64) 1) := rfl
theorem exec_shiL (i : BitVec 6) : exec (.shiL d a i) s = .next (s.writeG d (s.g a <<< i.toNat) 1) := rfl
theorem exec_shiR (i : BitVec 6) : exec (.shiR d a i) s = .next (s.writeG d (s.g a >>> i.toNat) 1) := rfl
theorem exec_shiA (i : BitVec 6) : exec (.shiA d a i) s = .next (s.writeG d ((s.g a).sshiftRight i.toNat) 1) := rfl
theorem exec_shiRol (i : BitVec 6) : exec (.shiRol d a i) s = .next (s.writeG d ((s.g a).rotateLeft i.toNat) 1) := rfl
theorem exec_lis (i : BitVec 14) : exec (.lis d i) s = .next (s.writeG d (i.signExtend 64) 1) := rfl
theorem exec_shin (i : BitVec 14) : exec (.shin d i) s = .next (s.writeG d ((s.g d <<< 14) ||| i.zeroExtend 64) 1) := rfl
theorem exec_clz : exec (.clz d a) s = .next (s.writeG d (clz64 (s.g a)) 1) := rfl
theorem exec_rdcyc : exec (.rdcyc d) s = .next (s.writeG d (BitVec.ofNat 64 (s.counter (dieOf s.core.id))) 1) := rfl
theorem exec_nop : exec .nop s = .next s := rfl

end

/-- A write of g0 is discarded (06 R129). -/
@[simp] theorem Bank.put_g_zero (k : Bank) (x : Word) : k.put (.g 0 x) = k := rfl

/-! ### The values -/

theorem toNat_sub_emod (x y : Word) : ((x - y).toNat : Int) = (x.toNat - y.toNat : Int) % 2 ^ 64 := by
  rw [BitVec.toNat_sub]; omega

/-- ADDI adds its constant as a signed number, modulo 2^64 (21 R331). -/
theorem toNat_add_signExtend (x : Word) (i : BitVec 8) :
    ((x + i.signExtend 64).toNat : Int) = (x.toNat + i.toInt) % 2 ^ 64 := by
  rw [BitVec.toNat_add, BitVec.signExtend, BitVec.toNat_ofInt]; omega

/-- A left shift multiplies by a power of two, modulo 2^64. -/
theorem toNat_shiftLeft_eq_mul (x : Word) (n : Nat) : (x <<< n).toNat = x.toNat * 2 ^ n % 2 ^ 64 := by
  rw [BitVec.toNat_shiftLeft, Nat.shiftLeft_eq]

/-- A logical right shift divides the unsigned value by a power of two. -/
theorem toNat_ushiftRight_eq_div (x : Word) (n : Nat) : (x >>> n).toNat = x.toNat / 2 ^ n := by
  rw [BitVec.toNat_ushiftRight, Nat.shiftRight_eq_div_pow]

/-- An arithmetic right shift divides the signed value by a power of two, rounding down. -/
theorem toInt_sshiftRight_eq_div (x : Word) (n : Nat) : (x.sshiftRight n).toInt = x.toInt / 2 ^ n := by
  rw [BitVec.toInt_sshiftRight, Int.shiftRight_eq_div_pow, Int.natCast_pow]; rfl

/-- SHIN appends its 14 bits below the value shifted left: the two do not overlap (24 R385). -/
theorem toNat_shiftLeft_or_zeroExtend (x : Word) (i : BitVec 14) :
    ((x <<< 14) ||| i.zeroExtend 64).toNat = x.toNat * 2 ^ 14 % 2 ^ 64 + i.toNat := by
  have hi := i.isLt
  have hfits : i.toNat % 2 ^ 64 = i.toNat := Nat.mod_eq_of_lt (by omega)
  have hlow : x.toNat * 2 ^ 14 % 2 ^ 64 = (x.toNat % 2 ^ 50) <<< 14 := by rw [Nat.shiftLeft_eq]; omega
  rw [BitVec.toNat_or, BitVec.toNat_shiftLeft, BitVec.toNat_setWidth, hfits, Nat.shiftLeft_eq, hlow,
    Nat.shiftLeft_add_eq_or_of_lt hi]

/-- Rotating left by `r` moves bit `k` to bit `k + r` modulo 64 (24 R384). -/
theorem getLsbD_rotateLeft_add (x : Word) {r k : Nat} (hr : r < 64) (hk : k < 64) :
    (x.rotateLeft r).getLsbD ((k + r) % 64) = x.getLsbD k := by
  rw [BitVec.getLsbD_rotateLeft, Nat.mod_eq_of_lt hr]
  by_cases hwrap : k + r < 64
  · have hhigh : ¬ k + r < r := by omega
    rw [Nat.mod_eq_of_lt hwrap, decide_eq_false hhigh, decide_eq_true hwrap, cond_false, Bool.true_and, Nat.add_sub_cancel]
  · have hmod : (k + r) % 64 = k + r - 64 := by omega
    have hlow : k + r - 64 < r := by omega
    have hback : 64 - r + (k + r - 64) = k := by omega
    rw [hmod, decide_eq_true hlow, cond_true, hback]

/-- A number's highest set bit is its logarithm. -/
theorem log2_of_highest_bit {x : Word} {k : Nat} (hk : x.getLsbD k = true) (hj : ∀ j, k < j → x.getLsbD j = false) :
    x.toNat.log2 = k := by
  have hlow : 2 ^ k ≤ x.toNat := Nat.ge_two_pow_of_testBit hk
  have hhigh : x.toNat < 2 ^ (k + 1) := Nat.lt_pow_two_of_testBit _ fun j h => hj j h
  have hpos := Nat.two_pow_pos k
  exact (Nat.log2_eq_iff (by omega)).mpr ⟨hlow, hhigh⟩

@[simp] theorem clz64_zero : clz64 0 = 64 := rfl

/-- The leading zeros are the bits above the highest set bit (21 R344). -/
theorem clz64_of_highest_bit {x : Word} {k : Nat} (hk : x.getLsbD k = true) (hj : ∀ j, k < j → x.getLsbD j = false) :
    (clz64 x).toNat = 63 - k := by
  have hx : x ≠ 0 := by rintro rfl; simp at hk
  rw [clz64, if_neg hx, log2_of_highest_bit hk hj, BitVec.toNat_ofNat, Nat.mod_eq_of_lt (by omega)]

end Sys2Proof.Machine
end

section
/-!
PROOFS. ADD, SUB, AND and OR (21 R330), and the forms with a constant, CLZ, RDCYC and NOP (21 R331, R344, 22 R353, 23 R364,
R368, 24 R384, R385).
-/

open Sys2Proof Sys2Proof.Machine

/-- Settles O1: each instruction ends in one g result, whose value is the sum, the difference or the bits. -/
theorem addSubAndOr : Obligations.AddSubAndOr := by
  unfold Obligations.AddSubAndOr
  refine ⟨fun last neg guard d a b => ?_, fun s d a b => ?_, fun s d a b => ?_, fun s d a b => ?_, fun s d a b => ?_,
    Bank.put_g_zero, rfl, fun s h2 h3 => ?_⟩
  · exact ⟨decodeSlot_classC _ _ _ (decodeBits_add d a b), decodeSlot_classC _ _ _ (decodeBits_sub d a b),
      decodeSlot_classC _ _ _ (decodeBits_and d a b), decodeSlot_classC _ _ _ (decodeBits_or d a b)⟩
  · exact exec_puts_g (exec_add s d a b) (BitVec.toNat_add _ _)
  · exact exec_puts_g (exec_sub s d a b) (toNat_sub_emod _ _)
  · exact exec_puts_g (exec_and s d a b) fun _ => BitVec.getLsbD_and
  · exact exec_puts_g (exec_or s d a b) fun _ => BitVec.getLsbD_or
  · have hsum : (0xFFFFFFFFFFFFFFFF : Word) + 2 = 1 := by decide
    have hadd : exec (.add 1 2 3) s = .next (s.writeG 1 (s.g 2 + s.g 3) 1) := exec_add s 1 2 3
    rw [h2, h3, hsum] at hadd
    exact ⟨_, hadd, s.writeG_putsInFlight 1 1 1⟩

/-- Settles O4: each form ends in one g result whose value is the arithmetic of its operand and constant; NOP changes
nothing. -/
theorem constants : Obligations.Constants := by
  unfold Obligations.Constants
  refine ⟨fun last neg guard d a i k => ?_, rfl, rfl, rfl, rfl, fun s d a i => ?_, fun s d a i => ?_, fun s d a i => ?_,
    fun s d a i => ?_, fun s d a i => ?_, fun s d i => ?_, fun s d i => ?_, fun s d a => ?_, fun s d => ?_,
    fun s => ⟨s, exec_nop s, rfl⟩⟩
  · exact ⟨decodeSlot_slotBits_add _ _ _ (by omega) (decodeBits_addi d a i), decodeSlot_classC _ _ _ (decodeBits_shiL d a k),
      decodeSlot_classC _ _ _ (decodeBits_shiR d a k), decodeSlot_classC _ _ _ (decodeBits_shiA d a k),
      decodeSlot_classC _ _ _ (decodeBits_shiRol d a k), decodeSlot_classC _ _ _ (decodeBits_clz d a)⟩
  · exact exec_puts_g (exec_addi s d a i) (toNat_add_signExtend _ i)
  · exact exec_puts_g (exec_shiL s d a i) (toNat_shiftLeft_eq_mul _ _)
  · exact exec_puts_g (exec_shiR s d a i) (toNat_ushiftRight_eq_div _ _)
  · exact exec_puts_g (exec_shiA s d a i) (toInt_sshiftRight_eq_div _ _)
  · exact exec_puts_g (exec_shiRol s d a i) fun k hk => getLsbD_rotateLeft_add _ (by omega) hk
  · exact exec_puts_g (exec_lis s d i) (BitVec.toInt_signExtend_of_le (by omega))
  · exact exec_puts_g (exec_shin s d i) (toNat_shiftLeft_or_zeroExtend _ i)
  · exact exec_puts_g (exec_clz s d a) ⟨fun h => by rw [h, clz64_zero], fun k _ hk hj => clz64_of_highest_bit hk hj⟩
  · exact ⟨_, exec_rdcyc s d, s.writeG_putsInFlight _ _ 1⟩

end

section
/-!
SUPPORT. The multiplications and divisions of Machine/Scalar.lean: their words, what each puts in flight, and their values as
products, quotients and remainders (22 R349, R362, 23 R374).
-/
namespace Sys2Proof

/-! ### Opcodes 0x02 and 0x03 -/

theorem decodeBits_mul (d a b : GReg) : decodeBits (classC 2 d a b 0) = some (.mul d a b) := by
  simp (disch := omega) [decodeBits, decodeOp02]

theorem decodeBits_mulhS (d a b : GReg) : decodeBits (classC 2 d a b 1) = some (.mulhS d a b) := by
  simp (disch := omega) [decodeBits, decodeOp02]

theorem decodeBits_mulhU (d a b : GReg) : decodeBits (classC 2 d a b 2) = some (.mulhU d a b) := by
  simp (disch := omega) [decodeBits, decodeOp02]

theorem decodeBits_divu (d a b : GReg) : decodeBits (classC 2 d a b 3) = some (.divu d a b) := by
  simp (disch := omega) [decodeBits, decodeOp02]

theorem decodeBits_remu (d a b : GReg) : decodeBits (classC 3 d a b 0) = some (.remu d a b) := by
  simp (disch := omega) [decodeBits, decodeOp03]

end Sys2Proof

namespace Sys2Proof.Machine

/-! ### What each instruction puts in flight -/

section
variable (s : State) (d a b : GReg)

theorem exec_mul : exec (.mul d a b) s = .next (s.writeG d (s.g a * s.g b) 3) := rfl
theorem exec_mulhS : exec (.mulhS d a b) s = .next (s.writeG d (mulhS64 (s.g a) (s.g b)) 3) := rfl
theorem exec_mulhU : exec (.mulhU d a b) s = .next (s.writeG d (mulhU64 (s.g a) (s.g b)) 3) := rfl
theorem exec_divu : exec (.divu d a b) s = .next (s.writeG d (divu64 (s.g a) (s.g b)) 18) := rfl
theorem exec_remu : exec (.remu d a b) s = .next (s.writeG d (remu64 (s.g a) (s.g b)) 18) := rfl

end

/-- The result that two states differ by is determined by the states. -/
theorem write_eq_of_putsInFlight {s t : State} {w w' : RegWrite} {d d' : Dom} {lat lat' : Nat}
    (h : PutsInFlight s t w d lat) (h' : PutsInFlight s t w' d' lat') : w = w' := by
  have hinflight := congrArg (fun u : State => u.core.bank.inflight) (h.symm.trans h')
  have hresult := List.head_eq_of_cons_eq (List.append_cancel_left hinflight)
  exact congrArg Result.write hresult

/-- The value in flight after an instruction that ends in one g result is the value of that result. -/
theorem eq_of_exec_puts_g {i : Instr} {s t : State} {r : Nat} {x y : Word} {lat : Nat}
    (h : exec i s = .next (s.writeG r x lat)) (ht : exec i s = .next t) (hput : PutsInFlight s t (.g r y) .ctl lat) :
    y = x := by
  obtain rfl : s.writeG r x lat = t := Host.Outcome.next.inj (h.symm.trans ht)
  have hwrite := write_eq_of_putsInFlight hput (s.writeG_putsInFlight r x lat)
  exact (RegWrite.g.inj hwrite).2

/-- With its operands' values given, an instruction that ends in one g result puts the value computed from them in flight. -/
theorem exec_puts_g_of_operands {i : Instr} {s : State} {r lat : Nat} {f : Word → Word → Word} {u v x y z : Word}
    (h : exec i s = .next (s.writeG r (f u v) lat)) (hu : u = x) (hv : v = y) (hf : f x y = z) :
    ∃ t, exec i s = .next t ∧ PutsInFlight s t (.g r z) .ctl lat := by
  subst hu hv hf
  exact ⟨_, h, s.writeG_putsInFlight r _ lat⟩

/-! ### Products -/

/-- The high half of the signed product is the product divided by 2^64, rounding down: it fits a signed word. -/
theorem toInt_mulhS64 (x y : Word) : (mulhS64 x y).toInt = x.toInt * y.toInt / 2 ^ 64 := by
  have hlow : -(2 ^ 126) ≤ x.toInt * y.toInt := BitVec.le_toInt_mul_toInt
  have hhigh : x.toInt * y.toInt ≤ 2 ^ 126 := BitVec.toInt_mul_toInt_le
  exact BitVec.toInt_ofInt_eq_self (by omega) (by omega) (by omega)

/-- The high half of the unsigned product is the product divided by 2^64: it fits a word. -/
theorem toNat_mulhU64 (x y : Word) : (mulhU64 x y).toNat = x.toNat * y.toNat / 2 ^ 64 := by
  have hproduct : x.toNat * y.toNat < 2 ^ 64 * 2 ^ 64 := Nat.mul_lt_mul'' x.isLt y.isLt
  rw [mulhU64, BitVec.toNat_ofNat, Nat.mod_eq_of_lt (Nat.div_lt_of_lt_mul hproduct)]

/-! ### Quotients and remainders -/

@[simp] theorem divu64_zero (x : Word) : divu64 x 0 = 0xFFFFFFFFFFFFFFFF := rfl

/-- With a divisor other than zero, DIVU's result is the quotient of words. -/
theorem divu64_of_ne_zero (x : Word) {y : Word} (hy : y ≠ 0) : divu64 x y = x / y := by
  rw [divu64, if_neg hy, BitVec.udiv_def]

/-- REMU's result is the remainder of words, which by a zero divisor is the dividend. -/
theorem remu64_eq_umod (x y : Word) : remu64 x y = x % y := by
  rw [remu64, ← BitVec.umod_def]
  split
  case isTrue hy => rw [hy]; exact BitVec.umod_zero.symm
  case isFalse => rfl

@[simp] theorem remu64_zero (x : Word) : remu64 x 0 = x := rfl

/-- The dividend is the quotient times the divisor plus the remainder, for a zero divisor too (23 R374). -/
theorem divu64_mul_add_remu64 (x y : Word) : divu64 x y * y + remu64 x y = x := by
  by_cases hy : y = 0
  · rw [hy, remu64_zero, BitVec.ofNat_eq_ofNat, BitVec.mul_zero, BitVec.zero_add]
  · rw [divu64_of_ne_zero x hy, remu64_eq_umod]
    apply BitVec.eq_of_toNat_eq
    rw [BitVec.toNat_add, BitVec.toNat_mul, BitVec.toNat_udiv, BitVec.toNat_umod, Nat.mod_add_mod, Nat.div_add_mod',
      Nat.mod_eq_of_lt x.isLt]

end Sys2Proof.Machine
end

section
/-!
PROOFS. MUL, MULH.S and MULH.U (22 R362), DIVU (22 R349) and REMU (23 R374).
-/

open Sys2Proof Sys2Proof.Machine

/-- Settles O3: each instruction ends in one g result, whose value is the product's half, the quotient or the remainder. -/
theorem multiplyDivide : Obligations.MultiplyDivide := by
  unfold Obligations.MultiplyDivide
  refine ⟨fun last neg guard d a b => ?_, fun s d a b => ?_, fun s d a b => ?_, fun s d a b => ?_, fun s d a b => ?_,
    fun s d a b => ?_, fun s d e a b t u q r ht hu hq hr => ?_, rfl, rfl, rfl, fun s h2 h3 => ?_, fun s h2 h3 => ?_,
    fun s h2 h3 => ?_⟩
  · exact ⟨decodeSlot_classC _ _ _ (decodeBits_mul d a b), decodeSlot_classC _ _ _ (decodeBits_mulhS d a b),
      decodeSlot_classC _ _ _ (decodeBits_mulhU d a b), decodeSlot_classC _ _ _ (decodeBits_divu d a b),
      decodeSlot_classC _ _ _ (decodeBits_remu d a b)⟩
  · exact exec_puts_g (exec_mul s d a b) (BitVec.toNat_mul _ _)
  · exact exec_puts_g (exec_mulhS s d a b) (toInt_mulhS64 _ _)
  · exact exec_puts_g (exec_mulhU s d a b) (toNat_mulhU64 _ _)
  · exact exec_puts_g (exec_divu s d a b)
      ⟨fun hb => by rw [divu64_of_ne_zero _ hb, BitVec.toNat_udiv], fun hb => by rw [hb, divu64_zero]⟩
  · exact exec_puts_g (exec_remu s d a b)
      ⟨fun _ => by rw [remu64_eq_umod, BitVec.toNat_umod, Nat.mod_eq_sub_mul_div], fun hb => by rw [hb, remu64_zero]⟩
  · rw [eq_of_exec_puts_g (exec_divu s d a b) ht hq, eq_of_exec_puts_g (exec_remu s e a b) hu hr, divu64_mul_add_remu64]
  · obtain ⟨t, hmul, hlow⟩ := exec_puts_g_of_operands (exec_mul s 1 2 3) h2 h3 (z := 0) (by decide)
    obtain ⟨u, hmulhS, hsigned⟩ :=
      exec_puts_g_of_operands (exec_mulhS s 1 2 3) h2 h3 (z := 0xFFFFFFFFFFFFFFFE) (by decide)
    obtain ⟨v, hmulhU, hunsigned⟩ := exec_puts_g_of_operands (exec_mulhU s 1 2 3) h2 h3 (z := 2) (by decide)
    exact ⟨t, u, v, hmul, hlow, hmulhS, hsigned, hmulhU, hunsigned⟩
  · obtain ⟨t, hmul, hlow⟩ := exec_puts_g_of_operands (exec_mul s 1 2 3) h2 h3 (z := 1) (by decide)
    obtain ⟨u, hmulhS, hsigned⟩ := exec_puts_g_of_operands (exec_mulhS s 1 2 3) h2 h3 (z := 0) (by decide)
    obtain ⟨v, hmulhU, hunsigned⟩ :=
      exec_puts_g_of_operands (exec_mulhU s 1 2 3) h2 h3 (z := 0xFFFFFFFFFFFFFFFE) (by decide)
    exact ⟨t, u, v, hmul, hlow, hmulhS, hsigned, hmulhU, hunsigned⟩
  · obtain ⟨t, hdivu, hquotient⟩ := exec_puts_g_of_operands (exec_divu s 1 2 3) h2 h3 (z := 14) (by decide)
    obtain ⟨u, hremu, hremainder⟩ := exec_puts_g_of_operands (exec_remu s 1 2 3) h2 h3 (z := 2) (by decide)
    exact ⟨t, u, hdivu, hquotient, hremu, hremainder⟩

end

section
/-!
SUPPORT. XOR and the shifts of Machine/Scalar.lean whose count is a register's: their words, what each puts in flight, and
the values with a count below 64 and with one from 64 on (24 R381).
-/
namespace Sys2Proof

/-! ### Opcode 0x01 -/

theorem decodeBits_xor (d a b : GReg) : decodeBits (classC 1 d a b 0) = some (.xor d a b) := by
  simp (disch := omega) [decodeBits, decodeOp01]

theorem decodeBits_shl (d a b : GReg) : decodeBits (classC 1 d a b 1) = some (.shl d a b) := by
  simp (disch := omega) [decodeBits, decodeOp01]

theorem decodeBits_shr (d a b : GReg) : decodeBits (classC 1 d a b 2) = some (.shr d a b) := by
  simp (disch := omega) [decodeBits, decodeOp01]

theorem decodeBits_sar (d a b : GReg) : decodeBits (classC 1 d a b 3) = some (.sar d a b) := by
  simp (disch := omega) [decodeBits, decodeOp01]

end Sys2Proof

namespace Sys2Proof.Machine

/-! ### What each instruction puts in flight -/

section
variable (s : State) (d a b : GReg)

theorem exec_xor : exec (.xor d a b) s = .next (s.writeG d (s.g a ^^^ s.g b) 1) := rfl
theorem exec_shl : exec (.shl d a b) s = .next (s.writeG d (shl64 (s.g a) (s.g b)) 1) := rfl
theorem exec_shr : exec (.shr d a b) s = .next (s.writeG d (shr64 (s.g a) (s.g b)) 1) := rfl
theorem exec_sar : exec (.sar d a b) s = .next (s.writeG d (sar64 (s.g a) (s.g b)) 1) := rfl

end

/-- With the operands' values given, each of the three shifts puts its own result in flight. -/
theorem exec_shifts_put_g_of_operands {s : State} {d a b : GReg} {x c left right arith : Word} (ha : s.g a = x)
    (hb : s.g b = c) (hleft : shl64 x c = left) (hright : shr64 x c = right) (harith : sar64 x c = arith) :
    ∃ t u v, exec (.shl d a b) s = .next t ∧ PutsInFlight s t (.g d left) .ctl 1 ∧
      exec (.shr d a b) s = .next u ∧ PutsInFlight s u (.g d right) .ctl 1 ∧
      exec (.sar d a b) s = .next v ∧ PutsInFlight s v (.g d arith) .ctl 1 := by
  obtain ⟨t, hshl, hputLeft⟩ := exec_puts_g_of_operands (exec_shl s d a b) ha hb hleft
  obtain ⟨u, hshr, hputRight⟩ := exec_puts_g_of_operands (exec_shr s d a b) ha hb hright
  obtain ⟨v, hsar, hputArith⟩ := exec_puts_g_of_operands (exec_sar s d a b) ha hb harith
  exact ⟨t, u, v, hshl, hputLeft, hshr, hputRight, hsar, hputArith⟩

/-! ### The values -/

section
variable (x : Word) {c : Word}

theorem shl64_of_lt (hc : c.toNat < 64) : shl64 x c = x <<< c.toNat := if_pos hc
theorem shl64_of_ge (hc : 64 ≤ c.toNat) : shl64 x c = 0 := if_neg (Nat.not_lt.mpr hc)
theorem shr64_of_lt (hc : c.toNat < 64) : shr64 x c = x >>> c.toNat := if_pos hc
theorem shr64_of_ge (hc : 64 ≤ c.toNat) : shr64 x c = 0 := if_neg (Nat.not_lt.mpr hc)
theorem sar64_of_lt (hc : c.toNat < 64) : sar64 x c = x.sshiftRight c.toNat := if_pos hc

/-- An arithmetic shift by 63 leaves 64 copies of bit 63: bit 0 is bit 63 itself, and the others are its copies. -/
theorem sshiftRight_63 : x.sshiftRight 63 = if x.msb then 0xFFFFFFFFFFFFFFFF else 0 := by
  refine BitVec.eq_of_getElem_eq fun i hi => ?_
  have hbit : (x.sshiftRight 63)[i] = x.msb := by
    rw [BitVec.getElem_sshiftRight]
    split
    case isTrue h =>
      obtain rfl : i = 0 := by omega
      exact (BitVec.msb_eq_getLsbD_last x).symm
    case isFalse => rfl
  rw [hbit]
  cases x.msb with
  | true => exact (BitVec.getElem_allOnes i hi).symm
  | false => exact (BitVec.getElem_zero hi).symm

theorem sar64_of_ge (hc : 64 ≤ c.toNat) : sar64 x c = if x.msb then 0xFFFFFFFFFFFFFFFF else 0 :=
  (if_neg (Nat.not_lt.mpr hc)).trans (sshiftRight_63 x)

end

end Sys2Proof.Machine
end

section
/-!
PROOFS. XOR and the shifts SHL, SHR and SAR (24 R381).
-/

open Sys2Proof Sys2Proof.Machine

/-- Settles O2: each instruction ends in one g result. A shift by a count below 64 multiplies or divides by that power of two;
from 64 on SHL and SHR give 0 and SAR gives copies of bit 63. -/
theorem xorAndShifts : Obligations.XorAndShifts := by
  unfold Obligations.XorAndShifts
  refine ⟨fun last neg guard d a b => ?_, fun s d a b => ?_, fun s d a b => ?_, fun s d a b => ?_, fun s d a b => ?_,
    Bank.put_g_zero, rfl, rfl, rfl, fun s h2 h3 => ?_, fun s h2 h3 => ?_⟩
  · exact ⟨decodeSlot_classC _ _ _ (decodeBits_xor d a b), decodeSlot_classC _ _ _ (decodeBits_shl d a b),
      decodeSlot_classC _ _ _ (decodeBits_shr d a b), decodeSlot_classC _ _ _ (decodeBits_sar d a b)⟩
  · exact exec_puts_g (exec_xor s d a b) fun _ => BitVec.getLsbD_xor
  · exact exec_puts_g (exec_shl s d a b)
      ⟨fun hb => by rw [shl64_of_lt _ hb, toNat_shiftLeft_eq_mul], fun hb => shl64_of_ge _ hb⟩
  · exact exec_puts_g (exec_shr s d a b)
      ⟨fun hb => by rw [shr64_of_lt _ hb, toNat_ushiftRight_eq_div], fun hb => shr64_of_ge _ hb⟩
  · exact exec_puts_g (exec_sar s d a b)
      ⟨fun hb => by rw [sar64_of_lt _ hb, toInt_sshiftRight_eq_div], fun hb => sar64_of_ge _ hb⟩
  · exact exec_shifts_put_g_of_operands h2 h3 (by decide) (by decide) (by decide)
  · exact exec_shifts_put_g_of_operands h2 h3 (by decide) (by decide) (by decide)

end
